-- ==== Sys2Proof/Word.lean ====
section
/-! DEFINITION. The word types of the Kreanary K4 (R2: bit 0 is the least significant bit). -/

namespace Sys2Proof

/-- One byte of memory. -/
abbrev Byte := BitVec 8
/-- A 32-bit word. -/
abbrev W32 := BitVec 32
/-- A scalar register, a pointer, a 64-bit bus value. -/
abbrev W64 := BitVec 64
/-- A move word (R22). -/
abbrev W256 := BitVec 256
/-- A vector register, a 512-bit bus value. -/
abbrev W512 := BitVec 512

end Sys2Proof
end

