-- ==== Sys2Proof/Machine/Flags.lean ====
section
/-! DEFINITION. Floating-point values, roundings and flags (R199 to R208), exactly: a finite value is an integer
times a power of two, and every operation rounds one exact result. The SQ block formats (R209 to R214). -/

namespace Sys2Proof.Machine

/-! ### Formats and values -/

/-- (R200) The floating-point formats. -/
inductive Fmt where
  | fp32 | fp16 | bf16 | e4m3 | e5m2
  deriving DecidableEq, Repr

/-- (R200) Fraction bits F. -/
def Fmt.frac : Fmt → Nat
  | .fp32 => 23 | .fp16 => 10 | .bf16 => 7 | .e4m3 => 3 | .e5m2 => 2

/-- (R200) Exponent bits. -/
def Fmt.expo : Fmt → Nat
  | .fp32 => 8 | .fp16 => 5 | .bf16 => 8 | .e4m3 => 4 | .e5m2 => 5

/-- (R200) The exponent of the smallest subnormal, 1 − bias − F. -/
def Fmt.low : Fmt → Int
  | .fp32 => -149 | .fp16 => -24 | .bf16 => -133 | .e4m3 => -9 | .e5m2 => -16

/-- (R200) The encoding of the largest finite value. -/
def Fmt.maxCode : Fmt → Nat
  | .fp32 => 0x7F7FFFFF | .fp16 => 0x7BFF | .bf16 => 0x7F7F | .e4m3 => 0x7E | .e5m2 => 0x7B

/-- (R200) The position of the sign. -/
def Fmt.signPos (f : Fmt) : Nat := f.expo + f.frac

/-- (R200) The sign bit of an encoding. -/
def Fmt.signBit (f : Fmt) (neg : Bool) : Nat := if neg then 2 ^ f.signPos else 0

/-- (R201) The encoding of +∞; none in E4M3. -/
def Fmt.inf? : Fmt → Option Nat
  | .fp32 => some 0x7F800000 | .fp16 => some 0x7C00 | .bf16 => some 0x7F80 | .e4m3 => none | .e5m2 => some 0x7C

/-- (R201) The canonical NaN. -/
def Fmt.nan : Fmt → Nat
  | .fp32 => 0x7FC00000 | .fp16 => 0x7E00 | .bf16 => 0x7FC0 | .e4m3 => 0x7F | .e5m2 => 0x7E

/-- A number of a format: a NaN, an infinity, or (−1)^neg × m × 2^e. -/
inductive Val where
  | nan (signalling : Bool)
  | inf (neg : Bool)
  | fin (neg : Bool) (m : Nat) (e : Int)
  deriving DecidableEq, Repr

/-- (R200, R201) The value of the low bits of `n` in a format. -/
def Fmt.val (f : Fmt) (n : Nat) : Val :=
  let neg := n.testBit f.signPos
  let mag := n % 2 ^ f.signPos
  let e := mag / 2 ^ f.frac
  let fr := mag % 2 ^ f.frac
  if f = .e4m3 then
    if mag = 0x7F then .nan false
    else if e = 0 then .fin neg fr f.low else .fin neg (2 ^ f.frac + fr) (f.low + (e - 1 : Nat))
  else if e = 2 ^ f.expo - 1 then
    if fr = 0 then .inf neg else .nan (f != .e5m2 && fr < 2 ^ (f.frac - 1))
  else if e = 0 then .fin neg fr f.low
  else .fin neg (2 ^ f.frac + fr) (f.low + (e - 1 : Nat))

/-! ### Flags -/

/-- (R207) The flags. -/
def ffNV : BitVec 5 := 16
def ffDZ : BitVec 5 := 8
def ffOF : BitVec 5 := 4
def ffUF : BitVec 5 := 2
def ffNX : BitVec 5 := 1

/-- A flag raised under a condition. -/
def ffIf (b : Bool) (f : BitVec 5) : BitVec 5 := if b then f else 0

/-- An encoding delivered, with its flags. -/
structure FRes where
  bits : Nat
  ff : BitVec 5
  deriving DecidableEq, Repr

/-- A value with the flags raised on the way to it. -/
structure VRes where
  val : Val
  ff : BitVec 5
  deriving DecidableEq, Repr

/-! ### Rounding -/

/-- (R203) The rounding modes. -/
inductive RMode where
  | rne | rz | rd | ru | ro
  deriving DecidableEq, Repr

/-- (R123) FRM.MODE. -/
def RMode.ofFrm (m : BitVec 2) : RMode :=
  if m = 0 then .rne else if m = 1 then .rz else if m = 2 then .rd else .ru

/-- A magnitude to round: m × 2^e exactly, or, when `sticky`, strictly between it and (m + 1) × 2^e. -/
structure Mag where
  m : Nat
  e : Int
  sticky : Bool
  deriving DecidableEq, Repr

/-- (R203) Whether to go up from `lo` when `rem` of `2 ^ (k + 1)` remains (`k + 1` bits dropped). -/
def roundsUp (mode : RMode) (neg : Bool) (lo rem half : Nat) (sticky : Bool) : Bool :=
  match mode with
  | .rne => half < rem || (rem == half && (sticky || lo % 2 == 1))
  | .rz => false
  | .rd => neg && (rem != 0 || sticky)
  | .ru => !neg && (rem != 0 || sticky)
  | .ro => (rem != 0 || sticky) && lo % 2 == 0

/-- (R203) A magnitude rounded to a multiple of 2^q, and whether that changed it. -/
def Mag.at (x : Mag) (q : Int) (mode : RMode) (neg : Bool) : Nat × Bool :=
  if q ≤ x.e then (x.m * 2 ^ (x.e - q).toNat, x.sticky)
  else
    let k := (q - x.e).toNat
    let lo := x.m / 2 ^ k
    let rem := x.m % 2 ^ k
    (if roundsUp mode neg lo rem (2 ^ (k - 1)) x.sticky then lo + 1 else lo, rem != 0 || x.sticky)

/-- (R203) The exponent of the grid at a magnitude, with `f` fraction bits and lowest exponent `low`. -/
def Mag.grid (x : Mag) (f : Nat) (low : Int) : Int := max (x.e + (Nat.log2 x.m : Nat) - f) low

/-- (R203) A magnitude rounded to the grid of a format: its encoding, which continues above the largest finite
value, and whether rounding changed it. -/
def Mag.code (x : Mag) (f : Nat) (low : Int) (mode : RMode) (neg : Bool) : Nat × Bool :=
  if x.m = 0 then (0, x.sticky)
  else
    let q := x.grid f low
    let r := x.at q mode neg
    ((q - low).toNat * 2 ^ f + r.1, r.2)

/-- (R204) Whether an overflow goes to infinity. -/
def overflowsToInf (mode : RMode) (neg : Bool) : Bool :=
  match mode with
  | .rne => true
  | .rz | .ro => false
  | .rd => neg
  | .ru => !neg

/-- (R204) What an overflow delivers. -/
def Fmt.overflow (f : Fmt) (mode : RMode) (sat neg : Bool) : Nat :=
  if sat || !overflowsToInf mode neg then f.signBit neg + f.maxCode
  else match f.inf? with
    | some i => f.signBit neg + i
    | none => f.nan

/-- (R203, R204, R207) A finite magnitude rounded into a format. -/
def Mag.into (x : Mag) (f : Fmt) (mode : RMode) (sat neg : Bool) : FRes :=
  let c := x.code f.frac f.low mode neg
  if f.maxCode < c.1 then { bits := f.overflow mode sat neg, ff := ffOF ||| ffNX }
  else { bits := f.signBit neg + c.1, ff := ffIf c.2 ffNX ||| ffIf (c.2 && c.1 < 2 ^ f.frac) ffUF }

/-- (R202, R204, R207, R233) A value rounded into a format. With `sat` an infinity becomes the largest finite value where the format has
none, and passes where it has one, as R233 says of the forms (log 28). -/
def Val.into (v : Val) (f : Fmt) (mode : RMode) (sat : Bool) : FRes :=
  match v with
  | .nan s => { bits := f.nan, ff := ffIf s ffNV }
  | .inf neg =>
    match f.inf? with
    | some i => { bits := f.signBit neg + i, ff := 0 }
    | none => if sat then { bits := f.signBit neg + f.maxCode, ff := 0 } else { bits := f.nan, ff := ffNV }
  | .fin neg m e => ({ m := m, e := e, sticky := false } : Mag).into f mode sat neg

/-- (R110) A value with flags rounded into a format. -/
def VRes.into (v : VRes) (f : Fmt) (mode : RMode) : FRes :=
  let r := v.val.into f mode false
  { r with ff := v.ff ||| r.ff }

/-! ### Exact arithmetic -/

/-- Whether a value is a signalling NaN. -/
def Val.isSnan : Val → Bool
  | .nan s => s
  | _ => false

/-- Whether a value is a NaN. -/
def Val.isNan : Val → Bool
  | .nan _ => true
  | _ => false

/-- The sign of a value; a NaN's is taken as 0. -/
def Val.neg? : Val → Bool
  | .nan _ => false
  | .inf n => n
  | .fin n _ _ => n

/-- The value with its sign inverted. -/
def Val.negate : Val → Val
  | .nan s => .nan s
  | .inf n => .inf (!n)
  | .fin n m e => .fin (!n) m e

/-- A signed integer of magnitude `m`. -/
def signed (neg : Bool) (m : Nat) : Int := if neg then -(m : Int) else m

/-- (R205, R207) The exact sum. `rd` tells whether an exact zero of operands of unlike sign is −0. -/
def Val.add (rd : Bool) (a b : Val) : VRes :=
  match a, b with
  | .nan s, b => { val := .nan false, ff := ffIf (s || b.isSnan) ffNV }
  | a, .nan s => { val := .nan false, ff := ffIf (s || a.isSnan) ffNV }
  | .inf x, .inf y => if x = y then { val := .inf x, ff := 0 } else { val := .nan false, ff := ffNV }
  | .inf x, .fin _ _ _ => { val := .inf x, ff := 0 }
  | .fin _ _ _, .inf y => { val := .inf y, ff := 0 }
  | .fin x m e, .fin y n d =>
    let q := min e d
    let t := signed x (m * 2 ^ (e - q).toNat) + signed y (n * 2 ^ (d - q).toNat)
    if t = 0 then { val := .fin (if m = 0 ∧ n = 0 ∧ x = y then x else rd) 0 q, ff := 0 }
    else { val := .fin (t < 0) t.natAbs q, ff := 0 }

/-- (R205, R207) The exact product. -/
def Val.mul (a b : Val) : VRes :=
  match a, b with
  | .nan s, b => { val := .nan false, ff := ffIf (s || b.isSnan) ffNV }
  | a, .nan s => { val := .nan false, ff := ffIf (s || a.isSnan) ffNV }
  | .inf x, .inf y => { val := .inf (x != y), ff := 0 }
  | .inf x, .fin y n _ => if n = 0 then { val := .nan false, ff := ffNV } else { val := .inf (x != y), ff := 0 }
  | .fin x m _, .inf y => if m = 0 then { val := .nan false, ff := ffNV } else { val := .inf (x != y), ff := 0 }
  | .fin x m e, .fin y n d => { val := .fin (x != y) (m * n) (e + d), ff := 0 }

/-- (R113) a × b + c, exact. -/
def Val.fma (rd : Bool) (a b c : Val) : VRes :=
  let p := a.mul b
  let s := p.val.add rd c
  { s with ff := p.ff ||| s.ff }

/-- The magnitude of a quotient of numbers above zero, to more than 64 bits. -/
def quotMag (m : Nat) (e : Int) (n : Nat) (d : Int) : Mag :=
  let k := 66 + Nat.log2 n
  { m := m * 2 ^ k / n, e := e - d - k, sticky := m * 2 ^ k % n != 0 }

/-- (R207, R222) An exact infinity from finite operands: divide-by-zero, and a NaN with invalid in E4M3. -/
def Val.byZero (v : Val) (f : Fmt) (mode : RMode) : FRes :=
  let r := v.into f mode false
  { r with ff := r.ff ||| ffDZ }

/-- (R113, R205, R207) a ÷ b rounded into a format. -/
def Val.divInto (a b : Val) (f : Fmt) (mode : RMode) : FRes :=
  match a, b with
  | .nan s, b => { bits := f.nan, ff := ffIf (s || b.isSnan) ffNV }
  | a, .nan s => { bits := f.nan, ff := ffIf (s || a.isSnan) ffNV }
  | .inf _, .inf _ => { bits := f.nan, ff := ffNV }
  | .inf x, .fin y _ _ => (Val.inf (x != y)).into f mode false
  | .fin x _ _, .inf y => (Val.fin (x != y) 0 0).into f mode false
  | .fin x m e, .fin y n d =>
    if n = 0 then
      if m = 0 then { bits := f.nan, ff := ffNV }
      else (Val.inf (x != y)).byZero f mode
    else if m = 0 then (Val.fin (x != y) 0 0).into f mode false
    else (quotMag m e n d).into f mode false (x != y)

/-- The integer square root, bit by bit from bit `k` - 1 down, over a partial root `r`. -/
def isqrt : Nat → Nat → Nat → Nat
  | 0, _, r => r
  | k + 1, n, r => isqrt k n (if (r + 2 ^ k) * (r + 2 ^ k) ≤ n then r + 2 ^ k else r)

/-- The magnitude of the square root of a number above zero, to more than 64 bits. -/
def sqrtMag (m : Nat) (e : Int) : Mag :=
  let m' := if e % 2 = 0 then m else 2 * m
  let e' := if e % 2 = 0 then e else e - 1
  let n := m' * 4 ^ 66
  let r := isqrt (Nat.log2 n / 2 + 1) n 0
  { m := r, e := e' / 2 - 66, sticky := r * r != n }

/-- (R113) The square root rounded into a format. -/
def Val.sqrtInto (a : Val) (f : Fmt) (mode : RMode) : FRes :=
  match a with
  | .nan s => { bits := f.nan, ff := ffIf s ffNV }
  | .inf true => { bits := f.nan, ff := ffNV }
  | .inf false => (Val.inf false).into f mode false
  | .fin x m e =>
    if m = 0 then (Val.fin x 0 0).into f mode false
    else if x then { bits := f.nan, ff := ffNV }
    else (sqrtMag m e).into f mode false false

/-! ### Comparisons -/

/-- The value times 2^−q as an integer, for q not above its exponent. -/
def Val.scaled (q : Int) : Val → Int
  | .fin n m e => signed n (m * 2 ^ (e - q).toNat)
  | _ => 0

/-- (R111) a < b, for values that are not NaN. -/
def Val.lt (a b : Val) : Bool :=
  match a, b with
  | .inf x, .inf y => x && !y
  | .inf x, .fin _ _ _ => x
  | .fin _ _ _, .inf y => !y
  | .fin x m e, .fin y n d => (Val.fin x m e).scaled (min e d) < (Val.fin y n d).scaled (min e d)
  | _, _ => false

/-- (R111) a = b, for values that are not NaN; −0 = +0. -/
def Val.eq (a b : Val) : Bool := !a.lt b && !b.lt a

/-- (R111) A comparison of two values; `quiet` tells whether a quiet NaN goes unremarked. -/
def Val.compare (a b : Val) (quiet : Bool) (holds : Bool) : Bool × BitVec 5 :=
  if a.isNan || b.isNan then (false, ffIf (!quiet || a.isSnan || b.isSnan) ffNV) else (holds, 0)

/-- (R111) Whether `a` comes before `b` in the order of minimumNumber, −0 before +0. -/
def Val.before (a b : Val) : Bool := a.lt b || (a.eq b && a.neg? && !b.neg?)

/-- (R111) minimumNumber (`less`) or maximumNumber of two encodings. -/
def Fmt.minMax (f : Fmt) (less : Bool) (x y : Nat) : FRes :=
  let a := f.val x
  let b := f.val y
  let ff := ffIf (a.isSnan || b.isSnan) ffNV
  if a.isNan ∧ b.isNan then { bits := f.nan, ff := ff }
  else if a.isNan then { bits := y, ff := ff }
  else if b.isNan then { bits := x, ff := ff }
  else if less then { bits := if b.before a then y else x, ff := ff }
  else { bits := if a.before b then y else x, ff := ff }

/-- (R111) The class of an encoding, one-hot. -/
def Fmt.class (f : Fmt) (n : Nat) : Nat :=
  match f.val n with
  | .nan s => if s then 256 else 512
  | .inf x => if x then 1 else 128
  | .fin x m _ =>
    if m = 0 then (if x then 8 else 16)
    else if m < 2 ^ f.frac then (if x then 4 else 32) else (if x then 2 else 64)

/-! ### Integers -/

/-- (R199) A finite value rounded to an integer, and whether that changed it. -/
def Val.toIntegral (neg : Bool) (m : Nat) (e : Int) (mode : RMode) : Int × Bool :=
  let r := ({ m := m, e := e, sticky := false } : Mag).at 0 mode neg
  (signed neg r.1, r.2)

/-- (R199) A value converted to an integer of a range. -/
def Val.toInt (v : Val) (lo hi : Int) (mode : RMode) : Int × BitVec 5 :=
  match v with
  | .nan _ => (hi, ffNV)
  | .inf n => (if n then lo else hi, ffNV)
  | .fin n m e =>
    let r := Val.toIntegral n m e mode
    if r.1 < lo then (lo, ffNV) else if hi < r.1 then (hi, ffNV) else (r.1, ffIf r.2 ffNX)

/-- (R199) An integer as a value. -/
def Val.ofInt (i : Int) : Val := .fin (i < 0) i.natAbs 0

/-- (R111) An encoding rounded to an integral value. -/
def Fmt.rnd (f : Fmt) (n : Nat) (mode : RMode) : FRes :=
  match f.val n with
  | .nan s => { bits := f.nan, ff := ffIf s ffNV }
  | .inf _ => { bits := n, ff := 0 }
  | .fin x m e =>
    let r := Val.toIntegral x m e mode
    { (Val.fin x r.1.natAbs 0).into f mode false with ff := 0 }

/-! ### The SQ block formats -/

/-- (R209) Magnitude bits k of FMT 9, 10 and 11. -/
def sqK (fmt : Nat) : Nat := if fmt = 9 then 2 else if fmt = 10 then 4 else 7

/-- (R210) The value of a scale. -/
def sqScale (s : Nat) : Val :=
  let e := s / 256 % 256
  let f := s % 256
  if e = 255 then (if f = 0 then .inf false else .nan false)
  else if e = 0 then .fin false f (-134)
  else .fin false (256 + f) ((e : Int) - 135)

/-- (R211) The value of an element. -/
def sqElem (k : Nat) (scale : Val) (neg : Bool) (m mu : Nat) : Val :=
  match scale with
  | .nan _ => .nan false
  | .inf _ => if m = 0 then .fin neg 0 0 else .inf neg
  | .fin _ sm se => .fin neg (m * sm) (se - ((k - 1 : Nat) : Int) - mu)

/-- An SQ block: scale, micro-exponents by pair, and elements as sign and magnitude. -/
structure SqBlock where
  scale : Nat
  mus : List Nat
  elems : List (Bool × Nat)
  deriving DecidableEq, Repr

/-- (R212) The bytes of a block. -/
def sqBytes (n k : Nat) : Nat := (16 + n / 2 + n * (k + 1) + 7) / 8

/-- (R212) The block that a number of `sqBytes n k` bytes holds. -/
def sqParse (n k v : Nat) : SqBlock :=
  { scale := v % 2 ^ 16
    mus := (List.range (n / 2)).map fun j => v / 2 ^ (16 + j) % 2
    elems := (List.range n).map fun i =>
      let x := v / 2 ^ (16 + n / 2 + (k + 1) * i)
      (x / 2 ^ k % 2 == 1, x % 2 ^ k) }

/-- A list of bits or fields of width `w`, the first lowest. -/
def packList (w : Nat) : List Nat → Nat
  | [] => 0
  | x :: xs => x % 2 ^ w + 2 ^ w * packList w xs

/-- (R212) A block as a number. -/
def SqBlock.pack (b : SqBlock) (n k : Nat) : Nat :=
  b.scale + 2 ^ 16 * packList 1 b.mus + 2 ^ (16 + n / 2) * packList (k + 1) (b.elems.map fun x => (if x.1 then 2 ^ k else 0) + x.2)

/-- (R211) The values of a block's elements. -/
def SqBlock.vals (b : SqBlock) (k : Nat) : List Val :=
  (List.range b.elems.length).map fun i =>
    let x := b.elems.getD i (false, 0)
    sqElem k (sqScale b.scale) x.1 x.2 (b.mus.getD (i / 2) 0)

/-- The larger of two finite magnitudes (m, e). -/
def magMax (a b : Nat × Int) : Nat × Int :=
  let q := min a.2 b.2
  if a.1 * 2 ^ (a.2 - q).toNat < b.1 * 2 ^ (b.2 - q).toNat then b else a

/-- (R213) The scale for a largest magnitude above zero: the smallest finite one not below amax / Q, or none. -/
def sqScaleFor (k : Nat) (a : Nat × Int) : Option Nat :=
  let c := (quotMag a.1 a.2 (2 ^ k - 1) (-((k - 1 : Nat) : Int))).code 8 (-134) .ru false
  if 0xFEFF < c.1 then none else some c.1

/-- (R213) q(i): |x| / S to 24 significand bits, rounded to odd. -/
def sqQuot (m : Nat) (e : Int) (s : Nat × Int) : Mag :=
  if m = 0 then { m := 0, e := 0, sticky := false }
  else
    let x := quotMag m e s.1 s.2
    let q := x.e + (Nat.log2 x.m : Nat) - 23
    { m := (x.at q .ro false).1, e := q, sticky := false }

/-- (R213) round_rne(q × 2^p). -/
def Mag.scaledRne (x : Mag) (p : Int) : Nat := (x.at (-p) .rne false).1

/-- The magnitude of a finite value. -/
def Val.mag : Val → Nat × Int
  | .fin _ m e => (m, e)
  | _ => (0, 0)

/-- (R213) μ of each pair. -/
def sqMus (k : Nat) : List Mag → List Nat
  | a :: b :: rest => (if a.scaledRne k ≤ 2 ^ k - 1 ∧ b.scaledRne k ≤ 2 ^ k - 1 then 1 else 0) :: sqMus k rest
  | _ => []

/-- Whether two values are the same number, the sign of zero apart. -/
def Val.same (a b : Val) : Bool := if a.isNan || b.isNan then a.isNan && b.isNan else a.eq b

/-- (R213) The encoding of values, with their signs, into a block, and its flags. -/
def sqEncode (k : Nat) (xs : List Val) (signs : List Bool) : SqBlock × BitVec 5 :=
  let zeros := List.replicate (xs.length / 2) 0
  if xs.any Val.isNan then
    ({ scale := 0xFF80, mus := zeros, elems := signs.map fun n => (n, 0) },
     ffIf (xs.any Val.isSnan) ffNV ||| ffIf (xs.any fun x => !x.isNan) ffNX)
  else if xs.any fun x => match x with | .inf _ => true | _ => false then
    ({ scale := 0xFF00, mus := zeros
       elems := xs.map fun x => match x with | .inf n => (n, 2 ^ k - 1) | v => (v.neg?, 0) },
     ffIf (xs.any fun x => match x with | .fin _ m _ => m != 0 | _ => false) ffNX)
  else
    let amax := (xs.map Val.mag).foldl magMax (0, 0)
    if amax.1 = 0 then ({ scale := 0, mus := zeros, elems := xs.map fun x => (x.neg?, 0) }, 0)
    else
      let sc := sqScaleFor k amax
      let s := sc.getD 0xFEFF
      let qs := xs.map fun x => sqQuot x.mag.1 x.mag.2 (sqScale s).mag
      let mus := sqMus k qs
      let es := (List.range xs.length).map fun i =>
        let q := qs.getD i { m := 0, e := 0, sticky := false }
        ((xs.getD i (.fin false 0 0)).neg?, min (q.scaledRne ((k - 1 : Nat) + mus.getD (i / 2) 0)) (2 ^ k - 1))
      let b : SqBlock := { scale := s, mus := mus, elems := es }
      let lost := (List.range xs.length).any fun i => !((b.vals k).getD i (.nan false)).same (xs.getD i (.nan false))
      let under := (List.range xs.length).any fun i => (xs.getD i (.fin false 0 0)).mag.1 != 0 && (es.getD i (false, 1)).2 == 0
      (b, ffIf sc.isNone (ffOF ||| ffNX) ||| ffIf lost ffNX ||| ffIf under (ffUF ||| ffNX))

end Sys2Proof.Machine
end

