-- ==== Sys2Proof/Config.lean ====
section
/-! DEFINITION. What the manual leaves open: values that nothing fixes, as constants without a body, so that
nothing can be proved of them. -/

namespace Sys2Proof.Config

/-- A free value: an undefined or unstated result is this constant at a fresh index (log 5). -/
opaque free : Nat → W512

/-- (R390) The firmware key, a point of 97 bytes, and the SHA-384 digest of it that is fused in the package (log 6). -/
opaque firmwareKey : List Byte
opaque fusedDigest : List Byte

/-- (R390, R392) The management firmware that the package holds, and the fallback firmware of its boot ROM (log 6). -/
opaque image : List Byte
opaque fallback : List Byte

/-- (R378) Whether the device's table of errata names an erratum. What has been published is not given (log 6). -/
opaque erratum : Nat → Bool

/-- (R393) The device key, readable by no port, and the secret number of the n-th signature that it makes (log 6). -/
opaque deviceKey : Nat
opaque signNonce : Nat → Nat

/-- (R324) The status byte of a reply that says "applied, no valid result": no rule numbers it (log 6). -/
opaque appliedStatus : Nat

/-- (R349) The number of the peer port that leads to a member of a phase group: the cabling is not given (log 22). -/
opaque peerPort : Nat → Nat → Nat

/-- (R160, R176) The place in its ring of the tile behind whose router a cluster's gather buffer stands, and the place among the
routers of its cluster, die or the package of an event line: not given (log 22). -/
opaque gatherTile : Nat → Nat
opaque lineTile : Nat → Nat

/-- (R388) The host port by which a window message comes in, by its SEQ (log 22). -/
opaque hostPort : Nat → Nat

/-- (R364) The status of a window access whose way is down: no rule numbers it (log 6). -/
opaque linkStatus : Nat

/-- (R363) INFO[4:0] of FLT_LINK for a mesh link: no rule numbers mesh links (log 6). -/
opaque meshLink : Nat → Nat

/-- (R394) What telemetry reads at the n-th reading: powers and temperatures (log 6). -/
opaque telemetry : Nat → List W64

/-- (R291) Whether a read of a byte that the same copy writes, at nesting `d`, comes after that write: at a copy's
number and the byte's storage location (log 5). -/
opaque copyOrder : Nat → Nat → Nat → Bool

/-- (R291, R295, R300) Whether a copy leaves a destination byte unwritten where the manual lets it: a byte of an
overlap, or any byte of a copy that stops (log 5). -/
opaque copyKeep : Nat → Nat → Bool

end Sys2Proof.Config
end

