-- ==== Sys2Proof/Syntax.lean ====
section
/-! DEFINITION. The syntax of the machine: the move word of R22 to R31, and `Instr`, one constructor per
row of the table of operations and events. A trigger operation carries what its port number encodes; an
event carries what names it (an identifier, a tile, a message). What a trigger reads (its operand, its
context, its slot) stands in the state, since the word does not encode it. -/

namespace Sys2Proof

/-- Units 1 and 2 (R44). -/
inductive IntUnit where
  | inta | intb
  deriving DecidableEq, Repr

/-- Units 5 and 6 (R47). -/
inductive MemUnit where
  | mema | memb
  deriving DecidableEq, Repr

/-- Units 7 and 8 (R49). -/
inductive VecUnit where
  | veca | vecb
  deriving DecidableEq, Repr

/-- The suffixes .s, .h and .b of fadd and fmul (R45, R46): FP32, FP16 and BF16. -/
inductive FpFmt where
  | s | h | b
  deriving DecidableEq, Repr

/-- fadd ports 45 to 50, `cvt.<to>.<from>` (R45). -/
inductive FpCvt where
  | hs | bs | sh | sb | hb | bh
  deriving DecidableEq, Repr

/-- The plain, `.mm` and `.ma` forms (R221). -/
inductive MaskMode where
  | plain | mm | ma
  deriving DecidableEq, Repr

/-- The plain, `.sat` and `.ro` forms of the pack family (R233). -/
inductive PackMode where
  | plain | sat | ro
  deriving DecidableEq, Repr

/-- The load forms of R115 and R152. -/
inductive LoadForm where
  | b | bu | h | hu | w | wu | d | v
  deriving DecidableEq, Repr

/-- The store forms of R116. -/
inductive StoreForm where
  | b | h | w | d | v
  deriving DecidableEq, Repr

/-- Comparison forms (R224). -/
inductive Cmp where
  | eq | lt | le
  deriving DecidableEq, Repr

/-- The source width of the sext and zext forms (R107). -/
inductive ExtWidth where
  | b | h | w
  deriving DecidableEq, Repr

/-- A move's guard (R23, R24). -/
structure Guard where
  inv : Bool
  flag : BitVec 4
  deriving DecidableEq, Repr

/-- What a SOURCE field names (R29). `imm` holds SOURCE[10:0] of a short immediate. -/
inductive Source where
  | g (n : BitVec 6)
  | f (n : BitVec 4)
  | a (n : BitVec 4)
  | res (u : BitVec 4) (slot : BitVec 3)
  | v (n : BitVec 10)
  | imm (code : BitVec 11)
  | long
  deriving DecidableEq, Repr

/-- What a DEST field names (R30): ports 0 to 2 of a unit are operand ports, the others trigger ports. -/
inductive Dest where
  | g (n : BitVec 6)
  | f (n : BitVec 4)
  | a (n : BitVec 4)
  | v (n : BitVec 10)
  | port (u : BitVec 4) (p : BitVec 6)
  deriving DecidableEq, Repr

/-- One slot of a move word (R23 to R25). `empty` is a slot with GUARD 0b10000 (R24). -/
inductive Slot where
  | empty
  | move (gd : Guard) (src : Source) (dst : Dest)
  | lit (x : BitVec 29)
  deriving DecidableEq, Repr

/-- A move word without its zero fields XH and KIND (R22, R26). `slots` holds slots 0 to 7 in order. -/
structure MoveWord where
  sc : BitVec 4
  keep : Bool
  bank : BitVec 3
  slots : List Slot
  deriving DecidableEq, Repr

/-- A context: physical tile number 144 × die + 12 × y + x, and context 0 to 3 (R8, R12, R16). -/
structure Who where
  tile : Nat
  ctx : Nat
  deriving DecidableEq, Repr

/-- A command packet: its header and body words (R329). -/
structure Packet where
  header : W64
  body : List W64
  deriving DecidableEq, Repr

/-- The fields of a tether message header other than TYPE (R387). -/
structure MsgHdr where
  session : Nat
  seq : Nat
  ack : Nat
  sack : W32
  deriving DecidableEq, Repr

/-- What a window message addresses (R388): a physical address with an optional placement
(PLACE, HOME, STACK), or a physical tile and an offset. -/
inductive WinAddr where
  | dram (pa : Nat) (place : Option (Nat × Nat × Nat))
  | tile (die y x off : Nat)
  deriving DecidableEq, Repr

/-- The operands of management operation 2 (R389): everything, or pages of one identifier. -/
inductive InvScope where
  | everything
  | pages (asid : Nat) (va : Nat) (count : Nat)
  deriving DecidableEq, Repr

/-- Whose flit a link loses (R321, R322, R363): an access, an atomic's request or its reply, a message, a copy request, a matrix
operation, a gather message, staged stores, a context's event request, a message between event lines, phase messages, or the swatches
of a ring rotate. -/
inductive Victim where
  | access (id : Nat)
  | request (id : Nat)
  | reply (id : Nat)
  | message (id : Nat)
  | copy (id : Nat)
  | matrix (tile : Nat) (id : Nat)
  | gather (id : Nat)
  | staged (job : Nat)
  | eventRequest (id : Nat)
  | event (id : Nat)
  | phase (job : Nat)
  | rot (tile : Nat) (job : Nat)
  | ownerless
  deriving DecidableEq, Repr

/-- What another member of a phase group sends about itself (R195, R349, R363): it has arrived in a phase; it has been pre-empted, and its
arrival in a phase stands no more; a link fault has touched it in a phase; or its job has completed. -/
inductive GroupNote where
  | arrived (phase : BitVec 32)
  | withdrawn (phase : BitVec 32)
  | touched (phase : BitVec 32)
  | completed
  deriving DecidableEq, Repr

/-- (R349) A member of a phase group, by its index, and what it sends about itself. -/
structure MemberNote where
  member : Nat
  note : GroupNote
  deriving DecidableEq, Repr

/-- How the replay of a flit ends (R321, R363): the flit arrives, it fails its CRC once more, or its replay copy cannot be
corrected; with what a lost flit carries. -/
inductive ReplayEnd where
  | arrived
  | failed (victim : Victim)
  | uncorrectable (victim : Victim)
  deriving DecidableEq, Repr

/-- What another member of a phase group answers (R303, R309, R325): an atomic's value, done, or a fault after start. -/
inductive PeerAnswer where
  | value (v : W64)
  | tilemap
  | owner
  | poison
  | closed
  | applied
  /-- it has ended before a link that is down: INFO of FLT_LINK (R364) -/
  | link (info : Nat)
  deriving DecidableEq, Repr

/-- An atomic of another member of a phase group, come in through a peer port (R325): the group, the member addressed and the
sending member, tile and context, its sequence number, address, memb port, operand and expected value. -/
structure VisitAmo where
  grp : Nat
  member : Nat
  source : Nat
  who : Who
  seq : Nat
  addr : W64
  port : Nat
  x : W64
  y : W64
  deriving DecidableEq, Repr

/-- Which atomic is applied (R318, R325): one of the package at its home here, one of the package at a home abroad, with the
answer, or one from abroad. -/
inductive AmoAt where
  | here (id : Nat)
  | abroad (id : Nat) (a : PeerAnswer)
  | visit (v : VisitAmo)
  deriving DecidableEq, Repr

/-- A message of another member of a phase group, come in through a peer port (R303 to R305). -/
structure VisitMsg where
  grp : Nat
  member : Nat
  t : W64
  header : W64
  value : W512
  deriving DecidableEq, Repr

/-- Which message arrives (R305): one of the package in it, one of the package abroad, with the answer, or one from abroad. -/
inductive MsgAt where
  | here (id : Nat)
  | abroad (id : Nat) (a : PeerAnswer)
  | visit (m : VisitMsg)
  deriving DecidableEq, Repr

/-- The state in which an otherwise unreported error is found (R359), and its physical location. -/
inductive McScope where
  | jobs (ids : List Nat) (loc : Nat)
  | die (d : Nat) (loc : Nat)
  deriving DecidableEq, Repr

/-- How a start of the package goes (R390, R391): CAUSE of the failure, or success. -/
inductive StartOutcome where
  | ok
  | fail (cause : BitVec 4)
  deriving DecidableEq, Repr

/-- What a soft error strikes (R357 to R362). Addresses are storage locations. `record` names the queue of the record: a unit,
or 16 + a unit for ldq. -/
inductive SoftErr where
  | single (loc : Nat) (bit : Nat)
  | double (loc : Nat)
  | cell (tile acc row col bit : Nat)
  | istore (tile word : Nat)
  | greg (c : Who) (n : Nat)
  | vreg (c : Who) (n : Nat)
  | aptr (c : Who) (n : Nat)
  | freg (c : Who) (n : Nat)
  | record (c : Who) (queue : Nat)
  | operand (c : Who) (unit : Nat) (port : Nat)
  | transient (c : Who)
  | rqEntry (tile : Nat) (q : Nat)
  | tlb (cluster : Nat) (idx : Nat)
  | utlb (tile : Nat) (idx : Nat)
  | walk (die : Nat) (idx : Nat)
  | undetected (loc : Nat) (value : Byte)
  deriving DecidableEq, Repr

/-- The steps of the machine: one constructor per row of the table of operations and events, those with
arguments first. -/
inductive Instr where
  /-- WORD_ISSUE (R36). -/
  | wordIssue (w : MoveWord)
  /-- STALL_COUNT_END (R28). -/
  | stallCountEnd (c : Who)
  /-- IDLE_END (R93). -/
  | idleEnd (c : Who)
  /-- WAIT_COUNT_LIMIT (R74). -/
  | waitCountLimit (c : Who)
  /-- STALL_FLOOR_IDLE_CYCLE (R80). -/
  | stallFloorIdleCycle (tile : Nat)
  /-- RESULT_LANDING (R54). -/
  | resultLanding (c : Who) (id : Nat)
  /-- DIVIDE_LANDING (R108). -/
  | divideLanding (c : Who) (id : Nat)
  /-- QUEUED_REPLY (R48). -/
  | queuedReply (id : Nat)
  /-- FAULT_AFTER_START (R353). -/
  | faultAfterStart (c : Who)
  /-- INT_ADD (R107, inta.add). -/
  | intAdd (u : IntUnit) (w : Bool)
  /-- INT_SUB (R107, inta.sub). -/
  | intSub (u : IntUnit) (w : Bool)
  /-- INT_AND (R107, inta.and). -/
  | intAnd (u : IntUnit)
  /-- INT_OR (R107, inta.or). -/
  | intOr (u : IntUnit)
  /-- INT_XOR (R107, inta.xor). -/
  | intXor (u : IntUnit)
  /-- INT_ANDN (R107, inta.andn). -/
  | intAndn (u : IntUnit)
  /-- INT_ORN (R107, inta.orn). -/
  | intOrn (u : IntUnit)
  /-- INT_SHL (R107, inta.shl). -/
  | intShl (u : IntUnit) (w : Bool)
  /-- INT_SHR (R107, inta.shr). -/
  | intShr (u : IntUnit) (w : Bool)
  /-- INT_SAR (R107, inta.sar). -/
  | intSar (u : IntUnit) (w : Bool)
  /-- INT_ROL (R107, inta.rol). -/
  | intRol (u : IntUnit) (w : Bool)
  /-- INT_ROR (R107, inta.ror). -/
  | intRor (u : IntUnit) (w : Bool)
  /-- INT_MUL (R107, inta.mul). -/
  | intMul (u : IntUnit) (w : Bool)
  /-- INT_MULH (R107, inta.mulh). -/
  | intMulh (u : IntUnit) (w : Bool)
  /-- INT_MULHU (R107, inta.mulhu). -/
  | intMulhu (u : IntUnit)
  /-- INT_DIV (R108, inta.div). -/
  | intDiv (u : IntUnit) (w : Bool)
  /-- INT_DIVU (R108, inta.divu). -/
  | intDivu (u : IntUnit) (w : Bool)
  /-- INT_REM (R108, inta.rem). -/
  | intRem (u : IntUnit) (w : Bool)
  /-- INT_REMU (R108, inta.remu). -/
  | intRemu (u : IntUnit) (w : Bool)
  /-- INT_MIN (R107, inta.min). -/
  | intMin (u : IntUnit)
  /-- INT_MINU (R107, inta.minu). -/
  | intMinu (u : IntUnit)
  /-- INT_MAX (R107, inta.max). -/
  | intMax (u : IntUnit)
  /-- INT_MAXU (R107, inta.maxu). -/
  | intMaxu (u : IntUnit)
  /-- INT_ABS (R107, inta.abs). -/
  | intAbs (u : IntUnit)
  /-- INT_SEQ (R107, inta.seq). -/
  | intSeq (u : IntUnit)
  /-- INT_SNE (R107, inta.sne). -/
  | intSne (u : IntUnit)
  /-- INT_SLT (R107, inta.slt). -/
  | intSlt (u : IntUnit)
  /-- INT_SLE (R107, inta.sle). -/
  | intSle (u : IntUnit)
  /-- INT_SLTU (R107, inta.sltu). -/
  | intSltu (u : IntUnit)
  /-- INT_SLEU (R107, inta.sleu). -/
  | intSleu (u : IntUnit)
  /-- INT_SEL (R107, inta.sel). -/
  | intSel (u : IntUnit)
  /-- INT_CLZ (R107, inta.clz). -/
  | intClz (u : IntUnit)
  /-- INT_CTZ (R107, inta.ctz). -/
  | intCtz (u : IntUnit)
  /-- INT_POPC (R107, inta.popc). -/
  | intPopc (u : IntUnit)
  /-- INT_BREV (R107, inta.brev). -/
  | intBrev (u : IntUnit)
  /-- INT_BSWAP (R107, inta.bswap). -/
  | intBswap (u : IntUnit)
  /-- INT_BEXT (R107, inta.bext). -/
  | intBext (u : IntUnit)
  /-- INT_BINS (R107, inta.bins). -/
  | intBins (u : IntUnit)
  /-- INT_SEXT (R107, inta.sextb). -/
  | intSext (u : IntUnit) (e : ExtWidth)
  /-- INT_ZEXT (R107, inta.zextb). -/
  | intZext (u : IntUnit) (e : ExtWidth)
  /-- INT_FPACK (R109, inta.fpack). -/
  | intFpack (u : IntUnit)
  /-- INT_FUNPACK (R109, inta.funpack). -/
  | intFunpack (u : IntUnit)
  /-- FP_ADD (R111, fadd.add.s). -/
  | fpAdd (f : FpFmt)
  /-- FP_SUB (R111, fadd.sub.s). -/
  | fpSub (f : FpFmt)
  /-- FP_MIN (R111, fadd.min.s). -/
  | fpMin (f : FpFmt)
  /-- FP_MAX (R111, fadd.max.s). -/
  | fpMax (f : FpFmt)
  /-- FP_ABS (R111, fadd.abs.s). -/
  | fpAbs (f : FpFmt)
  /-- FP_NEG (R111, fadd.neg.s). -/
  | fpNeg (f : FpFmt)
  /-- FP_CPSIGN (R111, fadd.cpsign.s). -/
  | fpCpsign (f : FpFmt)
  /-- FP_EQ (R111, fadd.eq.s). -/
  | fpEq (f : FpFmt)
  /-- FP_LT (R111, fadd.lt.s). -/
  | fpLt (f : FpFmt)
  /-- FP_LE (R111, fadd.le.s). -/
  | fpLe (f : FpFmt)
  /-- FP_CLASS (R111, fadd.class.s). -/
  | fpClass (f : FpFmt)
  /-- FP_RND (R111, fadd.rnd.s). -/
  | fpRnd (f : FpFmt)
  /-- FP_CVT_I2F (R111, fadd.cvt.i2f.s). -/
  | fpCvtI2f (f : FpFmt)
  /-- FP_CVT_F2I (R111, fadd.cvt.f2i.s). -/
  | fpCvtF2i (f : FpFmt)
  /-- FP_CVT_FORMAT (R112, fadd.cvt.h.s). -/
  | fpCvtFormat (c : FpCvt)
  /-- FP_MUL (R113, fmul.mul.s). -/
  | fpMul (f : FpFmt)
  /-- FP_FMA (R113, fmul.fma.s). -/
  | fpFma (f : FpFmt)
  /-- FP_FMS (R113, fmul.fms.s). -/
  | fpFms (f : FpFmt)
  /-- FP_FNMA (R113, fmul.fnma.s). -/
  | fpFnma (f : FpFmt)
  /-- FP_DIV (R113, fmul.div.s). -/
  | fpDiv (f : FpFmt)
  /-- FP_SQRT (R113, fmul.sqrt.s). -/
  | fpSqrt (f : FpFmt)
  /-- FP_RCP (R113, fmul.rcp.s). -/
  | fpRcp (f : FpFmt)
  /-- LOCAL_LOAD (R115, mema.ld.w). -/
  | localLoad (u : MemUnit) (f : LoadForm)
  /-- STORE (R116, mema.st.w). -/
  | store (u : MemUnit) (f : StoreForm)
  /-- LDQ (R152, mema.ldq.w). -/
  | ldq (f : LoadForm)
  /-- LDQ_NF (R153, mema.ldq.w.nf). -/
  | ldqNf (f : LoadForm)
  /-- AMO_ADD (R157, memb.amo.add). -/
  | amoAdd (w : Bool) (nc : Bool)
  /-- AMO_AND (R157, memb.amo.and). -/
  | amoAnd (nc : Bool)
  /-- AMO_OR (R157, memb.amo.or). -/
  | amoOr (nc : Bool)
  /-- AMO_XOR (R157, memb.amo.xor). -/
  | amoXor (nc : Bool)
  /-- AMO_MAX (R157, memb.amo.max). -/
  | amoMax (nc : Bool)
  /-- AMO_MAXU (R157, memb.amo.maxu). -/
  | amoMaxu (nc : Bool)
  /-- AMO_MIN (R157, memb.amo.min). -/
  | amoMin (nc : Bool)
  /-- AMO_MINU (R157, memb.amo.minu). -/
  | amoMinu (nc : Bool)
  /-- AMO_SWAP (R157, memb.amo.swap). -/
  | amoSwap (nc : Bool)
  /-- FENCE_COMPLETE (R165). -/
  | fenceComplete (id : Nat)
  /-- DRAIN_COMPLETE (R166). -/
  | drainComplete (c : Who)
  /-- REMOTE_ACCESS_ARRIVAL (R134). -/
  | remoteAccessArrival (id : Nat)
  /-- PAGED_ACCESS_ARRIVAL (R148). -/
  | pagedAccessArrival (id : Nat)
  /-- TRANSLATION_WALK (R143). -/
  | translationWalk (id : Nat) (useTlb : Bool)
  /-- COPY_ON_WRITE_RESOLVE (R142). -/
  | copyOnWriteResolve (id : Nat)
  /-- GATHER_JOIN (R161). -/
  | gatherJoin (id : Nat)
  /-- GATHER_ACCEPT (R160). -/
  | gatherAccept (id : Nat)
  /-- GATHER_REFUSE (R160). -/
  | gatherRefuse (id : Nat)
  /-- GATHER_RECALL (R160). -/
  | gatherRecall (id : Nat)
  /-- GATHER_FLUSH (R161). -/
  | gatherFlush (id : Nat)
  /-- PROVISIONAL_STAGE (R163). -/
  | provisionalStage (id : Nat)
  /-- VEC_VFMT (R218, veca.vfmt). -/
  | vecVfmt (u : VecUnit)
  /-- VADD (R222, veca.vadd). -/
  | vadd (u : VecUnit) (m : MaskMode)
  /-- VSUB (R222, veca.vsub). -/
  | vsub (u : VecUnit) (m : MaskMode)
  /-- VMUL (R222, veca.vmul). -/
  | vmul (u : VecUnit) (m : MaskMode)
  /-- VFMA (R222, veca.vfma). -/
  | vfma (u : VecUnit) (m : MaskMode)
  /-- VFMS (R222, veca.vfms). -/
  | vfms (u : VecUnit) (m : MaskMode)
  /-- VMIN (R222, veca.vmin). -/
  | vmin (u : VecUnit) (m : MaskMode)
  /-- VMAX (R222, veca.vmax). -/
  | vmax (u : VecUnit) (m : MaskMode)
  /-- VABS (R222, veca.vabs). -/
  | vabs (u : VecUnit)
  /-- VNEG (R222, veca.vneg). -/
  | vneg (u : VecUnit)
  /-- VCMP (R224, veca.vcmp.eq). -/
  | vcmp (u : VecUnit) (c : Cmp)
  /-- VSEL (R224, veca.vsel). -/
  | vsel (u : VecUnit)
  /-- VAND (R226, veca.vand). -/
  | vand (u : VecUnit)
  /-- VOR (R226, veca.vor). -/
  | vor (u : VecUnit)
  /-- VXOR (R226, veca.vxor). -/
  | vxor (u : VecUnit)
  /-- VNOT (R226, veca.vnot). -/
  | vnot (u : VecUnit)
  /-- VSHL (R226, veca.vshl). -/
  | vshl (u : VecUnit)
  /-- VSHR (R226, veca.vshr). -/
  | vshr (u : VecUnit)
  /-- VSAR (R226, veca.vsar). -/
  | vsar (u : VecUnit)
  /-- VADD_I (R227, veca.vadd.i). -/
  | vaddI (u : VecUnit)
  /-- VSUB_I (R227, veca.vsub.i). -/
  | vsubI (u : VecUnit)
  /-- VMUL_I (R227, veca.vmul.i). -/
  | vmulI (u : VecUnit)
  /-- VDOT4 (R227, veca.vdot4). -/
  | vdot4 (u : VecUnit)
  /-- VREDADD (R228, veca.vredadd). -/
  | vredadd (u : VecUnit)
  /-- VREDMAX (R228, veca.vredmax). -/
  | vredmax (u : VecUnit)
  /-- VREDMIN (R228, veca.vredmin). -/
  | vredmin (u : VecUnit)
  /-- VPERM (R229, veca.vperm). -/
  | vperm (u : VecUnit)
  /-- VBCAST (R229, veca.vbcast). -/
  | vbcast (u : VecUnit)
  /-- VSLIDE (R229, veca.vslide). -/
  | vslide (u : VecUnit)
  /-- VZIP (R229, veca.vzip). -/
  | vzip (u : VecUnit)
  /-- VUNZIP (R229, veca.vunzip). -/
  | vunzip (u : VecUnit)
  /-- VEXP2 (R230, veca.vexp2). -/
  | vexp2 (u : VecUnit)
  /-- VLOG2 (R230, veca.vlog2). -/
  | vlog2 (u : VecUnit)
  /-- VRCP (R230, veca.vrcp). -/
  | vrcp (u : VecUnit)
  /-- VRSQRT (R230, veca.vrsqrt). -/
  | vrsqrt (u : VecUnit)
  /-- VSQRT (R230, veca.vsqrt). -/
  | vsqrt (u : VecUnit)
  /-- VDIV (R230, veca.vdiv). -/
  | vdiv (u : VecUnit)
  /-- MAND (R225, veca.mand). -/
  | mand (u : VecUnit)
  /-- MOR (R225, veca.mor). -/
  | mor (u : VecUnit)
  /-- MNOT (R225, veca.mnot). -/
  | mnot (u : VecUnit)
  /-- MPOPC (R225, veca.mpopc). -/
  | mpopc (u : VecUnit)
  /-- MFIRST (R225, veca.mfirst). -/
  | mfirst (u : VecUnit)
  /-- PACK_BF16 (R233, cvt.pack.bf16). -/
  | packBf16 (p : PackMode)
  /-- PACK_H (R233, cvt.pack.h). -/
  | packH (p : PackMode)
  /-- PACK_E4M3 (R233, cvt.pack.e4m3). -/
  | packE4m3 (p : PackMode)
  /-- PACK_E5M2 (R233, cvt.pack.e5m2). -/
  | packE5m2 (p : PackMode)
  /-- MATRIX_CHUNK_APPLY (R252). -/
  | matrixChunkApply (tile : Nat) (id : Nat)
  /-- MATRIX_OP_COMPLETE (R249). -/
  | matrixOpComplete (tile : Nat) (id : Nat)
  /-- SXU_OP_COMPLETE (R269). -/
  | sxuOpComplete (tile : Nat) (id : Nat)
  /-- COPY_HANDOFF (R294). -/
  | copyHandoff (id : Nat) (engine : Nat)
  /-- COPY_REFUSAL (R294). -/
  | copyRefusal (id : Nat) (backoff : Nat)
  /-- COPY_BACKOFF_EXPIRY (R294). -/
  | copyBackoffExpiry (id : Nat)
  /-- COPY_COMPLETE (R291). -/
  | copyComplete (id : Nat)
  /-- REEL_SLOT_FILL (R296). -/
  | reelSlotFill (tile : Nat) (reel : Nat)
  /-- COPY_TIMEOUT (R295). -/
  | copyTimeout (id : Nat)
  /-- RELEASE_SEND_DEPART (R307). -/
  | releaseSendDepart (id : Nat)
  /-- MESSAGE_ARRIVAL (R305). -/
  | messageArrival (m : MsgAt)
  /-- ROT_ROUND (R310). -/
  | rotRound (tile : Nat) (job : Nat)
  /-- LINE_REQUEST (R178). -/
  | lineRequest (id : Nat)
  /-- UPPER_ARRIVE (R180). -/
  | upperArrive (id : Nat)
  /-- UPPER_RELEASE (R180). -/
  | upperRelease (id : Nat)
  /-- PHASE_ARRIVAL_REGISTER (R194). -/
  | phaseArrivalRegister (c : Who)
  /-- PHASE_ADVANCE (R195). -/
  | phaseAdvance (job : Nat)
  /-- PHASE_WATCHDOG_EXPIRY (R196). -/
  | phaseWatchdogExpiry (job : Nat)
  /-- SWITCH_REQUEST_ENTRY (R315). -/
  | switchRequestEntry (id : Nat)
  /-- COMBINE_WINDOW_EXPIRY (R314). -/
  | combineWindowExpiry (id : Nat)
  /-- REPLY_SPLIT (R316). -/
  | replySplit (id : Nat)
  /-- ATOMIC_APPLY (R318). -/
  | atomicApply (a : AmoAt)
  /-- LINK_REPLAY (R321). -/
  | linkReplay (link : Nat) (e : ReplayEnd)
  /-- LINK_RETRAIN (R363). -/
  | linkRetrain (link : Nat) (victim : Victim)
  /-- LINK_DOWN (R364). -/
  | linkDown (link : Nat)
  /-- MACHINE_CHECK (R359). -/
  | machineCheck (scope : McScope)
  /-- LAUNCH (R333). -/
  | launch (h : MsgHdr) (p : Packet)
  /-- GRAPH_ENTRY (R335). -/
  | graphEntry (h : MsgHdr) (p : Packet)
  /-- QUEUE_BARRIER (R330). -/
  | queueBarrier (h : MsgHdr) (p : Packet)
  /-- LOAD_OBJECT (R375). -/
  | loadObject (h : MsgHdr) (p : Packet)
  /-- UNLOAD (R376). -/
  | unload (h : MsgHdr) (p : Packet)
  /-- HOT_REPLACE (R346). -/
  | hotReplace (h : MsgHdr) (p : Packet)
  /-- SNAPSHOT (R345). -/
  | snapshot (h : MsgHdr) (p : Packet)
  /-- RESTORE (R345). -/
  | restore (h : MsgHdr) (p : Packet)
  /-- JOURNAL_READ (R367). -/
  | journalRead (h : MsgHdr) (p : Packet)
  /-- PRE_EMPT (R338). -/
  | preEmpt (h : MsgHdr) (p : Packet)
  /-- RESUME (R339). -/
  | resume (h : MsgHdr) (p : Packet)
  /-- DEBUG_HALT (R348). -/
  | debugHalt (h : MsgHdr) (p : Packet)
  /-- DEBUG_RELEASE (R348). -/
  | debugRelease (h : MsgHdr) (p : Packet)
  /-- DEBUG_STEP (R351). -/
  | debugStep (h : MsgHdr) (p : Packet)
  /-- DEBUG_READ_STATE (R348). -/
  | debugReadState (h : MsgHdr) (p : Packet)
  /-- DEBUG_WRITE_STATE (R348). -/
  | debugWriteState (h : MsgHdr) (p : Packet)
  /-- JOB_PLACEMENT (R334). -/
  | jobPlacement (job : Nat)
  /-- PREEMPTION (R338). -/
  | preemption (job : Nat)
  /-- JOB_COMPLETE (R336). -/
  | jobComplete (job : Nat)
  /-- TETHER_SESSION_OPEN (R387). -/
  | tetherSessionOpen (h : MsgHdr) (rto : Nat)
  /-- TETHER_ACK (R387). -/
  | tetherAck (h : MsgHdr)
  /-- TETHER_RETRANSMIT (R387). -/
  | tetherRetransmit (seq : Nat)
  /-- WINDOW_READ (R388). -/
  | windowRead (h : MsgHdr) (a : WinAddr) (len : Nat)
  /-- WINDOW_WRITE (R388). -/
  | windowWrite (h : MsgHdr) (a : WinAddr) (data : List Byte)
  /-- WINDOW_ATOMIC (R388). -/
  | windowAtomic (h : MsgHdr) (a : WinAddr) (port : Nat) (x : W64) (y : W64)
  /-- SET_ADDRESS_SPACE (R389). -/
  | setAddressSpace (h : MsgHdr) (asid : Nat) (root : Nat)
  /-- INVALIDATE (R389). -/
  | invalidate (h : MsgHdr) (scope : InvScope)
  /-- ADD_SNAPSHOT_POOL (R389). -/
  | addSnapshotPool (h : MsgHdr) (pages : List Nat)
  /-- ENROL_KEY (R389). -/
  | enrolKey (h : MsgHdr) (keyid : Nat) (key : List Byte)
  /-- REVOKE_KEY (R389). -/
  | revokeKey (h : MsgHdr) (keyid : Nat)
  /-- DIE_COUNTER_CONTROL (R389). -/
  | dieCounterControl (h : MsgHdr) (die : Nat) (mask : Nat)
  /-- PREFETCH_ENABLE (R389). -/
  | prefetchEnable (h : MsgHdr) (die : Nat) (on : Bool)
  /-- LINK_ENABLE (R389). -/
  | linkEnable (h : MsgHdr) (link : Nat)
  /-- SET_POWER_LIMIT (R389). -/
  | setPowerLimit (h : MsgHdr) (watts : Nat)
  /-- READ_TELEMETRY (R394). -/
  | readTelemetry (h : MsgHdr)
  /-- ATTESTATION (R393). -/
  | attestation (h : MsgHdr) (nonce : List Byte)
  /-- STAGE_FIRMWARE (R389). -/
  | stageFirmware (h : MsgHdr) (off : Nat) (data : List Byte)
  /-- COMMIT_FIRMWARE (R389). -/
  | commitFirmware (h : MsgHdr) (len : Nat)
  /-- PACKAGE_RESET (R390). -/
  | packageReset (o : StartOutcome)
  /-- POWER_THROTTLE (R394). -/
  | powerThrottle (cycles : Nat)
  /-- SOFT_ERROR (R357). -/
  | softError (e : SoftErr)
  /-- RETRAINING_COMPLETE (R363). -/
  | retrainingComplete (link : Nat)
  /-- PREFETCH_LINE_FILL (R149). -/
  | prefetchLineFill (die : Nat) (line : Nat)
  /-- PHASE_GROUP_ARRIVAL (R349). -/
  | phaseGroupArrival (grp : Nat) (member : MemberNote)
  /-- PHASE_GROUP_MEMBER_FAILURE (R349). -/
  | phaseGroupMemberFailure (grp : Nat) (member : Nat)
  /-- CTL_JUMP (R85, ctl.jump). -/
  | ctlJump
  /-- CTL_JUMPR (R85, ctl.jumpr). -/
  | ctlJumpr
  /-- CTL_CALL (R85, ctl.call). -/
  | ctlCall
  /-- CTL_CALLR (R85, ctl.callr). -/
  | ctlCallr
  /-- CTL_RET (R85, ctl.ret). -/
  | ctlRet
  /-- CTL_LOOP (R88, ctl.loop). -/
  | ctlLoop
  /-- CTL_YIELD (R91, ctl.yield). -/
  | ctlYield
  /-- CTL_HALT (R92, ctl.halt). -/
  | ctlHalt
  /-- CTL_TRAP (R98, ctl.trap). -/
  | ctlTrap
  /-- RFE_RESUME (R104, ctl.rfe). -/
  | rfeResume
  /-- RFE_RETRY (R104, ctl.rfe). -/
  | rfeRetry
  /-- RFE_SKIP (R104, ctl.rfe). -/
  | rfeSkip
  /-- CTL_BRK (R99, ctl.brk). -/
  | ctlBrk
  /-- CTL_GROW_G (R97, ctl.grow.g). -/
  | ctlGrowG
  /-- CTL_SHRINK_G (R97, ctl.shrink.g). -/
  | ctlShrinkG
  /-- CTL_GROW_V (R97, ctl.grow.v). -/
  | ctlGrowV
  /-- CTL_SHRINK_V (R97, ctl.shrink.v). -/
  | ctlShrinkV
  /-- CTL_LOCK (R95, ctl.lock). -/
  | ctlLock
  /-- CTL_CHECK (R96, ctl.check). -/
  | ctlCheck
  /-- CTL_PRIO (R94, ctl.prio). -/
  | ctlPrio
  /-- CTL_IDLE (R93, ctl.idle). -/
  | ctlIdle
  /-- LD_F (R155, mema.ld.f). -/
  | ldF
  /-- LD_F_NF (R155, mema.ld.f.nf). -/
  | ldFNf
  /-- PUSH (R118, mema.push). -/
  | push
  /-- POP (R118, mema.pop). -/
  | pop
  /-- TOUCH (R120, mema.touch). -/
  | touch
  /-- PREF (R120, mema.pref). -/
  | pref
  /-- LEA (R119, mema.lea). -/
  | lea
  /-- PSET (R119, mema.pset). -/
  | pset
  /-- PINC (R136, mema.pinc). -/
  | pinc
  /-- LD_S (R156, memb.ld.s). -/
  | ldS
  /-- LD_S_NF (R156, memb.ld.s.nf). -/
  | ldSNf
  /-- ST_S (R156, memb.st.s). -/
  | stS
  /-- ST_P (R162, memb.st.p). -/
  | stP
  /-- AMO_CAS (R157, memb.amo.cas). -/
  | amoCas
  /-- AMO_FADD (R157, memb.amo.fadd). -/
  | amoFadd
  /-- AMO_FADD_LOOSE (R158, memb.amo.fadd.loose). -/
  | amoFaddLoose
  /-- RED_ADD (R159, memb.red.add). -/
  | redAdd
  /-- RED_AND (R159, memb.red.and). -/
  | redAnd
  /-- RED_OR (R159, memb.red.or). -/
  | redOr
  /-- RED_XOR (R159, memb.red.xor). -/
  | redXor
  /-- RED_MAX (R159, memb.red.max). -/
  | redMax
  /-- RED_MIN (R159, memb.red.min). -/
  | redMin
  /-- RED_FADD (R159, memb.red.fadd). -/
  | redFadd
  /-- FENCE (R165, memb.fence). -/
  | fence
  /-- DRAIN (R166, memb.drain). -/
  | drain
  /-- OWN (R151, memb.own). -/
  | own
  /-- UNPACK_BF16 (R234, cvt.unpack.bf16). -/
  | unpackBf16
  /-- UNPACK_H (R234, cvt.unpack.h). -/
  | unpackH
  /-- UNPACK_E4M3 (R234, cvt.unpack.e4m3). -/
  | unpackE4m3
  /-- UNPACK_E5M2 (R234, cvt.unpack.e5m2). -/
  | unpackE5m2
  /-- SQSCALE (R240, cvt.sqscale). -/
  | sqscale
  /-- SQENC (R241, cvt.sqenc). -/
  | sqenc
  /-- SQDEC (R242, cvt.sqdec). -/
  | sqdec
  /-- SR_BF16 (R237, cvt.sr.bf16). -/
  | srBf16
  /-- SR_H (R237, cvt.sr.h). -/
  | srH
  /-- CVT_I2F (R235, cvt.i2f). -/
  | cvtI2f
  /-- CVT_F2I (R235, cvt.f2i). -/
  | cvtF2i
  /-- ASTR (R246, mxu.astr). -/
  | astr
  /-- BSTR (R246, mxu.bstr). -/
  | bstr
  /-- SHAPE (R248, mxu.shape). -/
  | shape
  /-- MMA (R252, mxu.mma). -/
  | mma
  /-- MMZ (R252, mxu.mmz). -/
  | mmz
  /-- MCLEAR (R259, mxu.mclear). -/
  | mclear
  /-- MFILL (R259, mxu.mfill). -/
  | mfill
  /-- MDRAIN (R259, mxu.mdrain). -/
  | mdrain
  /-- MRD (R259, mxu.mrd). -/
  | mrd
  /-- MPROG (R256, mxu.mprog). -/
  | mprog
  /-- MRUN (R257, mxu.mrun). -/
  | mrun
  /-- MWAIT (R262, mxu.mwait). -/
  | mwait
  /-- MSAVE (R264, mxu.msave). -/
  | msave
  /-- MRESUME (R265, mxu.mresume). -/
  | mresume
  /-- SXU_KEY (R272, sxu.key). -/
  | sxuKey
  /-- YLEN (R273, sxu.ylen). -/
  | ylen
  /-- SPIN (R278, sxu.spin). -/
  | spin
  /-- SPINB (R278, sxu.spinb). -/
  | spinb
  /-- KNIT (R280, sxu.knit). -/
  | knit
  /-- KNIT_COR (R280, sxu.knit.cor). -/
  | knitCor
  /-- XNOR (R280, sxu.xnor). -/
  | xnor
  /-- PURL (R280, sxu.purl). -/
  | purl
  /-- MUX (R280, sxu.mux). -/
  | mux
  /-- YARN_OR (R280, sxu.or). -/
  | yarnOr
  /-- COUNT (R281, sxu.count). -/
  | count
  /-- RESPIN (R279, sxu.respin). -/
  | respin
  /-- SDOT (R284, sxu.sdot). -/
  | sdot
  /-- DRAW (R282, sxu.draw). -/
  | draw
  /-- YINFO (R281, sxu.yinfo). -/
  | yinfo
  /-- CPY_PUSH (R293, cpy.push). -/
  | cpyPush
  /-- CPY_TRY (R293, cpy.try). -/
  | cpyTry
  /-- REEL_INIT (R296, cpy.reel.init). -/
  | reelInit
  /-- AWAIT (R298, cpy.await). -/
  | await
  /-- REL (R298, cpy.rel). -/
  | rel
  /-- CPY_STAT (R298, cpy.stat). -/
  | cpyStat
  /-- SEND (R304, net.send). -/
  | send
  /-- SENDV (R304, net.sendv). -/
  | sendv
  /-- ROT (R310, net.rot). -/
  | rot
  /-- QCFG (R308, net.qcfg). -/
  | qcfg
  /-- PEEK (R308, net.peek). -/
  | peek
  /-- EVT_ARRIVE (R180, evt.arrive). -/
  | evtArrive
  /-- EVT_WAIT (R180, evt.wait). -/
  | evtWait
  /-- EVT_LOCK (R181, evt.lock). -/
  | evtLock
  /-- EVT_UNLOCK (R181, evt.unlock). -/
  | evtUnlock
  /-- EVT_SET (R183, evt.set). -/
  | evtSet
  /-- EVT_CLEAR (R183, evt.clear). -/
  | evtClear
  /-- WATCH (R189, evt.watch). -/
  | watch
  /-- UNWATCH (R189, evt.unwatch). -/
  | unwatch
  /-- WPOP (R191, evt.wpop). -/
  | wpop
  /-- EVT_PHASE (R194, evt.phase). -/
  | evtPhase
  /-- PTRY (R194, evt.ptry). -/
  | ptry
  /-- CHAIN (R185, evt.chain). -/
  | chain
  /-- SYS_RD (R121, sys.rd). -/
  | sysRd
  /-- SYS_WR (R121, sys.wr). -/
  | sysWr
  /-- SYS_RDC (R121, sys.rdc). -/
  | sysRdc
  /-- SYS_FREC (R121, sys.frec). -/
  | sysFrec
  /-- PMU_ZERO (R125, sys.pmu). -/
  | pmuZero
  /-- PMU_FREEZE (R125, sys.pmu). -/
  | pmuFreeze
  /-- PMU_RUN (R125, sys.pmu). -/
  | pmuRun
  /-- SWAP_CTX (R51, sys.swap.ctx). -/
  | swapCtx
  /-- START_TIMEOUT (R390). -/
  | startTimeout
  /-- THERMAL_SHUTDOWN (R394). -/
  | thermalShutdown
  /-- DROPPED_FRAME (R386). -/
  | droppedFrame
  deriving DecidableEq, Repr

end Sys2Proof
end

