-- ==== Sys2Proof/Decode.lean ====
section
/-! DEFINITION. Decode of the 256-bit move word (R22 to R31), of trigger ports (R42 to R51) and of the host's
packet kinds, and the encoder written from the same tables. Decoding is total; what is illegal is rejected by
name. -/

namespace Sys2Proof

/-- (R44) Unit numbers of the paired units. -/
def IntUnit.num : IntUnit → Nat
  | .inta => 1
  | .intb => 2

/-- (R47) -/
def MemUnit.num : MemUnit → Nat
  | .mema => 5
  | .memb => 6

/-- (R49) -/
def VecUnit.num : VecUnit → Nat
  | .veca => 7
  | .vecb => 8

/-! ### Fields of a slot -/

/-- (R29) What a SOURCE field names; none for a reserved range. -/
def sourceOf (n : Nat) : Option Source :=
  if n < 0x040 then some (.g (BitVec.ofNat 6 n))
  else if n < 0x050 then some (.f (BitVec.ofNat 4 n))
  else if n < 0x060 then some (.a (BitVec.ofNat 4 n))
  else if n < 0x100 then none
  else if n < 0x180 then some (.res (BitVec.ofNat 4 ((n - 0x100) / 8)) (BitVec.ofNat 3 (n % 8)))
  else if n < 0x200 then none
  else if n < 0x500 then some (.v (BitVec.ofNat 10 (n - 0x200)))
  else if n < 0x800 then none
  else if n < 0xFFF then some (.imm (BitVec.ofNat 11 (n - 0x800)))
  else if n = 0xFFF then some .long
  else none

/-- (R29) The SOURCE field of a source. -/
def sourceCode : Source → Nat
  | .g n => n.toNat
  | .f n => 0x040 + n.toNat
  | .a n => 0x050 + n.toNat
  | .res u s => 0x100 + 8 * u.toNat + s.toNat
  | .v n => 0x200 + n.toNat
  | .imm c => 0x800 + c.toNat
  | .long => 0xFFF

/-- (R30) What a DEST field names; none for a reserved range. -/
def destOf (n : Nat) : Option Dest :=
  if n < 0x040 then some (.g (BitVec.ofNat 6 n))
  else if n < 0x050 then some (.f (BitVec.ofNat 4 n))
  else if n < 0x060 then some (.a (BitVec.ofNat 4 n))
  else if n < 0x200 then none
  else if n < 0x500 then some (.v (BitVec.ofNat 10 (n - 0x200)))
  else if n < 0x800 then none
  else if n < 0xC00 then some (.port (BitVec.ofNat 4 ((n - 0x800) / 64)) (BitVec.ofNat 6 (n % 64)))
  else none

/-- (R30) The DEST field of a destination. -/
def destCode : Dest → Nat
  | .g n => n.toNat
  | .f n => 0x040 + n.toNat
  | .a n => 0x050 + n.toNat
  | .v n => 0x200 + n.toNat
  | .port u p => 0x800 + 64 * u.toNat + p.toNat

/-- A slot as decode finds it: a reserved SOURCE or DEST is none. -/
inductive SlotView where
  | empty
  | lit (x : BitVec 29)
  | move (gd : Guard) (src : Option Source) (dst : Option Dest)
  deriving DecidableEq, Repr

/-- (R23, R24) One slot of a word. -/
def viewOf (isLit : Bool) (x : Nat) : SlotView :=
  if isLit then .lit (BitVec.ofNat 29 x)
  else if x / 2 ^ 24 % 32 = 16 then .empty
  else .move { inv := x / 2 ^ 28 % 2 == 1, flag := BitVec.ofNat 4 (x / 2 ^ 24) } (sourceOf (x / 2 ^ 12 % 2 ^ 12))
    (destOf (x % 2 ^ 12))

/-- (R22) The slots of a word from `k` on: their contents and their LIT bits. -/
def viewsFrom : Nat → Nat → Nat → List SlotView
  | 0, _, _ => []
  | k + 1, x, lits => viewOf (lits % 2 == 1) (x % 2 ^ 29) :: viewsFrom k (x / 2 ^ 29) (lits / 2)

/-- (R22) The eight slots of a word. -/
def views (w : W256) : List SlotView := viewsFrom 8 w.toNat (w.toNat / 2 ^ 244)

/-- A slot seen as decode sees it. -/
def Slot.view : Slot → SlotView
  | .empty => .empty
  | .lit x => .lit x
  | .move gd src dst => .move gd (some src) (some dst)

/-- The slot of a view without a reserved field. -/
def SlotView.slot : SlotView → Slot
  | .empty => .empty
  | .lit x => .lit x
  | .move gd (some src) (some dst) => .move gd src dst
  | .move _ _ _ => .empty

/-! ### Illegal words -/

/-- (R25) How many literal slots a long-literal move before `rest` claims. -/
def claimed : List SlotView → Nat
  | .lit _ :: .lit _ :: _ => 2
  | .lit _ :: _ => 1
  | _ => 0

/-- (R25) The slots that are at fault over literals, in slot order: `i` the number of the first slot of the
list, `k` how many literal slots from here on are claimed. -/
def literalFaults : Nat → Nat → List SlotView → List Nat
  | _, _, [] => []
  | i, k, .lit _ :: rest => (if k = 0 then [i] else []) ++ literalFaults (i + 1) (k - 1) rest
  | i, _, .move _ (some .long) _ :: rest =>
    (if claimed rest = 0 then [i] else []) ++ literalFaults (i + 1) (claimed rest) rest
  | i, _, _ :: rest => literalFaults (i + 1) 0 rest

/-- (R31) Guards that name the same flag with opposite inversion bits. -/
def Guard.excludes (a b : Guard) : Bool := a.flag == b.flag && a.inv != b.inv

/-- (R31) The ports of ctl.jump, jumpr, call, callr, ret and rfe. -/
def Dest.isTransfer : Dest → Bool
  | .port u p => u.toNat == 0 && (p.toNat == 3 || p.toNat == 4 || p.toNat == 5 || p.toNat == 6 || p.toNat == 7
      || p.toNat == 12)
  | _ => false

/-- (R31) Two destinations that one word may name only under excluding guards. -/
def Dest.clashes (a b : Dest) : Bool := a == b || (a.isTransfer && b.isTransfer)

/-- (R31) Whether a later slot clashes with a move of this guard and destination. -/
def clashesLater (gd : Guard) (d : Dest) : List SlotView → Bool
  | [] => false
  | .move gd' _ (some d') :: rest => (d.clashes d' && !gd.excludes gd') || clashesLater gd d rest
  | _ :: rest => clashesLater gd d rest

/-- (R29 to R31) The slots with a reserved field, or whose destination clashes with a later slot's. -/
def moveFaults : Nat → List SlotView → List Nat
  | _, [] => []
  | i, .move gd src (some d) :: rest =>
    (if src.isNone || clashesLater gd d rest then [i] else []) ++ moveFaults (i + 1) rest
  | i, .move _ _ none :: rest => i :: moveFaults (i + 1) rest
  | i, _ :: rest => moveFaults (i + 1) rest

/-- The lowest of a list of slots. -/
def lowest : List Nat → Option Nat
  | [] => none
  | i :: rest => match lowest rest with
    | none => some i
    | some j => some (if i ≤ j then i else j)

/-- (R25, R29 to R31, R35) The lowest slot that makes a word illegal, if one does. -/
def illegalSlot (vs : List SlotView) : Option Nat := lowest (literalFaults 0 0 vs ++ moveFaults 0 vs)

/-! ### Widths and assignment of result slots and ports -/

/-- (R41) The width of a result slot; none where the slot is unassigned. -/
def slotWidth (u s : Nat) : Option Nat :=
  match u, s with
  | 1, 0 => some 64 | 1, 1 => some 64
  | 2, 0 => some 64 | 2, 1 => some 64
  | 3, 0 => some 64 | 3, 2 => some 64
  | 4, 0 => some 64 | 4, 2 => some 64
  | 5, 0 => some 512 | 5, 2 => some 64 | 5, 3 => some 512
  | 6, 0 => some 512 | 6, 2 => some 64 | 6, 3 => some 512
  | 7, 0 => some 512 | 7, 2 => some 64
  | 8, 0 => some 512 | 8, 2 => some 64
  | 9, 0 => some 512 | 9, 1 => some 512 | 9, 2 => some 64
  | 10, 0 => some 512 | 10, 2 => some 64
  | 11, 0 => some 64 | 11, 2 => some 64
  | 12, 0 => some 64 | 12, 2 => some 64
  | 13, 0 => some 64 | 13, 2 => some 64
  | 13, 3 => some 512 | 13, 4 => some 512 | 13, 5 => some 512 | 13, 6 => some 512
  | 14, 0 => some 64 | 14, 2 => some 64
  | 15, 0 => some 64
  | _, _ => none

/-- (R43) The operation at a trigger port of ctl. -/
def ctlOp (t : W512) (p : Nat) : Option Instr :=
  match p with
  | 3 => some .ctlJump
  | 4 => some .ctlJumpr
  | 5 => some .ctlCall
  | 6 => some .ctlCallr
  | 7 => some .ctlRet
  | 8 => some .ctlLoop
  | 9 => some .ctlYield
  | 10 => some .ctlHalt
  | 11 => some .ctlTrap
  | 12 => (if t.toNat % 4 = 1 then some .rfeRetry else if t.toNat % 4 = 2 then some .rfeSkip else some .rfeResume)
  | 13 => some .ctlBrk
  | 14 => some .ctlGrowG
  | 15 => some .ctlShrinkG
  | 16 => some .ctlGrowV
  | 17 => some .ctlShrinkV
  | 18 => some .ctlLock
  | 19 => some .ctlCheck
  | 20 => some .ctlPrio
  | 21 => some .ctlIdle
  | _ => none

/-- (R44) The operation at a trigger port of inta and intb. -/
def intOp (u : IntUnit) (p : Nat) : Option Instr :=
  match p with
  | 3 => some (.intAdd u false)
  | 4 => some (.intAdd u true)
  | 5 => some (.intSub u false)
  | 6 => some (.intSub u true)
  | 7 => some (.intAnd u)
  | 8 => some (.intOr u)
  | 9 => some (.intXor u)
  | 10 => some (.intAndn u)
  | 11 => some (.intOrn u)
  | 12 => some (.intShl u false)
  | 13 => some (.intShl u true)
  | 14 => some (.intShr u false)
  | 15 => some (.intShr u true)
  | 16 => some (.intSar u false)
  | 17 => some (.intSar u true)
  | 18 => some (.intRol u false)
  | 19 => some (.intRol u true)
  | 20 => some (.intRor u false)
  | 21 => some (.intRor u true)
  | 22 => some (.intMul u false)
  | 23 => some (.intMul u true)
  | 24 => some (.intMulh u false)
  | 25 => some (.intMulh u true)
  | 26 => some (.intMulhu u)
  | 27 => some (.intDiv u false)
  | 28 => some (.intDiv u true)
  | 29 => some (.intDivu u false)
  | 30 => some (.intDivu u true)
  | 31 => some (.intRem u false)
  | 32 => some (.intRem u true)
  | 33 => some (.intRemu u false)
  | 34 => some (.intRemu u true)
  | 35 => some (.intMin u)
  | 36 => some (.intMinu u)
  | 37 => some (.intMax u)
  | 38 => some (.intMaxu u)
  | 39 => some (.intAbs u)
  | 40 => some (.intSeq u)
  | 41 => some (.intSne u)
  | 42 => some (.intSlt u)
  | 43 => some (.intSle u)
  | 44 => some (.intSltu u)
  | 45 => some (.intSleu u)
  | 46 => some (.intSel u)
  | 47 => some (.intClz u)
  | 48 => some (.intCtz u)
  | 49 => some (.intPopc u)
  | 50 => some (.intBrev u)
  | 51 => some (.intBswap u)
  | 52 => some (.intBext u)
  | 53 => some (.intBins u)
  | 54 => some (.intSext u .b)
  | 55 => some (.intSext u .h)
  | 56 => some (.intSext u .w)
  | 57 => some (.intZext u .b)
  | 58 => some (.intZext u .h)
  | 59 => some (.intZext u .w)
  | 60 => some (.intFpack u)
  | 61 => some (.intFunpack u)
  | _ => none

/-- (R45) The operation at a trigger port of fadd. -/
def faddOp (p : Nat) : Option Instr :=
  match p with
  | 3 => some (.fpAdd .s)
  | 4 => some (.fpAdd .h)
  | 5 => some (.fpAdd .b)
  | 6 => some (.fpSub .s)
  | 7 => some (.fpSub .h)
  | 8 => some (.fpSub .b)
  | 9 => some (.fpMin .s)
  | 10 => some (.fpMin .h)
  | 11 => some (.fpMin .b)
  | 12 => some (.fpMax .s)
  | 13 => some (.fpMax .h)
  | 14 => some (.fpMax .b)
  | 15 => some (.fpAbs .s)
  | 16 => some (.fpAbs .h)
  | 17 => some (.fpAbs .b)
  | 18 => some (.fpNeg .s)
  | 19 => some (.fpNeg .h)
  | 20 => some (.fpNeg .b)
  | 21 => some (.fpCpsign .s)
  | 22 => some (.fpCpsign .h)
  | 23 => some (.fpCpsign .b)
  | 24 => some (.fpEq .s)
  | 25 => some (.fpEq .h)
  | 26 => some (.fpEq .b)
  | 27 => some (.fpLt .s)
  | 28 => some (.fpLt .h)
  | 29 => some (.fpLt .b)
  | 30 => some (.fpLe .s)
  | 31 => some (.fpLe .h)
  | 32 => some (.fpLe .b)
  | 33 => some (.fpClass .s)
  | 34 => some (.fpClass .h)
  | 35 => some (.fpClass .b)
  | 36 => some (.fpRnd .s)
  | 37 => some (.fpRnd .h)
  | 38 => some (.fpRnd .b)
  | 39 => some (.fpCvtI2f .s)
  | 40 => some (.fpCvtI2f .h)
  | 41 => some (.fpCvtI2f .b)
  | 42 => some (.fpCvtF2i .s)
  | 43 => some (.fpCvtF2i .h)
  | 44 => some (.fpCvtF2i .b)
  | 45 => some (.fpCvtFormat .hs)
  | 46 => some (.fpCvtFormat .bs)
  | 47 => some (.fpCvtFormat .sh)
  | 48 => some (.fpCvtFormat .sb)
  | 49 => some (.fpCvtFormat .hb)
  | 50 => some (.fpCvtFormat .bh)
  | _ => none

/-- (R46) The operation at a trigger port of fmul. -/
def fmulOp (p : Nat) : Option Instr :=
  match p with
  | 3 => some (.fpMul .s)
  | 4 => some (.fpMul .h)
  | 5 => some (.fpMul .b)
  | 6 => some (.fpFma .s)
  | 7 => some (.fpFma .h)
  | 8 => some (.fpFma .b)
  | 9 => some (.fpFms .s)
  | 10 => some (.fpFms .h)
  | 11 => some (.fpFms .b)
  | 12 => some (.fpFnma .s)
  | 13 => some (.fpFnma .h)
  | 14 => some (.fpFnma .b)
  | 15 => some (.fpDiv .s)
  | 16 => some (.fpDiv .h)
  | 17 => some (.fpDiv .b)
  | 18 => some (.fpSqrt .s)
  | 19 => some (.fpSqrt .h)
  | 20 => some (.fpSqrt .b)
  | 21 => some (.fpRcp .s)
  | 22 => some (.fpRcp .h)
  | 23 => some (.fpRcp .b)
  | _ => none

/-- (R47) The operation at a trigger port of mema and memb, ports 3 to 15. -/
def memOp (u : MemUnit) (p : Nat) : Option Instr :=
  match p with
  | 3 => some (.localLoad u .b)
  | 4 => some (.localLoad u .bu)
  | 5 => some (.localLoad u .h)
  | 6 => some (.localLoad u .hu)
  | 7 => some (.localLoad u .w)
  | 8 => some (.localLoad u .wu)
  | 9 => some (.localLoad u .d)
  | 10 => some (.localLoad u .v)
  | 11 => some (.store u .b)
  | 12 => some (.store u .h)
  | 13 => some (.store u .w)
  | 14 => some (.store u .d)
  | 15 => some (.store u .v)
  | _ => none

/-- (R47) The operation at a trigger port of mema above port 15. -/
def memaOp (p : Nat) : Option Instr :=
  match p with
  | 16 => some (.ldq .b)
  | 17 => some (.ldq .bu)
  | 18 => some (.ldq .h)
  | 19 => some (.ldq .hu)
  | 20 => some (.ldq .w)
  | 21 => some (.ldq .wu)
  | 22 => some (.ldq .d)
  | 23 => some (.ldq .v)
  | 24 => some (.ldqNf .b)
  | 25 => some (.ldqNf .bu)
  | 26 => some (.ldqNf .h)
  | 27 => some (.ldqNf .hu)
  | 28 => some (.ldqNf .w)
  | 29 => some (.ldqNf .wu)
  | 30 => some (.ldqNf .d)
  | 31 => some (.ldqNf .v)
  | 32 => some .ldF
  | 33 => some .ldFNf
  | 34 => some .push
  | 35 => some .pop
  | 36 => some .touch
  | 37 => some .pref
  | 38 => some .lea
  | 39 => some .pset
  | 40 => some .pinc
  | _ => none

/-- (R47) The operation at a trigger port of memb above port 15. -/
def membOp (p : Nat) : Option Instr :=
  match p with
  | 16 => some .ldS
  | 17 => some .ldSNf
  | 18 => some .stS
  | 19 => some .stP
  | 20 => some (.amoAdd true false)
  | 21 => some (.amoAdd false false)
  | 22 => some (.amoAnd false)
  | 23 => some (.amoOr false)
  | 24 => some (.amoXor false)
  | 25 => some (.amoMax false)
  | 26 => some (.amoMaxu false)
  | 27 => some (.amoMin false)
  | 28 => some (.amoMinu false)
  | 29 => some (.amoSwap false)
  | 30 => some .amoCas
  | 31 => some .amoFadd
  | 32 => some .amoFaddLoose
  | 33 => some (.amoAdd true true)
  | 34 => some (.amoAdd false true)
  | 35 => some (.amoAnd true)
  | 36 => some (.amoOr true)
  | 37 => some (.amoXor true)
  | 38 => some (.amoMax true)
  | 39 => some (.amoMaxu true)
  | 40 => some (.amoMin true)
  | 41 => some (.amoMinu true)
  | 42 => some (.amoSwap true)
  | 43 => some .redAdd
  | 44 => some .redAnd
  | 45 => some .redOr
  | 46 => some .redXor
  | 47 => some .redMax
  | 48 => some .redMin
  | 49 => some .redFadd
  | 50 => some .fence
  | 51 => some .drain
  | 52 => some .own
  | _ => none

/-- (R49) The operation at a trigger port of veca and vecb. -/
def vecOp (u : VecUnit) (p : Nat) : Option Instr :=
  match p with
  | 3 => some (.vecVfmt u)
  | 4 => some (.vadd u .plain)
  | 5 => some (.vsub u .plain)
  | 6 => some (.vmul u .plain)
  | 7 => some (.vfma u .plain)
  | 8 => some (.vfms u .plain)
  | 9 => some (.vmin u .plain)
  | 10 => some (.vmax u .plain)
  | 11 => some (.vadd u .mm)
  | 12 => some (.vsub u .mm)
  | 13 => some (.vmul u .mm)
  | 14 => some (.vfma u .mm)
  | 15 => some (.vfms u .mm)
  | 16 => some (.vmin u .mm)
  | 17 => some (.vmax u .mm)
  | 18 => some (.vadd u .ma)
  | 19 => some (.vsub u .ma)
  | 20 => some (.vmul u .ma)
  | 21 => some (.vfma u .ma)
  | 22 => some (.vfms u .ma)
  | 23 => some (.vmin u .ma)
  | 24 => some (.vmax u .ma)
  | 25 => some (.vabs u)
  | 26 => some (.vneg u)
  | 27 => some (.vcmp u .eq)
  | 28 => some (.vcmp u .lt)
  | 29 => some (.vcmp u .le)
  | 30 => some (.vsel u)
  | 31 => some (.vand u)
  | 32 => some (.vor u)
  | 33 => some (.vxor u)
  | 34 => some (.vnot u)
  | 35 => some (.vshl u)
  | 36 => some (.vshr u)
  | 37 => some (.vsar u)
  | 38 => some (.vaddI u)
  | 39 => some (.vsubI u)
  | 40 => some (.vmulI u)
  | 41 => some (.vdot4 u)
  | 42 => some (.vredadd u)
  | 43 => some (.vredmax u)
  | 44 => some (.vredmin u)
  | 45 => some (.vperm u)
  | 46 => some (.vbcast u)
  | 47 => some (.vslide u)
  | 48 => some (.vzip u)
  | 49 => some (.vunzip u)
  | 50 => some (.vexp2 u)
  | 51 => some (.vlog2 u)
  | 52 => some (.vrcp u)
  | 53 => some (.vrsqrt u)
  | 54 => some (.vsqrt u)
  | 55 => some (.vdiv u)
  | 56 => some (.mand u)
  | 57 => some (.mor u)
  | 58 => some (.mnot u)
  | 59 => some (.mpopc u)
  | 60 => some (.mfirst u)
  | _ => none

/-- (R50) The operation at a trigger port of cvt. -/
def cvtOp (p : Nat) : Option Instr :=
  match p with
  | 3 => some (.packBf16 .plain)
  | 4 => some (.packBf16 .sat)
  | 5 => some (.packBf16 .ro)
  | 6 => some (.packH .plain)
  | 7 => some (.packH .sat)
  | 8 => some (.packH .ro)
  | 9 => some (.packE4m3 .plain)
  | 10 => some (.packE4m3 .sat)
  | 11 => some (.packE4m3 .ro)
  | 12 => some (.packE5m2 .plain)
  | 13 => some (.packE5m2 .sat)
  | 14 => some (.packE5m2 .ro)
  | 15 => some .unpackBf16
  | 16 => some .unpackH
  | 17 => some .unpackE4m3
  | 18 => some .unpackE5m2
  | 19 => some .sqscale
  | 20 => some .sqenc
  | 21 => some .sqdec
  | 22 => some .srBf16
  | 23 => some .srH
  | 24 => some .cvtI2f
  | 25 => some .cvtF2i
  | _ => none

/-- (R51) The operation at a trigger port of mxu. -/
def mxuOp (p : Nat) : Option Instr :=
  match p with
  | 3 => some .astr
  | 4 => some .bstr
  | 5 => some .shape
  | 6 => some .mma
  | 7 => some .mmz
  | 8 => some .mclear
  | 9 => some .mfill
  | 10 => some .mdrain
  | 11 => some .mrd
  | 12 => some .mprog
  | 13 => some .mrun
  | 14 => some .mwait
  | 15 => some .msave
  | 16 => some .mresume
  | _ => none

/-- (R51) The operation at a trigger port of sxu. -/
def sxuOp (p : Nat) : Option Instr :=
  match p with
  | 3 => some .sxuKey
  | 4 => some .ylen
  | 5 => some .spin
  | 6 => some .spinb
  | 7 => some .knit
  | 8 => some .knitCor
  | 9 => some .xnor
  | 10 => some .purl
  | 11 => some .mux
  | 12 => some .yarnOr
  | 13 => some .count
  | 14 => some .respin
  | 15 => some .sdot
  | 16 => some .draw
  | 17 => some .yinfo
  | _ => none

/-- (R51) The operation at a trigger port of cpy. -/
def cpyOp (p : Nat) : Option Instr :=
  match p with
  | 3 => some .cpyPush
  | 4 => some .cpyTry
  | 5 => some .reelInit
  | 6 => some .await
  | 7 => some .rel
  | 8 => some .cpyStat
  | _ => none

/-- (R51) The operation at a trigger port of net. -/
def netOp (p : Nat) : Option Instr :=
  match p with
  | 3 => some .send
  | 4 => some .sendv
  | 5 => some .rot
  | 6 => some .qcfg
  | 7 => some .peek
  | _ => none

/-- (R51) The operation at a trigger port of evt. -/
def evtOp (p : Nat) : Option Instr :=
  match p with
  | 3 => some .evtArrive
  | 4 => some .evtWait
  | 5 => some .evtLock
  | 6 => some .evtUnlock
  | 7 => some .evtSet
  | 8 => some .evtClear
  | 9 => some .watch
  | 10 => some .unwatch
  | 11 => some .wpop
  | 12 => some .evtPhase
  | 13 => some .ptry
  | 14 => some .chain
  | _ => none

/-- (R51) The operation at a trigger port of sys. -/
def sysOp (t : W512) (p : Nat) : Option Instr :=
  match p with
  | 3 => some .sysRd
  | 4 => some .sysWr
  | 5 => some .sysRdc
  | 6 => some .sysFrec
  | 7 => (if t.toNat % 2 = 1 then some .pmuZero else if t.toNat / 2 % 2 = 1 then some .pmuFreeze else some .pmuRun)
  | 8 => some .swapCtx
  | _ => none
/-- (R43 to R51) The unit and trigger port that start an operation; none for an event and for a word. -/
def portOf (i : Instr) : Option (Nat × Nat) :=
  match i with
  | .ctlJump => some (0, 3)
  | .ctlJumpr => some (0, 4)
  | .ctlCall => some (0, 5)
  | .ctlCallr => some (0, 6)
  | .ctlRet => some (0, 7)
  | .ctlLoop => some (0, 8)
  | .ctlYield => some (0, 9)
  | .ctlHalt => some (0, 10)
  | .ctlTrap => some (0, 11)
  | .rfeResume => some (0, 12)
  | .rfeRetry => some (0, 12)
  | .rfeSkip => some (0, 12)
  | .ctlBrk => some (0, 13)
  | .ctlGrowG => some (0, 14)
  | .ctlShrinkG => some (0, 15)
  | .ctlGrowV => some (0, 16)
  | .ctlShrinkV => some (0, 17)
  | .ctlLock => some (0, 18)
  | .ctlCheck => some (0, 19)
  | .ctlPrio => some (0, 20)
  | .ctlIdle => some (0, 21)
  | .intAdd u false => some (u.num, 3)
  | .intAdd u true => some (u.num, 4)
  | .intSub u false => some (u.num, 5)
  | .intSub u true => some (u.num, 6)
  | .intAnd u => some (u.num, 7)
  | .intOr u => some (u.num, 8)
  | .intXor u => some (u.num, 9)
  | .intAndn u => some (u.num, 10)
  | .intOrn u => some (u.num, 11)
  | .intShl u false => some (u.num, 12)
  | .intShl u true => some (u.num, 13)
  | .intShr u false => some (u.num, 14)
  | .intShr u true => some (u.num, 15)
  | .intSar u false => some (u.num, 16)
  | .intSar u true => some (u.num, 17)
  | .intRol u false => some (u.num, 18)
  | .intRol u true => some (u.num, 19)
  | .intRor u false => some (u.num, 20)
  | .intRor u true => some (u.num, 21)
  | .intMul u false => some (u.num, 22)
  | .intMul u true => some (u.num, 23)
  | .intMulh u false => some (u.num, 24)
  | .intMulh u true => some (u.num, 25)
  | .intMulhu u => some (u.num, 26)
  | .intDiv u false => some (u.num, 27)
  | .intDiv u true => some (u.num, 28)
  | .intDivu u false => some (u.num, 29)
  | .intDivu u true => some (u.num, 30)
  | .intRem u false => some (u.num, 31)
  | .intRem u true => some (u.num, 32)
  | .intRemu u false => some (u.num, 33)
  | .intRemu u true => some (u.num, 34)
  | .intMin u => some (u.num, 35)
  | .intMinu u => some (u.num, 36)
  | .intMax u => some (u.num, 37)
  | .intMaxu u => some (u.num, 38)
  | .intAbs u => some (u.num, 39)
  | .intSeq u => some (u.num, 40)
  | .intSne u => some (u.num, 41)
  | .intSlt u => some (u.num, 42)
  | .intSle u => some (u.num, 43)
  | .intSltu u => some (u.num, 44)
  | .intSleu u => some (u.num, 45)
  | .intSel u => some (u.num, 46)
  | .intClz u => some (u.num, 47)
  | .intCtz u => some (u.num, 48)
  | .intPopc u => some (u.num, 49)
  | .intBrev u => some (u.num, 50)
  | .intBswap u => some (u.num, 51)
  | .intBext u => some (u.num, 52)
  | .intBins u => some (u.num, 53)
  | .intSext u .b => some (u.num, 54)
  | .intSext u .h => some (u.num, 55)
  | .intSext u .w => some (u.num, 56)
  | .intZext u .b => some (u.num, 57)
  | .intZext u .h => some (u.num, 58)
  | .intZext u .w => some (u.num, 59)
  | .intFpack u => some (u.num, 60)
  | .intFunpack u => some (u.num, 61)
  | .fpAdd .s => some (3, 3)
  | .fpAdd .h => some (3, 4)
  | .fpAdd .b => some (3, 5)
  | .fpSub .s => some (3, 6)
  | .fpSub .h => some (3, 7)
  | .fpSub .b => some (3, 8)
  | .fpMin .s => some (3, 9)
  | .fpMin .h => some (3, 10)
  | .fpMin .b => some (3, 11)
  | .fpMax .s => some (3, 12)
  | .fpMax .h => some (3, 13)
  | .fpMax .b => some (3, 14)
  | .fpAbs .s => some (3, 15)
  | .fpAbs .h => some (3, 16)
  | .fpAbs .b => some (3, 17)
  | .fpNeg .s => some (3, 18)
  | .fpNeg .h => some (3, 19)
  | .fpNeg .b => some (3, 20)
  | .fpCpsign .s => some (3, 21)
  | .fpCpsign .h => some (3, 22)
  | .fpCpsign .b => some (3, 23)
  | .fpEq .s => some (3, 24)
  | .fpEq .h => some (3, 25)
  | .fpEq .b => some (3, 26)
  | .fpLt .s => some (3, 27)
  | .fpLt .h => some (3, 28)
  | .fpLt .b => some (3, 29)
  | .fpLe .s => some (3, 30)
  | .fpLe .h => some (3, 31)
  | .fpLe .b => some (3, 32)
  | .fpClass .s => some (3, 33)
  | .fpClass .h => some (3, 34)
  | .fpClass .b => some (3, 35)
  | .fpRnd .s => some (3, 36)
  | .fpRnd .h => some (3, 37)
  | .fpRnd .b => some (3, 38)
  | .fpCvtI2f .s => some (3, 39)
  | .fpCvtI2f .h => some (3, 40)
  | .fpCvtI2f .b => some (3, 41)
  | .fpCvtF2i .s => some (3, 42)
  | .fpCvtF2i .h => some (3, 43)
  | .fpCvtF2i .b => some (3, 44)
  | .fpCvtFormat .hs => some (3, 45)
  | .fpCvtFormat .bs => some (3, 46)
  | .fpCvtFormat .sh => some (3, 47)
  | .fpCvtFormat .sb => some (3, 48)
  | .fpCvtFormat .hb => some (3, 49)
  | .fpCvtFormat .bh => some (3, 50)
  | .fpMul .s => some (4, 3)
  | .fpMul .h => some (4, 4)
  | .fpMul .b => some (4, 5)
  | .fpFma .s => some (4, 6)
  | .fpFma .h => some (4, 7)
  | .fpFma .b => some (4, 8)
  | .fpFms .s => some (4, 9)
  | .fpFms .h => some (4, 10)
  | .fpFms .b => some (4, 11)
  | .fpFnma .s => some (4, 12)
  | .fpFnma .h => some (4, 13)
  | .fpFnma .b => some (4, 14)
  | .fpDiv .s => some (4, 15)
  | .fpDiv .h => some (4, 16)
  | .fpDiv .b => some (4, 17)
  | .fpSqrt .s => some (4, 18)
  | .fpSqrt .h => some (4, 19)
  | .fpSqrt .b => some (4, 20)
  | .fpRcp .s => some (4, 21)
  | .fpRcp .h => some (4, 22)
  | .fpRcp .b => some (4, 23)
  | .localLoad u .b => some (u.num, 3)
  | .localLoad u .bu => some (u.num, 4)
  | .localLoad u .h => some (u.num, 5)
  | .localLoad u .hu => some (u.num, 6)
  | .localLoad u .w => some (u.num, 7)
  | .localLoad u .wu => some (u.num, 8)
  | .localLoad u .d => some (u.num, 9)
  | .localLoad u .v => some (u.num, 10)
  | .store u .b => some (u.num, 11)
  | .store u .h => some (u.num, 12)
  | .store u .w => some (u.num, 13)
  | .store u .d => some (u.num, 14)
  | .store u .v => some (u.num, 15)
  | .ldq .b => some (5, 16)
  | .ldqNf .b => some (5, 24)
  | .ldq .bu => some (5, 17)
  | .ldqNf .bu => some (5, 25)
  | .ldq .h => some (5, 18)
  | .ldqNf .h => some (5, 26)
  | .ldq .hu => some (5, 19)
  | .ldqNf .hu => some (5, 27)
  | .ldq .w => some (5, 20)
  | .ldqNf .w => some (5, 28)
  | .ldq .wu => some (5, 21)
  | .ldqNf .wu => some (5, 29)
  | .ldq .d => some (5, 22)
  | .ldqNf .d => some (5, 30)
  | .ldq .v => some (5, 23)
  | .ldqNf .v => some (5, 31)
  | .ldF => some (5, 32)
  | .ldFNf => some (5, 33)
  | .push => some (5, 34)
  | .pop => some (5, 35)
  | .touch => some (5, 36)
  | .pref => some (5, 37)
  | .lea => some (5, 38)
  | .pset => some (5, 39)
  | .pinc => some (5, 40)
  | .ldS => some (6, 16)
  | .ldSNf => some (6, 17)
  | .stS => some (6, 18)
  | .stP => some (6, 19)
  | .amoAdd true false => some (6, 20)
  | .amoAdd false false => some (6, 21)
  | .amoAnd false => some (6, 22)
  | .amoOr false => some (6, 23)
  | .amoXor false => some (6, 24)
  | .amoMax false => some (6, 25)
  | .amoMaxu false => some (6, 26)
  | .amoMin false => some (6, 27)
  | .amoMinu false => some (6, 28)
  | .amoSwap false => some (6, 29)
  | .amoCas => some (6, 30)
  | .amoFadd => some (6, 31)
  | .amoFaddLoose => some (6, 32)
  | .amoAdd true true => some (6, 33)
  | .amoAdd false true => some (6, 34)
  | .amoAnd true => some (6, 35)
  | .amoOr true => some (6, 36)
  | .amoXor true => some (6, 37)
  | .amoMax true => some (6, 38)
  | .amoMaxu true => some (6, 39)
  | .amoMin true => some (6, 40)
  | .amoMinu true => some (6, 41)
  | .amoSwap true => some (6, 42)
  | .redAdd => some (6, 43)
  | .redAnd => some (6, 44)
  | .redOr => some (6, 45)
  | .redXor => some (6, 46)
  | .redMax => some (6, 47)
  | .redMin => some (6, 48)
  | .redFadd => some (6, 49)
  | .fence => some (6, 50)
  | .drain => some (6, 51)
  | .own => some (6, 52)
  | .vecVfmt u => some (u.num, 3)
  | .vadd u .plain => some (u.num, 4)
  | .vsub u .plain => some (u.num, 5)
  | .vmul u .plain => some (u.num, 6)
  | .vfma u .plain => some (u.num, 7)
  | .vfms u .plain => some (u.num, 8)
  | .vmin u .plain => some (u.num, 9)
  | .vmax u .plain => some (u.num, 10)
  | .vadd u .mm => some (u.num, 11)
  | .vsub u .mm => some (u.num, 12)
  | .vmul u .mm => some (u.num, 13)
  | .vfma u .mm => some (u.num, 14)
  | .vfms u .mm => some (u.num, 15)
  | .vmin u .mm => some (u.num, 16)
  | .vmax u .mm => some (u.num, 17)
  | .vadd u .ma => some (u.num, 18)
  | .vsub u .ma => some (u.num, 19)
  | .vmul u .ma => some (u.num, 20)
  | .vfma u .ma => some (u.num, 21)
  | .vfms u .ma => some (u.num, 22)
  | .vmin u .ma => some (u.num, 23)
  | .vmax u .ma => some (u.num, 24)
  | .vabs u => some (u.num, 25)
  | .vneg u => some (u.num, 26)
  | .vcmp u .eq => some (u.num, 27)
  | .vcmp u .lt => some (u.num, 28)
  | .vcmp u .le => some (u.num, 29)
  | .vsel u => some (u.num, 30)
  | .vand u => some (u.num, 31)
  | .vor u => some (u.num, 32)
  | .vxor u => some (u.num, 33)
  | .vnot u => some (u.num, 34)
  | .vshl u => some (u.num, 35)
  | .vshr u => some (u.num, 36)
  | .vsar u => some (u.num, 37)
  | .vaddI u => some (u.num, 38)
  | .vsubI u => some (u.num, 39)
  | .vmulI u => some (u.num, 40)
  | .vdot4 u => some (u.num, 41)
  | .vredadd u => some (u.num, 42)
  | .vredmax u => some (u.num, 43)
  | .vredmin u => some (u.num, 44)
  | .vperm u => some (u.num, 45)
  | .vbcast u => some (u.num, 46)
  | .vslide u => some (u.num, 47)
  | .vzip u => some (u.num, 48)
  | .vunzip u => some (u.num, 49)
  | .vexp2 u => some (u.num, 50)
  | .vlog2 u => some (u.num, 51)
  | .vrcp u => some (u.num, 52)
  | .vrsqrt u => some (u.num, 53)
  | .vsqrt u => some (u.num, 54)
  | .vdiv u => some (u.num, 55)
  | .mand u => some (u.num, 56)
  | .mor u => some (u.num, 57)
  | .mnot u => some (u.num, 58)
  | .mpopc u => some (u.num, 59)
  | .mfirst u => some (u.num, 60)
  | .packBf16 .plain => some (9, 3)
  | .packBf16 .sat => some (9, 4)
  | .packBf16 .ro => some (9, 5)
  | .packH .plain => some (9, 6)
  | .packH .sat => some (9, 7)
  | .packH .ro => some (9, 8)
  | .packE4m3 .plain => some (9, 9)
  | .packE4m3 .sat => some (9, 10)
  | .packE4m3 .ro => some (9, 11)
  | .packE5m2 .plain => some (9, 12)
  | .packE5m2 .sat => some (9, 13)
  | .packE5m2 .ro => some (9, 14)
  | .unpackBf16 => some (9, 15)
  | .unpackH => some (9, 16)
  | .unpackE4m3 => some (9, 17)
  | .unpackE5m2 => some (9, 18)
  | .sqscale => some (9, 19)
  | .sqenc => some (9, 20)
  | .sqdec => some (9, 21)
  | .srBf16 => some (9, 22)
  | .srH => some (9, 23)
  | .cvtI2f => some (9, 24)
  | .cvtF2i => some (9, 25)
  | .astr => some (10, 3)
  | .bstr => some (10, 4)
  | .shape => some (10, 5)
  | .mma => some (10, 6)
  | .mmz => some (10, 7)
  | .mclear => some (10, 8)
  | .mfill => some (10, 9)
  | .mdrain => some (10, 10)
  | .mrd => some (10, 11)
  | .mprog => some (10, 12)
  | .mrun => some (10, 13)
  | .mwait => some (10, 14)
  | .msave => some (10, 15)
  | .mresume => some (10, 16)
  | .sxuKey => some (11, 3)
  | .ylen => some (11, 4)
  | .spin => some (11, 5)
  | .spinb => some (11, 6)
  | .knit => some (11, 7)
  | .knitCor => some (11, 8)
  | .xnor => some (11, 9)
  | .purl => some (11, 10)
  | .mux => some (11, 11)
  | .yarnOr => some (11, 12)
  | .count => some (11, 13)
  | .respin => some (11, 14)
  | .sdot => some (11, 15)
  | .draw => some (11, 16)
  | .yinfo => some (11, 17)
  | .cpyPush => some (12, 3)
  | .cpyTry => some (12, 4)
  | .reelInit => some (12, 5)
  | .await => some (12, 6)
  | .rel => some (12, 7)
  | .cpyStat => some (12, 8)
  | .send => some (13, 3)
  | .sendv => some (13, 4)
  | .rot => some (13, 5)
  | .qcfg => some (13, 6)
  | .peek => some (13, 7)
  | .evtArrive => some (14, 3)
  | .evtWait => some (14, 4)
  | .evtLock => some (14, 5)
  | .evtUnlock => some (14, 6)
  | .evtSet => some (14, 7)
  | .evtClear => some (14, 8)
  | .watch => some (14, 9)
  | .unwatch => some (14, 10)
  | .wpop => some (14, 11)
  | .evtPhase => some (14, 12)
  | .ptry => some (14, 13)
  | .chain => some (14, 14)
  | .sysRd => some (15, 3)
  | .sysWr => some (15, 4)
  | .sysRdc => some (15, 5)
  | .sysFrec => some (15, 6)
  | .pmuZero => some (15, 7)
  | .pmuFreeze => some (15, 7)
  | .pmuRun => some (15, 7)
  | .swapCtx => some (15, 8)
  | .wordIssue _ => none
  | .stallCountEnd _ => none
  | .idleEnd _ => none
  | .waitCountLimit _ => none
  | .stallFloorIdleCycle _ => none
  | .resultLanding _ _ => none
  | .divideLanding _ _ => none
  | .queuedReply _ => none
  | .faultAfterStart _ => none
  | .fenceComplete _ => none
  | .drainComplete _ => none
  | .remoteAccessArrival _ => none
  | .pagedAccessArrival _ => none
  | .translationWalk _ _ => none
  | .copyOnWriteResolve _ => none
  | .gatherJoin _ => none
  | .gatherAccept _ => none
  | .gatherRefuse _ => none
  | .gatherRecall _ => none
  | .gatherFlush _ => none
  | .provisionalStage _ => none
  | .matrixChunkApply _ _ => none
  | .matrixOpComplete _ _ => none
  | .sxuOpComplete _ _ => none
  | .copyHandoff _ _ => none
  | .copyRefusal _ _ => none
  | .copyBackoffExpiry _ => none
  | .copyComplete _ => none
  | .reelSlotFill _ _ => none
  | .copyTimeout _ => none
  | .releaseSendDepart _ => none
  | .messageArrival _ => none
  | .rotRound _ _ => none
  | .lineRequest _ => none
  | .upperArrive _ => none
  | .upperRelease _ => none
  | .phaseArrivalRegister _ => none
  | .phaseAdvance _ => none
  | .phaseWatchdogExpiry _ => none
  | .switchRequestEntry _ => none
  | .combineWindowExpiry _ => none
  | .replySplit _ => none
  | .atomicApply _ => none
  | .linkReplay _ _ => none
  | .linkRetrain _ _ => none
  | .linkDown _ => none
  | .machineCheck _ => none
  | .launch _ _ => none
  | .graphEntry _ _ => none
  | .queueBarrier _ _ => none
  | .loadObject _ _ => none
  | .unload _ _ => none
  | .hotReplace _ _ => none
  | .snapshot _ _ => none
  | .restore _ _ => none
  | .journalRead _ _ => none
  | .preEmpt _ _ => none
  | .resume _ _ => none
  | .debugHalt _ _ => none
  | .debugRelease _ _ => none
  | .debugStep _ _ => none
  | .debugReadState _ _ => none
  | .debugWriteState _ _ => none
  | .jobPlacement _ => none
  | .preemption _ => none
  | .jobComplete _ => none
  | .tetherSessionOpen _ _ => none
  | .tetherAck _ => none
  | .tetherRetransmit _ => none
  | .windowRead _ _ _ => none
  | .windowWrite _ _ _ => none
  | .windowAtomic _ _ _ _ _ => none
  | .setAddressSpace _ _ _ => none
  | .invalidate _ _ => none
  | .addSnapshotPool _ _ => none
  | .enrolKey _ _ _ => none
  | .revokeKey _ _ => none
  | .dieCounterControl _ _ _ => none
  | .prefetchEnable _ _ _ => none
  | .linkEnable _ _ => none
  | .setPowerLimit _ _ => none
  | .readTelemetry _ => none
  | .attestation _ _ => none
  | .stageFirmware _ _ _ => none
  | .commitFirmware _ _ => none
  | .packageReset _ => none
  | .startTimeout => none
  | .powerThrottle _ => none
  | .thermalShutdown => none
  | .softError _ => none
  | .retrainingComplete _ => none
  | .prefetchLineFill _ _ => none
  | .droppedFrame => none
  | .phaseGroupArrival _ _ => none
  | .phaseGroupMemberFailure _ _ => none

/-- (R33, R42 to R51) The operation that a value `t` moved to trigger port `p` of unit `u` starts; none for an
operand port and for an unassigned port. The mode of `ctl.rfe` and the action of `sys.pmu` are read from `t`. -/
def opOf (u p : Nat) (t : W512) : Option Instr :=
  match u with
  | 0 => ctlOp t p
  | 1 => intOp .inta p
  | 2 => intOp .intb p
  | 3 => faddOp p
  | 4 => fmulOp p
  | 5 => if p < 16 then memOp .mema p else memaOp p
  | 6 => if p < 16 then memOp .memb p else membOp p
  | 7 => vecOp .veca p
  | 8 => vecOp .vecb p
  | 9 => cvtOp p
  | 10 => mxuOp p
  | 11 => sxuOp p
  | 12 => cpyOp p
  | 13 => netOp p
  | 14 => evtOp p
  | 15 => sysOp t p
  | _ => none

/-- (R33) Whether a port of a unit is assigned: operand ports of every unit but ctl, and the port map. -/
def portAssigned (u p : Nat) : Bool := (p < 3 && u != 0 && u < 16) || (opOf u p 0).isSome

/-- (R42) The width of a unit's port. -/
def portWidth (u p : Nat) : Nat :=
  if u = 9 then 512
  else if u = 7 ∨ u = 8 then if p = 3 then 64 else 512
  else if (u = 5 ∨ u = 6 ∨ u = 13) ∧ p = 0 then 512
  else 64

/-- (R33) Whether a move names an unassigned result slot or port. -/
def SlotView.unassigned : SlotView → Bool
  | .move _ src dst =>
    (match src with
      | some (.res u s) => (slotWidth u.toNat s.toNat).isNone
      | _ => false) ||
    (match dst with
      | some (.port u p) => !portAssigned u.toNat p.toNat
      | _ => false)
  | _ => false

/-- (R33, R35) The lowest slot that names an unassigned result slot or port. -/
def unassignedFrom : Nat → List SlotView → Option Nat
  | _, [] => none
  | i, v :: rest => if v.unassigned then some i else unassignedFrom (i + 1) rest

/-! ### Words -/

/-- Why a word does not decode. -/
inductive DecodeError where
  /-- XH or KIND is not zero (R26): FLT_XWORD naming slot 0 (R385). -/
  | extension
  /-- A slot makes the word illegal (R31): FLT_XWORD. -/
  | illegal (slot : Nat)
  /-- A slot names an unassigned port or result slot (R33): FLT_PORT. -/
  | unassigned (slot : Nat)
  deriving DecidableEq, Repr

/-- (R22) The word that eight slots stand for, with its header fields. -/
def wordOf (w : W256) : MoveWord :=
  { sc := BitVec.ofNat 4 (w.toNat / 2 ^ 252), keep := w.toNat / 2 ^ 243 % 2 == 1,
    bank := BitVec.ofNat 3 (w.toNat / 2 ^ 240), slots := (views w).map SlotView.slot }

/-- (R22 to R31) Decode of a word as far as FLT_XWORD goes. Where XH or KIND and a slot both make the word
illegal, the record names the slot (R385). -/
def decodeMoves (w : W256) : Except DecodeError MoveWord :=
  match illegalSlot (views w) with
  | some i => .error (.illegal i)
  | none => if w.toNat / 2 ^ 232 % 2 ^ 8 ≠ 0 then .error .extension else .ok (wordOf w)

/-- (R22 to R33) Decode of a word. -/
def decodeWord (w : W256) : Except DecodeError MoveWord :=
  match decodeMoves w with
  | .error e => .error e
  | .ok m => match unassignedFrom 0 (m.slots.map Slot.view) with
    | some i => .error (.unassigned i)
    | none => .ok m

/-- (R25) The value of a long-literal move whose slot is followed by `rest`. -/
def longValue : List Slot → W64
  | .lit x :: .lit y :: _ => (y ++ x : BitVec 58).signExtend 64
  | .lit x :: _ => x.signExtend 64
  | _ => 0

/-! ### Encoding -/

/-- (R23, R24) The 29 bits of a slot. -/
def slotCode : Slot → Nat
  | .empty => 0x10000000
  | .lit x => x.toNat
  | .move gd src dst => (if gd.inv then 2 ^ 28 else 0) + 2 ^ 24 * gd.flag.toNat + 2 ^ 12 * sourceCode src + destCode dst

/-- (R22) Whether a slot's LIT bit is set. -/
def Slot.isLit : Slot → Bool
  | .lit _ => true
  | _ => false

/-- (R22) The slots of a word as a number, slot 0 lowest. -/
def slotsCode : List Slot → Nat
  | [] => 0
  | s :: rest => slotCode s + 2 ^ 29 * slotsCode rest

/-- (R22) The LIT field. -/
def litsCode : List Slot → Nat
  | [] => 0
  | s :: rest => (if s.isLit then 1 else 0) + 2 * litsCode rest

/-- (R22) The 256 bits of a word. -/
def encodeMoves (m : MoveWord) : W256 :=
  BitVec.ofNat 256 (slotsCode m.slots + 2 ^ 240 * m.bank.toNat + (if m.keep then 2 ^ 243 else 0)
    + 2 ^ 244 * litsCode m.slots + 2 ^ 252 * m.sc.toNat)

/-- (R24) Eight slots of which only slot 0 moves, always. -/
def oneMove (src : Source) (dst : Dest) : List Slot :=
  .move ⟨false, 0⟩ src dst :: List.replicate 7 .empty

/-- (R22, R30) The words of an instruction: the move word itself, or for an operation the one-move word
`g0 -> port`. An event has no encoding. -/
def encode (i : Instr) : Option W256 :=
  match i with
  | .wordIssue m => some (encodeMoves m)
  | i => (portOf i).map fun up =>
    encodeMoves ⟨0, false, 0, oneMove (.g 0) (.port (BitVec.ofNat 4 up.1) (BitVec.ofNat 6 up.2))⟩

/-! ### The host's table words -/

/-- The instruction read from a word of `nbits` bits, every higher bit 0 (R22: a move word is 256 bits). -/
def decodeTableWord (nbits w : Nat) : Option Instr :=
  match decodeWord (BitVec.ofNat 256 (w % 2 ^ nbits)) with
  | .ok m => some (.wordIssue m)
  | .error _ => none

/-! ### Packets -/

/-- (R329) KIND of a packet. -/
def Packet.kind (p : Packet) : Nat := (p.header.extractLsb' 56 8).toNat

/-- (R329) QUEUE of a packet. -/
def Packet.queue (p : Packet) : Nat := (p.header.extractLsb' 50 6).toNat

/-- (R329) LEN of a packet. -/
def Packet.len (p : Packet) : Nat := (p.header.extractLsb' 32 16).toNat

/-- (R329) SEQ of a packet. -/
def Packet.seq (p : Packet) : W32 := p.header.extractLsb' 0 32

/-- (R348) OP of a debug packet. -/
def Packet.debugOp (p : Packet) : Nat := ((p.body.getD 1 0).extractLsb' 0 4).toNat

/-- (R329, R348) The step of a packet; none for a reserved KIND or OP, with which a packet is refused. -/
def packetOf (h : MsgHdr) (p : Packet) : Option Instr :=
  match p.kind with
  | 1 => some (.launch h p)
  | 2 => some (.graphEntry h p)
  | 3 => some (.queueBarrier h p)
  | 4 => some (.loadObject h p)
  | 5 => some (.unload h p)
  | 6 => some (.hotReplace h p)
  | 7 => some (.snapshot h p)
  | 8 => some (.restore h p)
  | 9 => some (.journalRead h p)
  | 10 => some (.preEmpt h p)
  | 11 => some (.resume h p)
  | 12 => match p.debugOp with
    | 1 => some (.debugHalt h p)
    | 2 => some (.debugRelease h p)
    | 3 => some (.debugStep h p)
    | 4 => some (.debugReadState h p)
    | 5 => some (.debugWriteState h p)
    | _ => none
  | _ => none

end Sys2Proof
end

