-- ==== Sys2Proof/Machine/State.lean ====
section
/-! DEFINITION. The state of the package: every piece of state the manual gives the machine, as plain data,
and the state right after package reset. Each field's comment names the rule that gives it and ends with its
value after reset. A field marked MODEL is the model's own bookkeeping and no state of the manual. -/

namespace Sys2Proof.Machine

/-- Data by key, in ascending key order with no key twice. -/
abbrev Sparse (α : Type) := List (Nat × α)

/-- The fault codes of R355. -/
inductive Flt where
  | xword | regbound | port | latency | stack | align | noncanon | transl | perm | cow | tilemap | owner
  | dyelot | yarnlen | amoApplied | poison | checksum | trail | selflock | swtrap | link | engine | priv
  | nonlocal | brk
  deriving DecidableEq, Repr

/-- A result record (R41). -/
structure Rec where
  out : W512
  aux : W512
  stat : W64
  deriving DecidableEq, Repr

/-- What a landing writes beside its record (R84): flags f8 to f15, a pointer, a walk descriptor, FFLAGS. -/
structure Effects where
  flags : Option (BitVec 8)
  ptr : Option (Nat × W64)
  wd : Option (Nat × W64)
  ff : BitVec 5
  deriving DecidableEq, Repr

/-- A result in flight in a unit (R40, R54, R56, R108). `left` is its remaining count, `cyc` the tile cycle in which its word
issued: the results of one word and unit have it in common (R37), whenever their triggers start. -/
structure InFlight where
  unit : Nat
  id : Nat
  left : Nat
  cyc : W64
  div : Bool
  res : Rec
  eff : Effects
  deriving DecidableEq, Repr

/-- A record outstanding in a queue: of ldq (R48) or of an engine (R55). `key` is the queue. -/
structure Outst where
  key : Nat
  id : Nat
  res : Option Rec
  deriving DecidableEq, Repr

/-- A context's bank (R40): what trap entry moves into the trap shadow. -/
structure Bank where
  /-- (R40) operand ports, key 4 × unit + port. Reset: every port 0. -/
  ports : Sparse W512
  /-- (R40, R41) result slots out, aux, stat of each unit. Reset: 0. -/
  slots : Sparse Rec
  /-- (R54, R48) unread landed records, oldest first; key = unit, or 16 + unit for ldq. Reset: empty. -/
  queues : Sparse (List Rec)
  /-- (R63) read marks, one per unit. Reset: all set. -/
  marks : BitVec 16
  /-- (R40) results in flight. Reset: none. -/
  fly : List InFlight
  /-- (R48, R55) records still to land of queued operations, in trigger order. Reset: none. -/
  outst : List Outst
  /-- (R219) lane formats of veca and vecb. Reset: FP32. -/
  lfA : BitVec 3
  lfB : BitVec 3
  /-- (R244) A and B descriptors: pointer and stride. Reset: 0. -/
  mxA : W64
  mxAs : W32
  mxB : W64
  mxBs : W32
  /-- (R244, R248) shape descriptor. Reset: 0. -/
  mxShape : W64
  /-- (R244, R256) microprogram and its constant. Reset: 0. -/
  mxProg : W64
  mxConst : W32
  /-- (R273) yarn settings. Reset: YLEN 4, DSP 0, DK 16. -/
  ylen : BitVec 4
  dsp : BitVec 2
  dk : BitVec 5
  deriving DecidableEq, Repr

/-- The bank at launch and of a handler (R40, R60, R219, R244, R273). -/
def Bank.init : Bank :=
  { ports := [], slots := [], queues := [], marks := 0xFFFF, fly := [], outst := [], lfA := 0, lfB := 0,
    mxA := 0, mxAs := 0, mxB := 0, mxBs := 0, mxShape := 0, mxProg := 0, mxConst := 0,
    ylen := 4, dsp := 0, dk := 16 }

/-- A pending control transfer (R65, R66): words still to issue before its target. -/
structure Transfer where
  left : Nat
  target : W64
  word : Nat
  slot : Nat
  port : BitVec 6
  t : W64
  deriving DecidableEq, Repr

/-- The loop state of R88. -/
structure LoopSt where
  start : Nat
  stop : Nat
  left : Nat
  active : Bool
  deriving DecidableEq, Repr

def LoopSt.init : LoopSt := { start := 0, stop := 0, left := 0, active := false }

/-- A trigger that starts: its context, word address, slot, and operand T at bus width (R36, R42). `again` marks
a trigger that a return or a resume starts once more; `late` a local access deferred to its place of R117. -/
structure Trig where
  who : Who
  word : Nat
  slot : Nat
  t : W512
  again : Bool
  late : Bool
  deriving DecidableEq, Repr

/-- A forced step of the present tile cycle. -/
inductive Task where
  /-- the results and divides of a tile advance (R54, R56, R108) -/
  | advance (tile : Nat)
  /-- the selector of a tile decides (R72 to R74, R80) -/
  | select (tile : Nat)
  /-- a context issues its next word (R36) -/
  | issue (c : Who)
  /-- a step; a trigger row runs under `trig` -/
  | run (trig : Trig) (i : Instr)
  /-- the triggers of a context's word that wait go on (R104, R151, R165) -/
  | cont (c : Who)
  /-- a trigger that has faulted, once the word's earlier accesses are performed (R39, R117) -/
  | fault (trig : Trig) (i : Instr) (code : Flt) (info : BitVec 16) (f1 : Option W64)
  /-- the triggers of a context's word have all started (R92, R121) -/
  | wordEnd (c : Who)
  deriving DecidableEq, Repr

/-- Atomic operations (R157). -/
inductive AmoOp where
  | add | and | or | xor | max | maxu | min | minu | swap | cas | fadd | faddLoose
  deriving DecidableEq, Repr

/-- Reductions (R159). -/
inductive RedOp where
  | add | and | or | xor | max | min | fadd
  deriving DecidableEq, Repr

/-- The memory operations that stay outstanding (R48, R164, R165). -/
inductive MemKind where
  | ldq (f : LoadForm) (nf : Bool)
  | ldf (nf : Bool)
  | lds (nf : Bool)
  | store (f : StoreForm)
  | sts
  | stp
  | amo (op : AmoOp) (w32 : Bool) (nc : Bool)
  | red (op : RedOp)
  | touch
  | fence (scope : Nat)
  deriving DecidableEq, Repr

/-- Where an outstanding memory operation stands. -/
inductive OpSt where
  /-- in its tile's memory unit -/
  | waiting
  /-- translated (R146), on its way to its home -/
  | translated
  /-- waits for copy-on-write (R142) -/
  | cow
  /-- held at its home until the line's flushes are applied (R161) -/
  | held
  /-- a reduction in the gather buffer or in a FLUSH (R160) -/
  | gathered
  /-- an atomic travelling through the switches (R312) -/
  | moving
  /-- performed; its reply is on its way (R48) -/
  | performed
  /-- faulted; the fault is not yet returned from (R353) -/
  | faulted
  deriving DecidableEq, Repr

/-- An outstanding memory operation with what it copied at its trigger (R48, R354). -/
structure MemOp where
  id : Nat
  who : Who
  job : Option Nat
  unit : Nat
  word : Nat
  slot : Nat
  kind : MemKind
  addr : W64
  o1 : W512
  o2 : W64
  o3 : W64
  st : OpSt
  /-- storage of the bytes it accesses, in address order, once known -/
  locs : List Nat
  /-- storage of the leaf entry whose D a commit sets (R163) -/
  leaf : Option Nat
  /-- the physical addresses of its bytes in the order of `locs`, 0 for a byte of a tile; none where all stand in tiles -/
  pas : List Nat
  res : Rec
  /-- triggered inside a handler (R60, R353) -/
  dbl : Bool
  /-- phase in which a st.p is held until the advance (R194) -/
  hold : Option (BitVec 32)
  /-- the tag of a remote atomic (R313) -/
  tag : BitVec 24
  /-- the code to deliver when a reply carries a status in place of a value (R317, R323) -/
  status : Option (Flt × BitVec 16)
  deriving DecidableEq, Repr

/-- The forms of the matrix queue (R251). -/
inductive MxKind where
  | mma | mmz | mrun
  | mclear (fill : W32)
  | mfill (row : Nat)
  | mdrain (row : Nat)
  | mrd (row : Nat) (qtr : Nat)
  | mresume (record : Bool)
  deriving DecidableEq, Repr

/-- A matrix queue operation with its copied descriptors and progress (R244, R251, R252, R263). -/
structure MxOp where
  id : Nat
  who : Who
  job : Option Nat
  word : Nat
  slot : Nat
  kind : MxKind
  acc : Nat
  t : W64
  o1 : W64
  a : W64
  as : W32
  b : W64
  bs : W32
  shape : W64
  prog : W64
  const : W32
  k0 : Nat
  i : Nat
  j : Nat
  z : Bool
  /-- the checksums are still to be checked (R261) -/
  verify : Bool
  dbl : Bool
  deriving DecidableEq, Repr

/-- An accumulator's state (R249): Busy with the operation of an identifier, Stopped with its progress. `prior` is
the stopped progress that an mresume found, which a failed checksum leaves in place (R261). -/
inductive AccSt where
  | idle
  | busy (id : Nat) (prior : Option MxOp)
  | stopped (op : MxOp)
  deriving DecidableEq, Repr

/-- An mwait or msave whose record has not landed (R262, R264). `drains` are the mdrains that an mwait covers, `res` the record
of an msave, which is that of the state on which it acted. -/
structure MxWait where
  id : Nat
  who : Who
  mask : BitVec 8
  save : Bool
  res : Rec
  drains : List Nat
  deriving DecidableEq, Repr

/-- An operation in the yarn engine's queue (R269): a record ready to land, or an sdot still to be served. -/
inductive SxKind where
  | ready (res : Rec)
  | silent
  | sdot (a : W64) (b : W64)
  deriving DecidableEq, Repr

structure SxOp where
  id : Nat
  who : Who
  job : Option Nat
  word : Nat
  slot : Nat
  t : W64
  kind : SxKind
  dbl : Bool
  deriving DecidableEq, Repr

/-- A copy request's progress (R293 to R296, R300): `stopping` is an engine's that a timeout or a lost flit has stopped and that
waits, before it leaves, for lines that gather. -/
inductive CpSt where
  | offered
  | backoff (left : Nat)
  | engine (n : Nat)
  | stopping (code : Flt) (info : Nat) (f1 : W64)
  | done (bytes : W64) (code : BitVec 8)
  deriving DecidableEq, Repr

/-- An accepted copy request (R293): request `k` of its reel, which fills the slot `place`. `rank` is the place of its push in
trigger order, which a retry keeps (R354). -/
structure CopyReq where
  id : Nat
  rank : Nat
  who : Who
  job : Option Nat
  word : Nat
  slot : Nat
  src : W64
  dst : W64
  shape : W64
  t : W64
  reel : Nat
  k : BitVec 16
  place : Nat
  st : CpSt
  refused : Nat
  age : Nat
  dbl : Bool
  deriving DecidableEq, Repr

/-- A reel (R296, R297). `claims` are the awaits whose slot has not filled: context and record. `pushAt`, `fillAt`, `awaitAt` and
`relAt` are the slots k mod SIZE that the next request, fill, claim and release come to; `rels` names for a slot that has been
released the context, its job, and the place of the `rel` in trigger order (R174). -/
structure Reel where
  size : Nat
  pushed : BitVec 16
  filled : BitVec 16
  awaited : BitVec 16
  released : BitVec 16
  slots : Sparse (W64 × W64)
  claims : List (Who × Nat)
  pushAt : Nat
  fillAt : Nat
  awaitAt : Nat
  relAt : Nat
  rels : Sparse (Who × Option Nat × Nat)
  deriving DecidableEq, Repr

def Reel.init : Reel :=
  { size := 0, pushed := 0, filled := 0, awaited := 0, released := 0, slots := [], claims := [], pushAt := 0, fillAt := 0,
    awaitAt := 0, relAt := 0, rels := [] }

/-- Where a message stands (R305, R307). -/
inductive MsgSt where
  | waiting
  | moving
  | held
  deriving DecidableEq, Repr

/-- An outstanding message (R303 to R305). `tile` is the target's physical tile in this package. -/
structure Msg where
  id : Nat
  who : Who
  job : Option Nat
  word : Nat
  slot : Nat
  t : W64
  value : W512
  header : W64
  tile : Option Nat
  q : Nat
  rls : Bool
  st : MsgSt
  dbl : Bool
  deriving DecidableEq, Repr

/-- A receive queue (R306, R308): entries with their headers, oldest first. -/
structure RQueue where
  opened : Bool
  reader : Nat
  entries : List (W512 × W64)
  deriving DecidableEq, Repr

def RQueue.init : RQueue := { opened := true, reader := 0, entries := [] }

/-- A wake comparator (R189, R190): an armed range and tag, and a pending token with its place among the tile's. -/
structure Comparator where
  armed : Bool
  base : Nat
  len : Nat
  tag : BitVec 8
  /-- storage offset of the job's window, 4,096 × SWBASE (R332) -/
  shift : Nat
  pending : Option (Nat × W64)
  deriving DecidableEq, Repr

def Comparator.init : Comparator := { armed := false, base := 0, len := 0, tag := 0, shift := 0, pending := none }

/-- An event line (R176, R180, R181, R183). `arrived` are the lower lines to release; `waiters` the blocked
contexts with their records, in the order in which their requests reached the line. -/
structure Line where
  mode : BitVec 2
  count : BitVec 8
  clevel : BitVec 2
  cline : BitVec 5
  gen : BitVec 16
  arr : Nat
  owner : Option Who
  flag : Bool
  pend : BitVec 32
  rel : BitVec 32
  waiters : List (Who × Nat)
  arrived : List Nat
  job : Option Nat
  deriving DecidableEq, Repr

def Line.init : Line :=
  { mode := 0, count := 0, clevel := 0, cline := 0, gen := 0, arr := 0, owner := none, flag := false,
    pend := 0, rel := 0, waiters := [], arrived := [], job := none }

/-- What an event request asks of its line (R178). -/
inductive EvKind where
  | arrive | wait | lock | unlock | set | clear
  deriving DecidableEq, Repr

/-- (R179, R186) Whether a request blocks its context. -/
def EvKind.blocks : EvKind → Bool
  | .wait | .lock => true
  | _ => false

/-- An event request on its way to its line (R179, R188), with the word, slot and T of its trigger. `rid` is the record of a
blocking form; `dbl` marks one triggered inside a handler (R353). -/
structure EvReq where
  id : Nat
  who : Who
  job : Option Nat
  line : Nat
  kind : EvKind
  rid : Nat
  word : Nat
  slot : Nat
  t : W64
  dbl : Bool
  deriving DecidableEq, Repr

/-- An ARRIVE or RELEASE message between lines (R180). -/
structure LineMsg where
  id : Nat
  lower : Nat
  upper : Nat
  release : Bool
  deriving DecidableEq, Repr

/-- A lineage (R275, R276): MASK, MIX and the four epochs, EP0 lowest. -/
structure Lineage where
  mask : BitVec 4
  mix : BitVec 4
  ep : W32
  deriving DecidableEq, Repr

/-- A yarn (R270). -/
structure Yarn where
  k : Nat
  bits : BitVec 4096
  lin : Lineage
  deriving DecidableEq, Repr

/-- A yarn at launch (R270). -/
def Yarn.init : Yarn := { k := 4, bits := 0, lin := { mask := 0, mix := 0, ep := 0 } }

/-- A spindle (R271). -/
structure Spindle where
  key : BitVec 16
  mode : Bool
  epoch : BitVec 8
  state : BitVec 16
  deriving DecidableEq, Repr

def Spindle.init : Spindle := { key := 0, mode := false, epoch := 0, state := 0 }

/-- The operation behind a fault after start, kept for its return (R254, R259, R284, R300, R309, R354). -/
inductive RetOp where
  | mem (o : MemOp)
  | mx (o : MxOp)
  | sdot (o : SxOp)
  | copy (o : CopyReq)
  | msg (o : Msg)
  | rot (at' slot rid : Nat)
  | event (r : EvReq)
  | applied (o : MemOp)
  deriving DecidableEq, Repr

/-- A fault detected after start and not yet delivered (R353). `rank` is the operation's trigger order. -/
structure PendFault where
  code : Flt
  info : BitVec 16
  f1 : W64
  f2 : W64
  word : Nat
  slot : Nat
  rank : Nat
  dbl : Bool
  op : RetOp
  deriving DecidableEq, Repr

/-- How `ctl.rfe` continues (R104, R354). -/
inductive RetKind where
  /-- decode fault of the word at `word` -/
  | decode
  /-- bad transfer target (R66) -/
  | target (x : Transfer)
  /-- trigger fault: the faulting trigger, its step, and the word's later triggers -/
  | trigger (tr : Trig) (i : Instr) (rest : List Task)
  /-- software trap or breakpoint: as a trigger fault -/
  | soft (tr : Trig) (i : Instr) (rest : List Task)
  /-- fault after start -/
  | late (p : PendFault)
  deriving DecidableEq, Repr

/-- The trap shadow (R60, R89, R100). `idle`, `loopReq` and `halting` are the stream's at the fault: a
`ctl.idle`, `ctl.loop` or `ctl.halt` of the faulting word in an earlier slot (R39); `cont` the triggers of a word that
waited when a fault after start was delivered; `parity` the strikes on the bank that the shadow holds (R358). -/
structure Shadow where
  bank : Bank
  lock : BitVec 16
  loop : LoopSt
  xfer : List Transfer
  pc : Nat
  word : Nat
  sc : Nat
  cyc : W64
  same : Bool
  stalled : Bool
  stall : Nat
  idle : Nat
  loopReq : Option (Nat × Nat × Nat)
  halting : Option (BitVec 16)
  draining : Bool
  cont : List Task
  parity : List SoftErr
  ret : RetKind
  deriving DecidableEq, Repr

/-- What a context is blocked on beyond R36's own waits (R166, R179, R194, R300). -/
inductive Block where
  | event (rid word slot : Nat) (t : W64)
  | wpop (rid : Nat)
  | phase (rid : Nat) (p : BitVec 32)
  | drain
  | copy (o : CopyReq)
  deriving DecidableEq, Repr

/-- Whether a block is that of a blocking event form. -/
def Block.isEvent (b : Block) (rid : Nat) : Bool :=
  match b with
  | .event r _ _ _ => r == rid
  | _ => false

/-- A write that takes effect after its word (R94 to R97, R121). -/
inductive LateWrite where
  | lock (m : BitVec 16)
  | check (b : Bool)
  | prio (l : BitVec 2)
  | gcount (n : Nat)
  | vcount (n : Nat)
  | sys (reg : Nat) (v : W64)
  deriving DecidableEq, Repr

/-- A context (R16, R122). -/
structure Ctx where
  /-- (R331) the job whose strand it runs. Reset: none. -/
  job : Option Nat
  /-- (R36) word address of the next word in stream order. Reset: DESIGN CHOICE 0, log 2. -/
  pc : Nat
  /-- (R65, R66) pending control transfers, oldest first. Reset: none. -/
  xfer : List Transfer
  /-- (R88) LSTART, LEND, LLEFT, LACTIVE. Reset: no active loop. -/
  loop : LoopSt
  /-- (R28) remaining stall count. Reset: 0. -/
  stall : Nat
  /-- (R93) remaining count of a ctl.idle. Reset: 0. -/
  idle : Nat
  /-- (R74) wait count. Reset: 0. -/
  waits : Nat
  /-- (R80) consecutive tile cycles of counting down without a context cycle. Reset: 0. -/
  starved : Nat
  /-- (R75) its next word has had the first cycle in which it could have issued. Reset: false. -/
  stalled : Bool
  /-- (R73) it was ready in the tile cycle before. Reset: false. -/
  wasReady : Bool
  /-- (R104) the next word issues in the context cycle of the faulting word, whose landings are done, and the
  next tile cycle is the faulting word's own. Reset: false. -/
  same : Bool
  sameTile : Bool
  /-- (R92) halted with this exit status. Reset: none. -/
  exit : Option (BitVec 16)
  /-- (R347, R348) debug-halted. Reset: false. -/
  dbgHalt : Bool
  /-- (R348, R351) halts again after its next word. Reset: false. -/
  dbgStep : Bool
  /-- (R358) the read whose parity mismatch has cancelled its next word. Reset: none. -/
  mismatch : Option SoftErr
  /-- (R179, R166) what blocks it. Reset: none. -/
  block : List Block
  /-- (R179, R337, R348) it issues in no tile cycle before the next one: its blocking form has completed, or it has been restored or
  released, in the present one. Reset: false. -/
  woken : Bool
  /-- (R29) g registers by name. Reset: DESIGN CHOICE 0, log 2. -/
  g : Sparse W64
  /-- (R29) v registers by name. Reset: DESIGN CHOICE 0, log 2. -/
  v : Sparse W512
  /-- (R29) flags f0 to f15; f0 reads 1. Reset: DESIGN CHOICE 0, log 2. -/
  f : BitVec 16
  /-- (R29) pointer registers. Reset: DESIGN CHOICE 0, log 2. -/
  a : Sparse W64
  /-- (R119, R135) walk descriptors. Reset: 0. -/
  wd : Sparse W64
  /-- (R71) PRIO.LEVEL. Reset: DESIGN CHOICE 0, log 2. -/
  prio : BitVec 2
  /-- (R69) ALLOC.GCOUNT. Reset: DESIGN CHOICE 0, log 2. -/
  gcount : Nat
  /-- (R69) ALLOC.VCOUNT. Reset: DESIGN CHOICE 0, log 2. -/
  vcount : Nat
  /-- (R52) LOCKMASK.LOCK. Reset: 0xFFFF. -/
  lock : BitVec 16
  /-- (R62) CHECK.LAT. Reset: 0. -/
  check : Bool
  /-- (R123) FRM.MODE. Reset: 0. -/
  frm : BitVec 2
  /-- (R123) FFLAGS. Reset: 0. -/
  fflags : BitVec 5
  /-- (R101) TRAPBASE.ENTRY. Reset: DESIGN CHOICE 0, log 2. -/
  trapbase : BitVec 13
  /-- (R123) SLIM.LIMIT. Reset: DESIGN CHOICE 0, log 2. -/
  slim : BitVec 48
  /-- (R102, R103) FREC0 to FREC3. Reset: 0. -/
  frec0 : W64
  frec1 : W64
  frec2 : W64
  frec3 : W64
  /-- (R340) DISC.GRP. Reset: 0. -/
  disc : W64
  /-- (R40) the bank. -/
  bank : Bank
  /-- (R60) the trap shadow. Reset: empty. -/
  shadow : Option Shadow
  /-- (R270) y0 to y7. Reset: K 4, bits zero, empty lineage. -/
  yarns : Sparse Yarn
  /-- (R271) s0 to s3. Reset: 0. -/
  spindles : Sparse Spindle
  /-- (R194) PTRYPEND and q. Reset: clear. -/
  ptry : Option (BitVec 32)
  /-- (R194) an arrival in this phase that is not yet registered, with its place in trigger order. Reset: none. -/
  arriving : Option (BitVec 32 × Nat)
  /-- (R195) registered as arrived in this phase. Reset: none. -/
  arrived : Option (BitVec 32)
  /-- (R353) pending faults after start. Reset: none. -/
  faults : List PendFault
  /-- (R313) SEQ of the next remote atomic. Reset: 0. -/
  seq : BitVec 10
  /-- (R370, R379) RELEASE of its image. Reset: 0. -/
  release : BitVec 16
  /-- (R186) withdrawn event triggers to present again. Reset: none. -/
  withdrawn : List EvReq
  /-- (R178) mutex lines that its own requests leave it holding. Reset: none. -/
  mutex : List Nat
  /-- MODEL: writes of the present word that take effect after it. Reset: none. -/
  later : List LateWrite
  /-- MODEL: stall count and address of the word whose triggers are starting, and the tile cycle in which it issued. Reset: 0. -/
  curSc : Nat
  curWord : Nat
  curCyc : W64
  /-- MODEL: the present word's ctl.loop (R88, R90): word address, N and P. Reset: none. -/
  loopReq : Option (Nat × Nat × Nat)
  /-- MODEL: the present word's ctl.halt (R90, R92). Reset: none. -/
  halting : Option (BitVec 16)
  /-- MODEL: the present word's ctl.rfe (R104, R105): its mode, and FREC2 and FREC3 as it found them (R121). Reset: none. -/
  rfeReq : Option (Nat × W64 × W64)
  /-- (R104, R151, R165, R170) The triggers of the present word that wait, in the order in which they start; the word ends
  after them. Reset: none. -/
  cont : List Task
  /-- (R343) the context's save groups that have been written since its last save: bits 0 to 7 groups of g, 8 to 31 groups of v,
  32 its entry, 33 bank, 34 trap shadow, 35 yarns. Reset: none. -/
  dirty : BitVec 36
  deriving DecidableEq, Repr

/-- A context slot at reset. -/
def Ctx.init : Ctx :=
  { job := none, pc := 0, xfer := [], loop := LoopSt.init, stall := 0, idle := 0, waits := 0, starved := 0,
    stalled := false, wasReady := false, same := false, sameTile := false, exit := none, dbgHalt := false, dbgStep := false, mismatch := none, block := [],
    g := [], v := [], f := 0, a := [], wd := [], prio := 0, gcount := 0, vcount := 0, lock := 0xFFFF,
    check := false, frm := 0, fflags := 0, trapbase := 0, slim := 0, frec0 := 0, frec1 := 0, frec2 := 0,
    frec3 := 0, disc := 0, bank := Bank.init, shadow := none, yarns := [], spindles := [], ptry := none,
    arriving := none, arrived := none, faults := [], seq := 0, release := 0, withdrawn := [], mutex := [],
    later := [], curSc := 0, curWord := 0, curCyc := 0, woken := false, loopReq := none, halting := none, rfeReq := none, cont := [], dirty := 0 }

/-- A tile (R16). -/
structure Tile where
  /-- (R16) contexts 0 to 3. -/
  ctxs : Sparse Ctx
  /-- (R150) swatch owners. Reset: 0. -/
  owner : Sparse (BitVec 2)
  /-- (R22) instruction store by word address. Reset: DESIGN CHOICE 0, log 3. -/
  istore : Sparse W256
  /-- (R358) words with an uncorrectable error. Reset: none. -/
  badWords : List Nat
  /-- (R68) the context that pins the loop buffer. Reset: free. -/
  loopBuf : Option Nat
  /-- (R243) accumulator cells, key 4096 × m + 64 × row + column. Reset: DESIGN CHOICE 0, log 3. -/
  cells : Sparse W32
  /-- (R260) checksum columns, key 64 × m + row. Reset: DESIGN CHOICE 0, log 3. -/
  csum : Sparse W32
  /-- (R260) checksum rows, key 64 × m + column. Reset: DESIGN CHOICE 0, log 3. -/
  rsum : Sparse W32
  /-- (R249) accumulator states. Reset: Idle. -/
  accs : Sparse AccSt
  /-- (R251) the matrix queue, oldest first. Reset: empty. -/
  mxq : List MxOp
  /-- (R251, R340) operations that a restore has brought back while the queue held its 16: they enter first. Reset: none. -/
  mxLate : List MxOp
  /-- (R262, R264) mwait and msave records to land. Reset: none. -/
  mxw : List MxWait
  /-- (R269) the yarn engine's queue. Reset: empty. -/
  sxq : List SxOp
  /-- (R293) the copy request queue. Reset: empty. -/
  cpq : List CopyReq
  /-- (R296) reels 0 to 15. Reset: SIZE 0. -/
  reels : Sparse Reel
  /-- (R306, R308) receive queues 0 to 3. Reset: open and empty, reader 0. -/
  rqs : Sparse RQueue
  /-- (R189) wake comparators 0 to 7. Reset: disarmed. -/
  cmps : Sparse Comparator
  /-- (R190) the wake queue, oldest first, with each token's comparator. Reset: empty. -/
  wakeq : List W64
  /-- (R190, R340) tokens that a restore has brought back while the 16 entries were full: they enter first. Reset: none. -/
  wakeLate : List W64
  /-- (R191) blocked pops in trigger order. Reset: none. -/
  wpops : List (Who × Nat)
  /-- (R310) joined rotates not yet performed: job, context, word, slot, rotate word, record. Reset: none. -/
  rots : List (Nat × Trig × Nat)
  /-- (R124) tile counters RQ_LOCAL, RQ_REMOTE, CPY_REFUSED, CTX_SWITCH, STALL_WORDS. Reset: DESIGN CHOICE 0, log 3. -/
  ctrs : Sparse W64
  /-- (R125) the tile counters are frozen. Reset: running. -/
  frozen : Bool
  /-- (R73) the current context. Reset: none. -/
  cur : Option Nat
  /-- (R75) the context that issued last. Reset: none. -/
  lastIssue : Option Nat
  /-- (R73) the context that last held issue at each priority. Reset: none. -/
  lastAt : Sparse Nat
  /-- (R91) a ctl.yield of this context stands for the next tile cycle. Reset: none. -/
  yielded : Option Nat
  /-- (R343) what has been written of the tile's save groups since their jobs' last saves: 64 × m + row for an accumulator row,
  520 + n reel n, 540 + n receive queue n, 550 + n comparator n, 580 + n the slots of reel n, 600 + m the matrix queue at
  accumulator m. Reset: none. -/
  dirty : List Nat
  deriving DecidableEq, Repr

/-- A tile at reset. -/
def Tile.init : Tile :=
  { ctxs := [], owner := [], istore := [], badWords := [], loopBuf := none, cells := [], csum := [], rsum := [],
    accs := [], mxq := [], mxLate := [], mxw := [], sxq := [], cpq := [], reels := [], rqs := [], cmps := [], wakeq := [], wakeLate := [],
    wpops := [], rots := [], ctrs := [], frozen := false, cur := none, lastIssue := none, lastAt := [],
    yielded := none, dirty := [] }

/-- A TLB entry (R146): identifier, virtual page, level 1 or 2, the leaf entry as filled, and where it stands. -/
structure TlbEnt where
  asid : Nat
  page : Nat
  level : Nat
  ent : W64
  loc : Nat
  deriving DecidableEq, Repr

/-- A walk-cache entry (R146): the table entry of a middle-level index, and where it stands. -/
structure WalkEnt where
  asid : Nat
  index : Nat
  ent : W64
  loc : Nat
  deriving DecidableEq, Repr

/-- A gather-buffer line in state Gathering (R160). `ops` are the reductions that it holds. -/
structure GLine where
  cluster : Nat
  line : Nat
  op : RedOp
  elems : Sparse W64
  contrib : BitVec 32
  ops : List Nat
  stamp : Nat
  /-- the physical address of the line, which tells its home switch (R148) -/
  pa : Nat
  deriving DecidableEq, Repr

/-- Messages between gather buffers and homes (R160, R161). -/
inductive GKind where
  | join | accept | refuse | recall
  | flush (op : RedOp) (elems : Sparse W64) (ops : List Nat)
  deriving DecidableEq, Repr

structure GMsg where
  id : Nat
  cluster : Nat
  line : Nat
  pa : Nat
  kind : GKind
  deriving DecidableEq, Repr

/-- What a home holds for a line that gathers (R161): an operation, a copy request, a matrix operation, a job's provisional
commit, or a message of a host port. -/
inductive Holder where
  | op (id : Nat)
  | copy (id : Nat)
  | matrix (id : Nat)
  | commit (job : Nat)
  | port (seq : Nat)
  deriving DecidableEq, Repr

/-- A gathered line at its home (R161, R167): the holder mask, the physical address, what it holds, oldest first, the clusters that it
has refused for that, once for each JOIN, and the FLUSH messages that wait until that has performed. -/
structure HLine where
  line : Nat
  pa : Nat
  mask : BitVec 72
  held : List Holder
  refused : List Nat
  late : List GMsg
  deriving DecidableEq, Repr

/-- An entry of a die's miss table (R146): the page that an identifier misses, of 512 MiB (level 1) or of 512 KiB. -/
structure Miss where
  die : Nat
  asid : Nat
  level : Nat
  page : Nat
  deriving DecidableEq, Repr

/-- A stream of demand accesses in a granule (R149): its last line, and whether it came up or down to it. -/
structure Stream where
  line : Nat
  up : Bool
  down : Bool
  deriving DecidableEq, Repr

/-- A staged provisional store (R162, R163). `home` is a tile, or 576 + die. -/
structure Staged where
  loc : Nat
  value : W64
  job : Nat
  phase : BitVec 32
  home : Nat
  leaf : Option Nat
  deriving DecidableEq, Repr

/-- A request travelling to its home through switches, under its operation `id` (R312, R313, R327): an atomic with its tag and
operand, or another access that a switch has taken in. `path` are the switches still to enter, its home last, `seen` those
entered, newest first; `at'` the switch that queues it, since the tile cycle `since`, and `window` what it may wait there for a
partner (R314). -/
structure AReq where
  id : Nat
  tag : BitVec 24
  operand : W64
  at' : Option Nat
  since : W64
  window : Nat
  path : List Nat
  seen : List Nat
  deriving DecidableEq, Repr

/-- A bridle entry (R312, R316): the operations of the earlier and the later request with their tags, the retained operand, the
operation and its width. -/
structure Bridle where
  switch : Nat
  early : Nat
  late : Nat
  earlyTag : BitVec 24
  lateTag : BitVec 24
  kept : W64
  op : AmoOp
  w32 : Bool
  /-- the way back of the later request: the switches that it had entered, newest first -/
  path : List Nat
  deriving DecidableEq, Repr

/-- A reply on its way back (R316, R317): its value or status, and the switches still to pass. -/
structure AReply where
  id : Nat
  value : W64
  status : Option (Flt × BitVec 16)
  path : List Nat
  deriving DecidableEq, Repr

/-- A source of atomics at a replay filter (R324, R325): the host, or a tile and context of a member of a job's phase group. -/
inductive AmoSource where
  | host
  | peer (job : Nat) (member : Nat) (who : Who)
  deriving DecidableEq, Repr

/-- An entry of a home's replay filter (R324): its source and home, a sequence number, and the stored reply. -/
structure Applied where
  source : AmoSource
  home : Nat
  seq : Nat
  value : W64
  deriving DecidableEq, Repr

/-- A message of another member of a phase group that waits for its queue (R305): the job, the tile and the queue. -/
structure Inbound where
  job : Nat
  tile : Nat
  q : Nat
  msg : VisitMsg
  deriving DecidableEq, Repr

/-- A rectangle of a launch (R333). -/
structure Rect where
  pdie : Nat
  oy : Nat
  ox : Nat
  h : Nat
  w : Nat
  ctx : BitVec 4
  gc : Nat
  vc : Nat
  cprio : BitVec 2
  deriving DecidableEq, Repr

/-- A role image (R370). -/
structure Role where
  role : Nat
  origin : Nat
  entry : Nat
  trapEntry : Nat
  rejoin : Option Nat
  release : BitVec 16
  gmin : Nat
  gkeep : Nat
  vmin : Nat
  vkeep : Nat
  fkeep : BitVec 16
  akeep : BitVec 16
  own : List (BitVec 2)
  disc : List Bool
  words : List W256
  deriving DecidableEq, Repr

/-- A loaded code object (R368 to R376): its queue and reference, its parsed sections and its bytes. -/
structure Obj where
  queue : Nat
  ref : Nat
  timing : Nat
  roles : List Role
  place : List (Nat × Nat × Nat × Nat × Nat × Nat)
  data : List (Nat × Nat × List Byte)
  bytes : List Byte
  deriving DecidableEq, Repr

/-- A job's state (R330, R334 to R339). -/
inductive JobSt where
  | waiting | running | preempting | preempted | resuming | completed | failed
  deriving DecidableEq, Repr

/-- What a tile image holds (R341, R350): the tile's share of the job, the bytes and the poisoned doublewords of its
window, its outstanding messages, the retried operations that have not been taken up, and for a snapshot the operations
that have faulted or are held. MODEL form of R341, log 9. -/
structure Image where
  tile : Tile
  sram : Sparse Byte
  poison : List Nat
  msgs : List Msg
  restarts : List (Who × RetOp × W64)
  ops : List MemOp
  /-- (R342) the valid map: the numbers of the save groups that a save has written -/
  valid : List Nat
  deriving DecidableEq, Repr

/-- A job (R331). -/
structure Job where
  id : Nat
  queue : Nat
  pseq : W32
  st : JobSt
  /-- the launch descriptor, and whether the launch has passed R334 -/
  desc : List W64
  admitted : Bool
  obj : Obj
  asid : BitVec 16
  prio : BitVec 2
  cw : BitVec 4
  debug : Bool
  compat : Bool
  wdog : Nat
  cto : Nat
  rects : List Rect
  save : Nat
  accx : BitVec 8
  swcnt : Nat
  swbase : Nat
  stop : BitVec 20
  slo : BitVec 20
  group : Nat
  member : Nat
  gsize : Nat
  reelx : BitVec 16
  cmpx : BitVec 8
  qx : BitVec 4
  args : List W64
  stages : List (BitVec 23)
  events : List W64
  /-- (R335) index in the dependence table -/
  entry : Option Nat
  /-- (R192) PHASE.NUM and PHASE.ABORT -/
  phase : BitVec 32
  abort : Bool
  /-- (R163, R363) a link fault touched the job in the present phase -/
  touched : Bool
  /-- (R196) watchdog count -/
  dog : Nat
  /-- (R349) members of the phase group that have arrived, each with the phase; those whose jobs have completed, and so hold the barrier
  no more; and the phases in which a link fault has touched another member (R363) -/
  members : List (Nat × BitVec 32)
  gone : List Nat
  marks : List (BitVec 32)
  /-- (R345, R346) snapshot and hot replace packets due at the next advance -/
  due : List (Nat × Packet)
  /-- (R338, R341) the tile images of the last save, by logical index, the count of saves, and the area that the next
  restore reads, where it is not the save area (R345) -/
  images : Sparse Image
  saves : Nat
  area : Option Nat
  /-- (R345) the identifier of the snapshot whose pages a restored job takes when it is placed -/
  pages : Option (BitVec 16)
  /-- (R338, R339) the pre-empt and the resume packets that are to complete -/
  pre : List (Nat × W32)
  res : List (Nat × W32)
  /-- (R339) the job that displaced it, or none when a resume packet may bring it back -/
  by' : Option Nat
  deriving DecidableEq, Repr

/-- A journal entry (R365). -/
structure JEntry where
  queue : Nat
  seq : W32
  kind : BitVec 8
  st : BitVec 3
  time : W64
  reason : BitVec 16
  w3 : W64
  deriving DecidableEq, Repr

/-- A packet that waits in its queue (R330), with the number of the message that brought it (R387). -/
structure QPkt where
  queue : Nat
  seq : W32
  packet : Packet
  msg : Nat
  deriving DecidableEq, Repr

/-- A step packet that has not completed (R351): its job, and the contexts that have still to issue their words. -/
structure StepPkt where
  queue : Nat
  seq : W32
  job : Nat
  left : List Who
  deriving DecidableEq, Repr

/-- The states of a dependence table entry (R335). -/
inductive DepSt where
  | waiting (count : Nat)
  | ready | running | done | cancelled
  deriving DecidableEq, Repr

/-- An entry of the dependence table (R335). -/
structure Dep where
  st : DepSt
  preds : List Nat
  job : Nat
  deriving DecidableEq, Repr

/-- A snapshot that has been carried out (R345): the job as it stood, with its tile images. -/
structure Snap where
  queue : Nat
  seq : W32
  asid : BitVec 16
  area : Nat
  job : Job
  deriving DecidableEq, Repr

/-- A link's state (R363, R364): up, retraining with the cycles left, or down. -/
inductive LinkSt where
  | up
  | retraining (left : Nat)
  | down
  deriving DecidableEq, Repr

/-- What the device sends to the host (R387): its header with TYPE 6 (a reply) or 7 (an acknowledgement alone), the tile cycle in
which it was sent, the number of the message that it answers, the status, words and bytes of the reply. -/
structure Reply where
  kind : Nat
  session : Nat
  seq : Nat
  ack : Nat
  sack : W32
  sent : W64
  re : Nat
  status : Nat
  words : List W64
  bytes : List Byte
  deriving DecidableEq, Repr

/-- The tether transport of the open session (R387). `rto` is the retransmission time in tile cycles; `rxBuf` the messages
received and not yet applied; `stored` the numbers of the last 64 messages applied, each with its reply. -/
structure Tether where
  session : Option Nat
  rto : Nat
  rxNext : Nat
  rxBuf : List (Nat × Instr)
  txNext : Nat
  unacked : List Reply
  stored : List (Nat × Option Reply)
  deriving DecidableEq, Repr

def Tether.init : Tether :=
  { session := none, rto := 0, rxNext := 0, rxBuf := [], txNext := 0, unacked := [], stored := [] }

/-- How far the package is (R390 to R395): its power removed, a start failed and the package about to reset itself, a start under
way with the cycles left of its 60 s, or running. -/
inductive Power where
  | off
  | failed
  | starting (left : Nat)
  | running
  deriving DecidableEq, Repr

/-- The state of the package. -/
structure State where
  /-- (R123) CYCLE. Reset: 0. -/
  cycle : W64
  /-- (R8, R12, R16) tiles by physical number 144 × die + 12 × y + x. -/
  tiles : Sparse Tile
  /-- (R16, R144) SRAM and DRAM by storage location: tile t offset o is 2^20 × t + o, and a DRAM byte
  2^40 + 2^12 × (2^24 × stack + index) + PA[11:0]. Reset: nothing listed; an unlisted byte reads 0,
  DESIGN CHOICE, log 4. -/
  mem : List Host.Cell
  /-- (R357) poisoned doublewords, by location / 8, ascending. Reset: none. -/
  poison : List Nat
  /-- (R360, R361) trail codes of the lines with TR = 1, by location / 64. Reset: none. -/
  trail : Sparse (BitVec 16)
  /-- (R343) swatches written since their jobs' last saves, 256 × tile + physical swatch, ascending. Reset: none. -/
  dirty : List Nat
  /-- (R358) registers and records with a parity error: the strike. Reset: none. -/
  parity : List SoftErr
  /-- (R146) cluster TLBs by cluster 18 × die + number. Reset: empty. -/
  tlbs : Sparse (List TlbEnt)
  /-- (R146) micro-TLBs by tile. Reset: empty. -/
  utlbs : Sparse (List TlbEnt)
  /-- (R146) walk caches by die. Reset: empty. -/
  walks : Sparse (List WalkEnt)
  /-- (R146) the miss tables, oldest entry first; the first 128 of a die are being walked. Reset: none. -/
  misses : List Miss
  /-- (R138, R389) the address-space table: root PA by identifier. Reset: empty. -/
  roots : Sparse Nat
  /-- (R389) roots set and not yet in use, until an invalidation of the identifier. Reset: none. -/
  newRoots : Sparse Nat
  /-- (R142, R389) free pages of the snapshot pool, by PA. Reset: none. -/
  pool : List Nat
  /-- (R142) leaf-table room left in a pool page: next PA and count. Reset: none. -/
  poolTab : Option (Nat × Nat)
  /-- (R48) outstanding memory operations in trigger order. Reset: none. -/
  ops : List MemOp
  /-- (R160) gather-buffer lines in state Gathering. Reset: none. -/
  glines : List GLine
  /-- (R160) gather messages in the order sent. Reset: none. -/
  gmsgs : List GMsg
  /-- (R161) holder masks at the homes. Reset: none. -/
  hlines : List HLine
  /-- (R162) staged provisional stores. Reset: none. -/
  staged : List Staged
  /-- (R354) faulted operations that a return performs again with T, not yet taken up. Reset: none. -/
  restarts : List (Who × RetOp × W64)
  /-- (R312) atomic requests on their way. Reset: none. -/
  areqs : List AReq
  /-- (R312, R316) bridle entries, newest first. Reset: none. -/
  bridles : List Bridle
  /-- (R316) atomic replies on their way. Reset: none. -/
  areplies : List AReply
  /-- (R315, R328) the highest input port by which a request has entered a switch in this tile cycle. Reset: none. -/
  swIn : Sparse Nat
  /-- (R324) replay filters, newest entry first. Reset: none. -/
  filters : List Applied
  /-- (R305) outstanding messages in trigger order. Reset: none. -/
  msgs : List Msg
  /-- (R350, R353) faults of what a saved job has sent to other packages, raised when it resumes: context, job, fault.
  Reset: none. -/
  deferred : List (Who × Nat × PendFault)
  /-- (R305) messages of other members that wait for their queues, oldest first. Reset: none. -/
  inbound : List Inbound
  /-- (R349) what members of phase groups of which no job is here have sent: group, member, note, oldest first. Reset: none. -/
  early : List (Nat × Nat × GroupNote)
  /-- (R176) event lines: cluster line 32 × cluster + n, die line 2304 + 32 × die + n, package line 2432 + n.
  Reset: MODE 0. -/
  lines : Sparse Line
  /-- (R179) event requests on their way. Reset: none. -/
  evreqs : List EvReq
  /-- (R180) messages between lines. Reset: none. -/
  lmsgs : List LineMsg
  /-- (R124) die and link counters, key 16 × die + number. Reset: DESIGN CHOICE 0, log 3. -/
  dctrs : Sparse W64
  /-- (R389) dies whose counters are frozen. Reset: none. -/
  dfrozen : List Nat
  /-- (R149) dies whose prefetcher is on. Reset: DESIGN CHOICE none, log 3. -/
  prefetch : List Nat
  /-- (R149) streams of demand accesses by granule (location / 4,096). Reset: none. -/
  streams : Sparse Stream
  /-- (R17, R148) lines (location / 256) held by the die memory caches, by 16,384 × die + set, least recently used first. Reset:
  none. -/
  cache : Sparse (List Nat)
  /-- (R149) prefetches in flight: die, line (location / 256), counted. Reset: none. -/
  pfFly : List (Nat × Nat × Bool)
  /-- (R149) prefetched lines not yet used: die, line. Reset: none. -/
  pfIn : List (Nat × Nat)
  /-- (R363, R364) links by code, up when not listed. Reset: up. -/
  links : Sparse LinkSt
  /-- (R321, R363) replays that have failed for the flit which a link holds. Reset: none. -/
  replays : Sparse Nat
  /-- (R331) jobs. Reset: none. -/
  jobs : List Job
  /-- (R375) loaded objects. Reset: none. -/
  objs : List Obj
  /-- (R365) the command journal, oldest first. Reset: empty. -/
  journal : List JEntry
  /-- (R329) next SEQ of each command queue. Reset: any. -/
  qnext : Sparse W32
  /-- (R330) packets that came ahead of their SEQ. Reset: none. -/
  qhold : List QPkt
  /-- (R330) packets that wait in their queues. Reset: none. -/
  qwait : List QPkt
  /-- (R335) the dependence table, Free when not listed. Reset: Free. -/
  deps : Sparse Dep
  /-- (R345) snapshots carried out. Reset: none. -/
  snaps : List Snap
  /-- (R389) enrolled keys; nonvolatile. Reset: kept; DESIGN CHOICE none, log 3. -/
  keys : Sparse (List Byte)
  /-- (R389) the firmware staging area. Reset: DESIGN CHOICE empty, log 3. -/
  staging : Sparse Byte
  /-- (R390, R389) the image in use and the one that starts next. Reset: the image that the package holds, no value given, log 6. -/
  firmware : List Byte
  nextFw : List Byte
  /-- (R390) consecutive failed starts; nonvolatile. Reset: DESIGN CHOICE 0, log 3. -/
  fails : Nat
  /-- (R391) BOOTCAUSE. Reset: DESIGN CHOICE 0 (no failure before this start), log 3. -/
  bootcause : W64
  /-- (R390, R394) whether the package runs. Reset: running, DESIGN CHOICE, log 3. -/
  power : Power
  /-- (R394) the power limit in watts. Reset: 2800. -/
  limit : Nat
  /-- (R394) throttled cycles since reset. Reset: 0. -/
  throttled : W64
  /-- (R386, R394) dropped frames. Reset: DESIGN CHOICE 0, log 3. -/
  dropped : W64
  /-- (R357, R359, R362, R390) entries of the management log. Reset: DESIGN CHOICE 0, log 3. -/
  fwlog : List W64
  /-- (R387) the tether transport. Reset: no session. -/
  tether : Tether
  /-- (R387) the replies that left through the host ports, each sending of each. Reset: none. -/
  hostOut : List Reply
  /-- (R351) step packets that have not completed. Reset: none. -/
  steps : List StepPkt
  /-- (R349, R303, R325) what left through the peer ports: kind and words. Reset: none. -/
  peerOut : List (Nat × List W64)
  /-- MODEL: the next identifier of an operation. Reset: DESIGN CHOICE 0, log 5. -/
  fresh : Nat
  /-- MODEL: how many free values have been taken. Reset: DESIGN CHOICE 0, log 5. -/
  frees : Nat
  /-- MODEL: the trigger that is starting. -/
  trig : Trig
  /-- MODEL: the forced steps left in this tile cycle, in order. Reset: none, log 1. -/
  agenda : List Task
  /-- MODEL: outside events and choices of unarchitected time, with their tile cycles. Reset: none, log 1. -/
  sched : List (Nat × Instr)
  /-- MODEL: no event of unarchitected time comes about by itself; `sched` names them all. Reset: false, log 1. -/
  held : Bool
  /-- MODEL: the tile work of this cycle has been taken up. Reset: false, log 1. -/
  worked : Bool
  deriving DecidableEq, Repr

/-- No trigger is starting. -/
def Trig.init : Trig := { who := { tile := 0, ctx := 0 }, word := 0, slot := 0, t := 0, again := false, late := false }

/-- The machine right after a package reset whose start succeeded (R390, R395). -/
def State.reset : State :=
  { cycle := 0, tiles := [], mem := [], poison := [], trail := [], dirty := [], parity := [], tlbs := [],
    utlbs := [], walks := [], misses := [], roots := [], newRoots := [], pool := [], poolTab := none, ops := [], glines := [],
    gmsgs := [], hlines := [], staged := [], restarts := [], areqs := [], bridles := [], areplies := [], swIn := [], filters := [], msgs := [],
    deferred := [], inbound := [], early := [], lines := [], evreqs := [], lmsgs := [], dctrs := [], dfrozen := [], prefetch := [], streams := [], cache := [], pfFly := [],
    pfIn := [], links := [], replays := [], jobs := [], objs := [], journal := [], qnext := [], qhold := [], qwait := [], deps := [], snaps := [],
    keys := [], staging := [], firmware := Config.image, nextFw := Config.image, fails := 0, bootcause := 0, power := .running,
    limit := 2800, throttled := 0, dropped := 0, fwlog := [], tether := Tether.init, hostOut := [], steps := [], peerOut := [], fresh := 0,
    frees := 0, trig := Trig.init, agenda := [], sched := [], held := false, worked := false }

/-- Why the machine stops. -/
inductive Fault where
  /-- Raised by a step that would issue the word at address 8,192: the store has words 0 to 8,191 (R22) and
  no rule says what follows the last. Safe: the hardware's next state, whatever it is, is not claimed. -/
  | fetchBeyondStore
  deriving DecidableEq, Repr

/-- Why an instruction has no meaning here. -/
inductive Refusal where
  /-- Raised by the arm of an instruction that has no meaning yet. Safe. -/
  | notModelled (mnemonic : String)
  deriving DecidableEq, Repr

end Sys2Proof.Machine
end

