-- ==== Sys2Proof/Machine/Access.lean ====
section
/-! DEFINITION. Reading and writing the parts of the state: sparse maps, memory bytes, tiles, contexts, jobs, and
the geometry of the package (R8 to R14). -/

namespace Sys2Proof.Machine

/-! ### Sparse maps -/

/-- The entry of a key. -/
def Sparse.get? {α : Type} : Sparse α → Nat → Option α
  | [], _ => none
  | (k, v) :: m, n => if n = k then some v else Sparse.get? m n

/-- The entry of a key, `d` where there is none. -/
def Sparse.get {α : Type} (m : Sparse α) (d : α) (n : Nat) : α := (Sparse.get? m n).getD d

/-- The map with an entry written. -/
def Sparse.set {α : Type} : Sparse α → Nat → α → Sparse α
  | [], n, v => [(n, v)]
  | (k, w) :: m, n, v =>
    if n < k then (n, v) :: (k, w) :: m else if n = k then (k, v) :: m else (k, w) :: Sparse.set m n v

/-- The map without the entries of a key. -/
def Sparse.erase {α : Type} (m : Sparse α) (n : Nat) : Sparse α := m.filter fun e => e.1 != n

/-- The map with the entry of a key changed. -/
def Sparse.upd {α : Type} (m : Sparse α) (d : α) (n : Nat) (f : α → α) : Sparse α :=
  m.set n (f (m.get d n))

/-- The values of `n` keys from `a` on, `d` where there is none. -/
def Sparse.dense {α : Type} (d : α) : Nat → Nat → Sparse α → List α
  | _, 0, _ => []
  | a, n + 1, m => match m.dropWhile fun (e : Nat × α) => e.1 < a with
    | (k, v) :: rest => if k = a then v :: Sparse.dense d (a + 1) n rest else d :: Sparse.dense d (a + 1) n ((k, v) :: rest)
    | [] => d :: Sparse.dense d (a + 1) n []

/-- Change the elements of a list that satisfy `p`. -/
def updWhere {α : Type} (p : α → Bool) (f : α → α) (l : List α) : List α := l.map fun x => if p x then f x else x

/-- A number put into an ascending list. -/
def insertNat (n : Nat) : List Nat → List Nat
  | [] => [n]
  | m :: ms => if n < m then n :: m :: ms else if n = m then m :: ms else m :: insertNat n ms

/-! ### Memory bytes -/

/-- What a byte reads that nothing has written (log 4). -/
def unlisted : Byte := 0

/-- (R16) The byte at a storage location. -/
def Memory.read : List Host.Cell → Nat → Byte
  | [], _ => unlisted
  | (k, v) :: m, a => if a = k then v else Memory.read m a

/-- (R16) The memory with one byte written. Writing what an unlisted location reads as takes the entry out. -/
def Memory.write : List Host.Cell → Nat → Byte → List Host.Cell
  | [], a, v => if v = unlisted then [] else [(a, v)]
  | (k, w) :: m, a, v =>
    if a < k then (if v = unlisted then (k, w) :: m else (a, v) :: (k, w) :: m)
    else if a = k then (if v = unlisted then m else (k, v) :: m)
    else (k, w) :: Memory.write m a v

/-- The canonical form of memory: addresses strictly rising from `lo`, no entry that reads as unlisted. -/
def Memory.wfFrom : Nat → List Host.Cell → Bool
  | _, [] => true
  | lo, (k, v) :: m => lo ≤ k && v != unlisted && Memory.wfFrom (k + 1) m

/-- The canonical form of memory. -/
def Memory.wf (m : List Host.Cell) : Bool := Memory.wfFrom 0 m

/-- (R2) `n` bytes from location `a`, little-endian. -/
def Memory.readLe (m : List Host.Cell) : Nat → Nat → Nat
  | _, 0 => 0
  | a, n + 1 => (Memory.read m a).toNat + 256 * Memory.readLe m (a + 1) n

/-- (R2) `n` bytes of a value written from location `a`, little-endian. -/
def Memory.writeLe (m : List Host.Cell) : Nat → Nat → Nat → List Host.Cell
  | _, 0, _ => m
  | a, n + 1, v => Memory.writeLe (Memory.write m a (BitVec.ofNat 8 v)) (a + 1) n (v / 256)

/-- The entries that list the bytes `bs` from location `a` on. -/
def Memory.cellsFrom : Nat → List Byte → List Host.Cell
  | _, [] => []
  | a, b :: bs => if b = unlisted then Memory.cellsFrom (a + 1) bs else (a, b) :: Memory.cellsFrom (a + 1) bs

/-- Bytes written from location `a` on. -/
def Memory.writeBytes (m : List Host.Cell) (a : Nat) (bs : List Byte) : List Host.Cell :=
  (m.filter fun (e : Host.Cell) => e.1 < a) ++ Memory.cellsFrom a bs ++ m.filter fun (e : Host.Cell) => a + bs.length ≤ e.1

/-- The entries of locations [a, a + n), by their distance from `a`. -/
def Memory.block (m : List Host.Cell) (a n : Nat) : Sparse Byte :=
  (m.filter fun (e : Host.Cell) => a ≤ e.1 && e.1 < a + n).map fun (e : Host.Cell) => (e.1 - a, e.2)

/-- `n` bytes from location `a` on. -/
def Memory.readBytes (m : List Host.Cell) : Nat → Nat → List Byte
  | _, 0 => []
  | a, n + 1 => Memory.read m a :: Memory.readBytes m (a + 1) n

/-- (R2) The number that bytes stand for, little-endian. -/
def leNat : List Byte → Nat
  | [] => 0
  | b :: bs => b.toNat + 256 * leNat bs

/-- (R2) The `n` bytes of a number, little-endian. -/
def leBytes : Nat → Nat → List Byte
  | 0, _ => []
  | n + 1, v => BitVec.ofNat 8 v :: leBytes n (v / 256)

/-! ### Geometry -/

/-- (R8) The die of a tile. -/
def dieOf (t : Nat) : Nat := t / 144

/-- (R12) The row of a tile on its die. -/
def rowOf (t : Nat) : Nat := t % 144 / 12

/-- (R12) The column of a tile on its die. -/
def colOf (t : Nat) : Nat := t % 12

/-- (R12) The tile at die `d`, row `y`, column `x`. -/
def tileAt (d y x : Nat) : Nat := 144 * d + 12 * y + x

/-- (R13) The cluster of a tile within its die. -/
def clusterNo (t : Nat) : Nat := rowOf t / 2 * 3 + colOf t / 4

/-- (R13) The cluster of a tile in the package, 18 × die + number. -/
def clusterOf (t : Nat) : Nat := 18 * dieOf t + clusterNo t

/-- (R13) The ring position of a tile. -/
def ringPos (t : Nat) : Nat := if rowOf t % 2 = 0 then colOf t % 4 else 7 - colOf t % 4

/-- (R13) The tile at a ring position of a cluster of the package. -/
def ringTile (cl pos : Nat) : Nat :=
  tileAt (cl / 18) (2 * (cl % 18 / 3) + (if pos < 4 then 0 else 1)) (4 * (cl % 3) + (if pos < 4 then pos else 7 - pos))

/-! ### Tiles and contexts -/

/-- A tile. -/
def State.tile (s : State) (t : Nat) : Tile := s.tiles.get Tile.init t

/-- A tile written. -/
def State.setTile (s : State) (t : Nat) (x : Tile) : State := { s with tiles := s.tiles.set t x }

/-- A tile changed. -/
def State.updTile (s : State) (t : Nat) (f : Tile → Tile) : State := s.setTile t (f (s.tile t))

/-- (R343) A save group of a tile marked as written, and the rows 0 to `n` − 1 of an accumulator. -/
def Tile.mark (t : Tile) (g : Nat) : Tile := { t with dirty := insertNat g t.dirty }
def Tile.markRows (t : Tile) (m n : Nat) : Tile := (List.range n).foldl (fun (t : Tile) i => t.mark (64 * m + i)) t

/-- (R296) A reel written. -/
def Tile.setReel (t : Tile) (n : Nat) (r : Reel) : Tile := { t with reels := t.reels.set n r }.mark (520 + n)

/-- (R306) A receive queue written. -/
def Tile.setRq (t : Tile) (n : Nat) (r : RQueue) : Tile := { t with rqs := t.rqs.set n r }.mark (540 + n)

/-- (R189) A comparator written. -/
def Tile.setCmp (t : Tile) (n : Nat) (k : Comparator) : Tile := { t with cmps := t.cmps.set n k }.mark (550 + n)

/-- A context. -/
def State.ctx (s : State) (c : Who) : Ctx := (s.tile c.tile).ctxs.get Ctx.init c.ctx

/-- A context written. -/
def State.setCtx (s : State) (c : Who) (x : Ctx) : State :=
  s.updTile c.tile fun t => { t with ctxs := t.ctxs.set c.ctx x }

/-- A context changed. -/
def State.updCtx (s : State) (c : Who) (f : Ctx → Ctx) : State := s.setCtx c (f (s.ctx c))

/-- The four contexts of a tile. -/
def whosOf (t : Nat) : List Who := [⟨t, 0⟩, ⟨t, 1⟩, ⟨t, 2⟩, ⟨t, 3⟩]

/-- (R29) A scalar register; g0 reads 0. -/
def Ctx.readG (x : Ctx) (n : Nat) : W64 := if n = 0 then 0 else x.g.get 0 n

/-- One bit of a vector written. -/
def setBit {w : Nat} (v : BitVec w) (n : Nat) (b : Bool) : BitVec w :=
  if b then v ||| (1#w <<< n) else v &&& ~~~(1#w <<< n)

/-- (R343) A save group of a context marked as written. -/
def Ctx.mark (x : Ctx) (n : Nat) : Ctx := { x with dirty := setBit x.dirty n true }

/-- (R30) A scalar register written; a write to g0 is discarded. -/
def Ctx.writeG (x : Ctx) (n : Nat) (v : W64) : Ctx := if n = 0 then x else { x with g := x.g.set n v }.mark (n / 8)

/-- (R29) A flag; f0 reads 1. -/
def Ctx.readF (x : Ctx) (n : Nat) : Bool := n == 0 || x.f.getLsbD n

/-- (R30) A flag written; a write to f0 is discarded. -/
def Ctx.writeF (x : Ctx) (n : Nat) (b : Bool) : Ctx := if n = 0 then x else { x with f := setBit x.f n b }

/-- (R29) A pointer register. -/
def Ctx.readA (x : Ctx) (n : Nat) : W64 := x.a.get 0 n

/-- (R30) A pointer register written; its walk descriptor stays (R119). -/
def Ctx.writeA (x : Ctx) (n : Nat) (v : W64) : Ctx := { x with a := x.a.set n v }

/-- (R29) A vector register. -/
def Ctx.readV (x : Ctx) (n : Nat) : W512 := x.v.get 0 n

/-- (R30) A vector register written. -/
def Ctx.writeV (x : Ctx) (n : Nat) (v : W512) : Ctx := { x with v := x.v.set n v }.mark (8 + n / 32)

/-- (R52) Whether a unit is data-locked. -/
def Ctx.locked (x : Ctx) (u : Nat) : Bool := x.lock.getLsbD u

/-! ### Banks -/

/-- (R40) An operand port. -/
def Bank.port (b : Bank) (u p : Nat) : W512 := b.ports.get 0 (4 * u + p)

/-- (R40) An operand port written. -/
def Bank.setPort (b : Bank) (u p : Nat) (v : W512) : Bank := { b with ports := b.ports.set (4 * u + p) v }

/-- A record of zeros. -/
def Rec.zero : Rec := { out := 0, aux := 0, stat := 0 }

/-- (R84) No effect beside the record. -/
def Effects.none : Effects := { flags := .none, ptr := .none, wd := .none, ff := 0 }

/-- (R40) The result slots of a unit. -/
def Bank.slot (b : Bank) (u : Nat) : Rec := b.slots.get Rec.zero u

/-- (R54) The unread records of a queue: unit, or 16 + unit for ldq. -/
def Bank.queue (b : Bank) (q : Nat) : List Rec := b.queues.get [] q

/-- The records of a queue changed. -/
def Bank.setQueue (b : Bank) (q : Nat) (l : List Rec) : Bank := { b with queues := b.queues.set q l }

/-- A context's bank changed. -/
def Ctx.updBank (x : Ctx) (f : Bank → Bank) : Ctx := { x with bank := f x.bank }

/-- Lanes [63:0] of a 512-bit value. -/
def lo64 (v : W512) : W64 := v.setWidth 64

/-- (R34) A 64-bit value in all eight lanes. -/
def lanes (v : W64) : W512 := (v ++ v ++ v ++ v ++ v ++ v ++ v ++ v : BitVec 512)

/-! ### Strikes -/

/-- (R358) Whether a strike is on the bank of a context: an operand port or a result record. -/
def bankStrike (c : Who) : SoftErr → Bool
  | .record d _ | .operand d _ _ => d == c
  | _ => false

/-- (R358) Whether a strike is on what a context reads. -/
def readStrike (c : Who) (e : SoftErr) : Bool :=
  match e with
  | .greg d _ | .vreg d _ | .aptr d _ | .freg d _ | .transient d => d == c
  | _ => bankStrike c e

/-! ### Jobs -/

/-- A job by its number. -/
def State.job? (s : State) (j : Nat) : Option Job := s.jobs.find? fun x => x.id == j

/-- A job changed. -/
def State.updJob (s : State) (j : Nat) (f : Job → Job) : State :=
  { s with jobs := updWhere (fun x => x.id == j) f s.jobs }

/-- The job that a context runs. -/
def State.jobOf (s : State) (c : Who) : Option Job := (s.ctx c).job.bind s.job?

/-- An object of no queue. -/
def Obj.init : Obj := { queue := 0, ref := 0, timing := 1, roles := [], place := [], data := [], bytes := [] }

/-- A rectangle that covers a die. -/
def Rect.wholeDie (d : Nat) : Rect :=
  { pdie := d, oy := 0, ox := 0, h := 12, w := 12, ctx := 0xF, gc := 64, vc := 768, cprio := 0 }

/-- The settings under which a context runs that no launch has started: logical coordinates are the physical ones,
and everything on its tile is in its share (log 2). -/
def Job.bare : Job :=
  { id := 0, queue := 0, pseq := 0, st := .running, desc := [], admitted := true, obj := Obj.init, asid := 0, prio := 3, cw := 0, debug := false,
    compat := false, wdog := 0, cto := 0, rects := [Rect.wholeDie 0, Rect.wholeDie 1, Rect.wholeDie 2, Rect.wholeDie 3],
    save := 0, accx := 0, swcnt := 256, swbase := 0, stop := 0, slo := 0, group := 0, member := 0, gsize := 0,
    reelx := 0, cmpx := 0, qx := 0, args := [], stages := [], events := [], entry := none, phase := 0,
    abort := false, touched := false, dog := 0, members := [], gone := [], marks := [], due := [], images := [], saves := 0, area := none, pages := none, pre := [], res := [],
    by' := none }

/-- The job under whose settings a context runs. -/
def State.jobFor (s : State) (c : Who) : Job := (s.jobOf c).getD Job.bare

/-- The job under whose settings an operation of a job, or of none, runs. -/
def State.jobNo (s : State) (j : Option Nat) : Job := (j.bind s.job?).getD Job.bare

/-- (R14) The physical tile at a logical coordinate of a job. -/
def Job.phys (j : Job) (d y x : Nat) : Option Nat :=
  match j.rects[d]? with
  | some r => if y < r.h && x < r.w then some (tileAt r.pdie (r.oy + y) (r.ox + x)) else none
  | none => none

/-- (R14) Whether a rectangle holds a tile. -/
def Rect.holds (r : Rect) (t : Nat) : Bool :=
  dieOf t == r.pdie && r.oy ≤ rowOf t && rowOf t < r.oy + r.h && r.ox ≤ colOf t && colOf t < r.ox + r.w

/-- (R14) The logical coordinate of a tile in a list of rectangles from die `d` on. -/
def logicalFrom (t : Nat) : Nat → List Rect → Option (Nat × Nat × Nat)
  | _, [] => none
  | d, r :: rs => if r.holds t then some (d, rowOf t - r.oy, colOf t - r.ox) else logicalFrom t (d + 1) rs

/-- (R14) The logical coordinate of a tile in a job. -/
def Job.logical (j : Job) (t : Nat) : Option (Nat × Nat × Nat) := logicalFrom t 0 j.rects

/-- (R14) Row by row, the tiles of a rectangle. -/
def Rect.tiles (r : Rect) : List Nat :=
  (List.range r.h).flatMap fun y => (List.range r.w).map fun x => tileAt r.pdie (r.oy + y) (r.ox + x)

/-- (R14) The tiles of a job in logical order. -/
def Job.tiles (j : Job) : List Nat := j.rects.flatMap Rect.tiles

/-- (R333) The contexts that a rectangle starts on a tile. -/
def Rect.whos (r : Rect) (t : Nat) : List Who := (whosOf t).filter fun c => r.ctx.getLsbD c.ctx

/-- (R331) The strands of a job. -/
def Job.whos (j : Job) : List Who := j.rects.flatMap fun r => r.tiles.flatMap r.whos

/-- (R333) Whether a stage entry is valid and its box holds a logical coordinate. -/
def stageHolds (d y x : Nat) (e : BitVec 23) : Bool :=
  e.getLsbD 22 && (e.extractLsb' 16 2).toNat == d && (e.extractLsb' 12 4).toNat ≤ y &&
    y ≤ (e.extractLsb' 8 4).toNat && (e.extractLsb' 4 4).toNat ≤ x && x ≤ (e.extractLsb' 0 4).toNat

/-- (R333) The stage of a logical coordinate: that of the last valid entry whose box holds it, or 0. -/
def stageOf (d y x : Nat) (es : List (BitVec 23)) : Nat :=
  es.foldl (fun st e => if stageHolds d y x e then (e.extractLsb' 18 4).toNat else st) 0

/-! ### Fresh identifiers and free values -/

/-- The next identifier, taken. -/
def State.takeId (s : State) : State := { s with fresh := s.fresh + 1 }

/-- The next free value (log 5). -/
def State.freeVal (s : State) : W512 := Config.free s.frees

/-- The next free value, taken. -/
def State.takeFree (s : State) : State := { s with frees := s.frees + 1 }

/-! ### Counters -/

/-- (R124, R125) A tile counter counts one, unless frozen. -/
def Tile.count (t : Tile) (n : Nat) : Tile := if t.frozen then t else { t with ctrs := t.ctrs.upd 0 n (· + 1) }

/-- (R124, R389) A die counter counts one, unless frozen. -/
def State.countDie (s : State) (d n : Nat) : State :=
  if s.dfrozen.contains d then s else { s with dctrs := s.dctrs.upd 0 (16 * d + n) (· + 1) }

end Sys2Proof.Machine
end

