-- ==== Sys2Proof/Machine/Jobs.lean ====
section
/-! DEFINITION. The command journal (R365), the dependence table (R335), and how a context halts (R92) and a job
ends (R336). -/

namespace Sys2Proof.Machine

/-! ### The journal -/

/-- (R365) Whether a journal STATE is final. -/
def finalSt (st : BitVec 3) : Bool := st == 2 || st == 3 || st == 4

/-- (R365) The first final entry of a queue taken out. -/
def dropOldest (q : Nat) : List JEntry → List JEntry
  | [] => []
  | e :: es => if e.queue == q && finalSt e.st then es else e :: dropOldest q es

/-- (R365) Whether a queue accepts a further packet: fewer than 1,024 entries, or one in a final state. -/
def State.journalRoom (s : State) (q : Nat) : Bool :=
  (s.journal.filter fun e => e.queue == q).length < 1024 || s.journal.any fun e => e.queue == q && finalSt e.st

/-- (R365) A packet accepted: its entry, in place of the oldest final one where the queue holds 1,024. -/
def State.journalAccept (s : State) (q : Nat) (seq : W32) (kind : BitVec 8) : State :=
  let j := if (s.journal.filter fun e => e.queue == q).length < 1024 then s.journal else dropOldest q s.journal
  { s with journal := j ++ [{ queue := q, seq := seq, kind := kind, st := 0, time := s.cycle, reason := 0, w3 := 0 }] }

/-- (R365) STATE moves forward: from accepted to started or a final state, from started to a final state. -/
def State.journalMove (s : State) (q : Nat) (seq : W32) (st : BitVec 3) (reason : BitVec 16) (w3 : W64) : State :=
  { s with
    journal := updWhere (fun e => e.queue == q && e.seq == seq && e.st.toNat < st.toNat && !finalSt e.st)
      (fun e => { e with st := st, time := s.cycle, reason := reason, w3 := w3 }) s.journal }

/-- (R365) The entry of a packet, newest first. -/
def State.journalGet (s : State) (q : Nat) (seq : W32) : Option JEntry :=
  s.journal.reverse.find? fun e => e.queue == q && e.seq == seq

/-- (R92) A strand's exit status, of a job in place or in its tile images. -/
def State.exitOf (s : State) (j : Job) (c : Who) : Option (BitVec 16) :=
  if (s.ctx c).job = some j.id then (s.ctx c).exit
  else (j.images.get? (j.tiles.idxOf c.tile)).bind fun im => (im.tile.ctxs.get Ctx.init c.ctx).exit

/-- (R336, R365) NFAIL, XSTAT and WHERE of a job: its strands with a nonzero exit status, and the first. -/
def State.exitWord (s : State) (j : Job) : W64 :=
  let bad := j.whos.filter fun c => match s.exitOf j c with
    | some e => e != 0
    | none => false
  match bad with
  | [] => 0
  | c :: _ =>
    let e := ((s.exitOf j c).getD 0).toNat
    let w := match j.logical c.tile with
      | some (d, y, x) => 1024 * c.ctx + 256 * d + 16 * y + x
      | none => 0
    BitVec.ofNat 64 (bad.length * 2 ^ 32 + e * 2 ^ 16 + w)

/-! ### The dependence table -/

/-- (R335) A Waiting entry whose predecessor reached Done counts it. -/
def Dep.predDone (i : Nat) (d : Dep) : Dep :=
  match d.st with
  | .waiting n =>
    let n' := n - d.preds.count i
    { d with st := if n' = 0 then .ready else .waiting n' }
  | _ => d

/-- (R335) A running entry's job completed: it is Done, and the entries that name it count. -/
def State.depDone (s : State) (i : Nat) : State :=
  let ds := s.deps.map fun (e : Nat × Dep) => if e.1 = i then (e.1, { e.2 with st := .done }) else (e.1, e.2.predDone i)
  { s with deps := ds }

/-- (R335) The Waiting entries that name one of `is`. -/
def State.depWaiting (s : State) (is : List Nat) : List (Nat × Dep) :=
  s.deps.filter fun (e : Nat × Dep) => (match e.2.st with
    | .waiting _ => true
    | _ => false) && e.2.preds.any is.contains

/-- (R335) Entries `is` reach Cancelled, and from them every Waiting entry that names a cancelled one; the
journal records the jobs of those as aborted, REASON 9. -/
def State.depCancel : Nat → List Nat → State → State
  | 0, _, s => s
  | n + 1, is, s =>
    let s1 := { s with
      deps := s.deps.map fun (e : Nat × Dep) => if is.contains e.1 then (e.1, { e.2 with st := .cancelled }) else e }
    let next := s1.depWaiting is
    let s2 := next.foldl (fun (t : State) (e : Nat × Dep) => match t.job? e.2.job with
      | some j => (t.journalMove j.queue j.pseq 4 9 0).updJob j.id fun x => { x with st := .failed }
      | none => t) s1
    if next.isEmpty then s1 else depCancel n (next.map (·.1)) s2

/-! ### Halting -/

/-- (R92) A bank to which no queued operation delivers any more. -/
def Bank.deaf (b : Bank) : Bank := { b with outst := [] }

/-- (R92, R353) A context halted with an exit status: no further word, no pending transfer, loop or fault, and no record of a
queued operation. -/
def Ctx.halted (x : Ctx) (e : BitVec 16) : Ctx :=
  { x with
    bank := x.bank.deaf, shadow := x.shadow.map fun h => { h with bank := h.bank.deaf }
    exit := some e, xfer := [], loop := LoopSt.init, stall := 0, idle := 0, faults := [], block := [],
    later := [], loopReq := none, halting := none, rfeReq := none, cont := [], withdrawn := [] }

/-- (R68, R92) A context's hold on the loop buffer released. -/
def Tile.freeLoop (t : Tile) (k : Nat) : Tile := if t.loopBuf = some k then { t with loopBuf := none } else t

/-- (R92) A context halts. -/
def State.haltCtx (s : State) (c : Who) (e : BitVec 16) : State :=
  (s.updCtx c fun x => x.halted e).updTile c.tile fun t => t.freeLoop c.ctx

/-! ### The end of a job -/

/-- (R331) Whether a job stands on its tiles. -/
def Job.resident (j : Job) : Bool := j.st == .running || j.st == .preempting

/-- A context slot is free again. -/
def Ctx.leave (x : Ctx) (j : Nat) : Ctx := if x.job = some j then { x with job := none, gcount := 0, vcount := 0 } else x

/-- The tasks of contexts that are no longer to run leave the agenda. -/
def dropTasks (cs : List Who) (l : List Task) : List Task :=
  l.filter fun k => match k with
    | .issue c | .wordEnd c | .cont c => !cs.contains c
    | .run tr i => !(cs.contains tr.who && (portOf i).isSome)
    | .fault tr _ _ _ _ => !cs.contains tr.who
    | _ => true

/-- (R331, R338) The context slots that a job holds, with their registers, are free again. -/
def State.releaseSlots (s : State) (j : Job) : State :=
  let here := j.whos.filter fun c => (s.ctx c).job == some j.id
  let s1 := here.foldl (fun s c => (s.updCtx c fun x => x.leave j.id).updTile c.tile fun t => t.freeLoop c.ctx) s
  { s1 with agenda := dropTasks here s1.agenda, parity := s1.parity.filter fun e => !here.any fun c => readStrike c e }

/-- (R339) The departure of a job makes the jobs that it displaced wait for placement. -/
def State.departed (s : State) (jid : Nat) : State :=
  { s with
    jobs := updWhere (fun j => j.st == .preempted && j.by' == some jid) (fun j => { j with st := .resuming, by' := none }) s.jobs }

/-- (R325) Whether a replay filter's source belongs to the phase group of a job here. -/
def AmoSource.visits (a : AmoSource) (jid : Nat) : Bool :=
  match a with
  | .host => false
  | .peer j _ _ => j == jid

/-- (R331, R336) A job's context slots, registers and event lines are free again, and what other members sent it is gone. -/
def State.releaseJob (s : State) (j : Job) : State :=
  let s1 := s.releaseSlots j
  { s1 with
    lines := s1.lines.filter fun e => e.2.job != some j.id
    inbound := s1.inbound.filter fun m => m.job != j.id
    filters := s1.filters.filter fun f => !f.source.visits j.id }.departed j.id

/-- The identifier that keeps an accumulator Busy, if it is one of a list. -/
def AccSt.heldBy (a : AccSt) (ids : List Nat) : Bool :=
  match a with
  | .busy id _ => ids.contains id
  | _ => false

/-- (R251) The matrix operations of a tile that have not left it, in queue order. -/
def Tile.mxAll (t : Tile) : List MxOp := t.mxq ++ t.mxLate

/-- (R251, R340) The matrix queue takes what a restore has left behind it, as far as its 16 entries go. -/
def Tile.pullMx (t : Tile) : Tile :=
  { t with
    mxq := t.mxq ++ t.mxLate.take (16 - t.mxq.length)
    mxLate := t.mxLate.drop (16 - t.mxq.length) }

/-- The matrix operations that do not satisfy `p` stay. -/
def Tile.dropMx (t : Tile) (p : MxOp → Bool) : Tile :=
  { t with
    mxq := t.mxq.filter fun o => !p o
    mxLate := t.mxLate.filter fun o => !p o }.pullMx

/-- What a failed job has queued in a tile's engines is dropped (log 16). -/
def Tile.purge (t : Tile) (jid : Nat) (here : List Who) : Tile :=
  let gone := (t.mxAll.filter fun o => o.job == some jid).map (·.id)
  { t.dropMx fun o => o.job == some jid with
    accs := t.accs.filter fun (e : Nat × AccSt) => !e.2.heldBy gone
    mxw := t.mxw.filter fun w => !here.contains w.who
    sxq := t.sxq.filter fun o => o.job != some jid
    cpq := t.cpq.filter fun o => o.job != some jid
    rots := t.rots.filter fun e => e.1 != jid
    wpops := t.wpops.filter fun w => !here.contains w.1 }

/-- What a failed job has outstanding and has not sent off is dropped (log 16). -/
def State.purgeJob (s : State) (jid : Nat) (here : List Who) : State :=
  { s with
    tiles := s.tiles.map fun (e : Nat × Tile) => (e.1, e.2.purge jid here)
    evreqs := s.evreqs.filter fun r => r.job != some jid
    msgs := s.msgs.filter fun m => m.job != some jid
    deferred := s.deferred.filter fun d => d.2.1 != jid
    restarts := s.restarts.filter fun r => !here.contains r.1
    ops := s.ops.filter fun o => !(o.job == some jid && (o.st == .waiting || o.st == .cow || o.st == .faulted)) }

/-- (R338, R339, R345, R346, R351) The packets that wait for something of a job that has ended fail. -/
def State.closePackets (s : State) (j : Job) : State :=
  let s1 := (j.pre ++ j.res).foldl (fun (s : State) p => s.journalMove p.1 p.2 3 10 0) s
  let s2 := j.due.foldl (fun (s : State) p =>
    s.journalMove p.1 (p.2.header.setWidth 32) 3 10 0) s1
  let mine := s2.steps.filter fun p => p.job == j.id
  { mine.foldl (fun (s : State) p => s.journalMove p.queue p.seq 3 12 0) s2 with
    steps := s2.steps.filter fun p => p.job != j.id }

/-- (R349) What a failure sends to the other members of the job's phase group. -/
def Job.failNotice (j : Job) : List (Nat × List W64) :=
  if j.group = 0 then [] else [(2, [BitVec.ofNat 64 j.group, BitVec.ofNat 64 j.member])]

/-- (R336) A job fails with a reason: its strands all halt, its staged stores are discarded, its lines are free,
and its entry of the dependence table is Cancelled. A job that has ended already stays as it is. -/
def State.failJob (s : State) (jid : Nat) (reason : BitVec 16) : State :=
  match s.job? jid with
  | none => s
  | some j =>
    match j.st with
    | .completed | .failed => s
    | _ =>
      let here := j.whos.filter fun c => (s.ctx c).job == some jid
      let s1 := here.foldl (fun s c => s.haltCtx c ((s.ctx c).exit.getD 0)) s
      let s2 := s1.journalMove j.queue j.pseq 3 reason (s1.exitWord j)
      let s3 := (((s2.closePackets j).purgeJob jid here).releaseJob j).updJob jid fun x =>
        { x with st := .failed, images := [], pre := [], res := [], due := [] }
      let s4 := { s3 with staged := s3.staged.filter fun g => g.job != jid, peerOut := s3.peerOut ++ j.failNotice }
      match j.entry with
      | some i => s4.depCancel 256 [i]
      | none => s4

/-- (R60, R336) A double fault: the context halts and its job fails, REASON 6. -/
def State.doubleFault (s : State) (c : Who) : State :=
  let s1 := { s.haltCtx c 0 with agenda := dropTasks [c] s.agenda }
  match (s.ctx c).job with
  | some j => s1.failJob j 6
  | none => s1

end Sys2Proof.Machine
end

