-- ==== Sys2Proof/Machine/Operands.lean ====
section
/-! DEFINITION. Operands and results: what a source reads and a bus carries (R29, R34), the queues that a word
pops (R36, R54, R154, R306), what each operation delivers (R43 to R51), and how a result lands (R54, R56, R84). -/

namespace Sys2Proof.Machine

/-! ### What an operation delivers -/

/-- How an operation delivers its record. -/
inductive Delivery where
  /-- none -/
  | none
  /-- a fixed latency to `out`, by the lock bit (R54, R56) -/
  | fixed (l : Nat)
  /-- a divide or remainder, landing within the bound (R108) -/
  | div (bound : Nat)
  /-- queued, to ldq (R48) -/
  | ldq
  /-- queued, to the unit's queue (R55) -/
  | queue
  deriving DecidableEq, Repr

/-- (R43 to R51, R108, R178, R250 to R265, R281 to R284, R293, R298, R308, R310) What each operation delivers. -/
def delivery (i : Instr) : Delivery :=
  match i with
  | .intDiv _ w | .intDivu _ w | .intRem _ w | .intRemu _ w => .div (if w then 22 else 38)
  | .intMul _ _ | .intMulh _ _ | .intMulhu _ => .fixed 3
  | .fpMul _ | .fpFma _ | .fpFms _ | .fpFnma _ => .fixed 4
  | .fpDiv _ | .fpRcp _ => .fixed 12
  | .fpSqrt _ => .fixed 14
  | .localLoad _ _ | .pop => .fixed 5
  | .lea | .pset | .pinc => .fixed 1
  | .ldq _ | .ldqNf _ | .ldF | .ldFNf | .ldS | .ldSNf | .amoAdd _ _ | .amoAnd _ | .amoOr _ | .amoXor _
  | .amoMax _ | .amoMaxu _ | .amoMin _ | .amoMinu _ | .amoSwap _ | .amoCas | .amoFadd | .amoFaddLoose => .ldq
  | .vfma _ _ | .vfms _ _ | .vdot4 _ => .fixed 4
  | .vredadd _ | .vredmax _ | .vredmin _ => .fixed 5
  | .vexp2 _ | .vlog2 _ | .vrcp _ | .vrsqrt _ | .vsqrt _ | .vdiv _ => .fixed 10
  | .sqscale | .sqenc | .sqdec => .fixed 8
  | .sysRd | .sysRdc | .sysFrec => .fixed 2
  | .mrd | .mwait | .msave | .count | .respin | .sdot | .draw | .yinfo | .cpyTry | .await | .cpyStat | .rot | .peek
  | .evtWait | .evtLock | .wpop | .evtPhase | .ptry => .queue
  | .vecVfmt _ => .none
  | i => match portOf i with
    | some (1, _) | some (2, _) => .fixed 1
    | some (3, _) => .fixed 3
    | some (7, _) | some (8, _) => .fixed 3
    | some (9, _) => .fixed 4
    | _ => .none

/-! ### Result queues -/

/-- The queue that a result slot reads: the unit's own, its ldq (16 + unit), or a receive queue (32 + n). -/
def queueOf (u slot : Nat) : Nat :=
  if (u = 5 ∨ u = 6) ∧ slot = 3 then 16 + u else if u = 13 ∧ 3 ≤ slot then 32 + (slot - 3) else u

/-- (R57) Whether a result of a queue is in flight or outstanding. -/
def Bank.pending (b : Bank) (q : Nat) : Bool := b.fly.any (fun r => r.unit == q) || b.outst.any fun o => o.key == q

/-- (R58) Whether a divide or remainder holds a unit. -/
def Bank.divHolds (b : Bank) (u : Nat) : Bool := b.fly.any fun r => r.unit == u && r.div

/-- What a data-locked or receive-queue read finds. -/
inductive ReadState where
  | ready | wait | port
  deriving DecidableEq, Repr

/-- (R54, R56 to R58, R306, R332) How a read of a result slot stands; `qx` are the receive queues outside the job's share. -/
def readState (t : Tile) (k : Nat) (x : Ctx) (qx : BitVec 4) (u slot : Nat) : ReadState :=
  let q := queueOf u slot
  if 32 ≤ q then
    let r := t.rqs.get RQueue.init (q - 32)
    if r.reader ≠ k ∨ qx.getLsbD (q - 32) then .port else if r.entries.isEmpty then .wait else .ready
  else if q = u ∧ !x.locked u then (if x.bank.divHolds u then .wait else .ready)
  else if !(x.bank.queue q).isEmpty then .ready
  else if x.bank.pending q then .wait
  else .port

/-- (R41) A record's slot 0 to 2; a queue port reads `out`. -/
def Rec.slotVal (r : Rec) (slot : Nat) : W512 :=
  if slot = 1 then r.aux else if slot = 2 then r.stat.setWidth 512 else r.out

/-! ### Moves that perform -/

/-- A move slot: its number, guard, source, destination and the slots after it. -/
structure MoveAt where
  slot : Nat
  gd : Guard
  src : Source
  dst : Dest
  value : W64
  deriving DecidableEq, Repr

/-- The move slots of a word that are not empty, in slot order. `value` is that of a long literal (R25). -/
def movesFrom : Nat → List Slot → List MoveAt
  | _, [] => []
  | i, .move gd src dst :: rest => ⟨i, gd, src, dst, longValue rest⟩ :: movesFrom (i + 1) rest
  | i, _ :: rest => movesFrom (i + 1) rest

/-- The move slots of a word. -/
def wordMoves (m : MoveWord) : List MoveAt := movesFrom 0 m.slots

/-- (R24) Whether a guard lets its move perform. -/
def guardHolds (gd : Guard) (x : Ctx) : Bool := x.readF gd.flag.toNat != gd.inv

/-- (R24, R38) The moves of a word that perform. -/
def taken (x : Ctx) (ms : List MoveAt) : List MoveAt := ms.filter fun m => guardHolds m.gd x

/-- The unit and slot of a result-slot source. -/
def MoveAt.res? (m : MoveAt) : Option (Nat × Nat) :=
  match m.src with
  | .res u s => some (u.toNat, s.toNat)
  | _ => none

/-- (R154) The units whose ldq the moves read. -/
def ldqUnits (ms : List MoveAt) : List Nat :=
  ms.filterMap fun m => match m.res? with
    | some (u, s) => if (u = 5 ∨ u = 6) ∧ s = 3 then some u else none
    | none => none

/-- (R306) The receive queue that the lowest-numbered slot reads. -/
def rqLowest (ms : List MoveAt) : Option Nat :=
  (ms.filterMap fun m => match m.res? with
    | some (u, s) => if u = 13 ∧ 3 ≤ s then some (s - 3) else none
    | none => none).head?

/-- (R154, R306) Whether a move's `stat` belongs to the ldq or receive-queue record that its word reads. -/
def statElsewhere (ms : List MoveAt) (u s : Nat) : Bool :=
  s == 2 && ((ldqUnits ms).contains u || (u == 13 && (rqLowest ms).isSome))

/-- (R36, R57) How the reads of the moves `ms` stand, move by move. -/
def readStates (t : Tile) (k : Nat) (x : Ctx) (qx : BitVec 4) (ms : List MoveAt) : List (Nat × ReadState) :=
  ms.map fun m => match m.res? with
    | some (u, s) => (m.slot, if statElsewhere ms u s then .ready else readState t k x qx u s)
    | none => (m.slot, .ready)

/-- (R36, R54) The queues that the moves pop, each once. -/
def popsOf (x : Ctx) (ms : List MoveAt) : List Nat :=
  (ms.filterMap fun m => match m.res? with
    | some (u, s) =>
      let q := queueOf u s
      if q ≠ u ∨ (s = 0 ∧ x.locked u) then some q else none
    | none => none).eraseDups

/-! ### Values on the buses -/

/-- The value of a source and whether it is 512 bits wide (R29, R34, R41). -/
def sourceValue (t : Tile) (x : Ctx) (ms : List MoveAt) (m : MoveAt) : W512 × Bool :=
  match m.src with
  | .g n => ((x.readG n.toNat).setWidth 512, false)
  | .f n => ((if x.readF n.toNat then 1 else 0), false)
  | .a n => ((x.readA n.toNat).setWidth 512, false)
  | .v n => (x.readV n.toNat, true)
  | .imm c => (((BitVec.setWidth 64 c) - 0x400#64).setWidth 512, false)
  | .long => (m.value.setWidth 512, false)
  | .res u s =>
    let u := u.toNat
    let s := s.toNat
    let wide := slotWidth u s == some 512
    let q := queueOf u s
    let v : W512 :=
      if 32 ≤ q then (match (t.rqs.get RQueue.init (q - 32)).entries with
        | e :: _ => e.1
        | [] => 0)
      else if s = 2 ∧ (ldqUnits ms).contains u then ((x.bank.queue (16 + u)).headD Rec.zero).stat.setWidth 512
      else if s = 2 ∧ u = 13 ∧ (rqLowest ms).isSome then
        (match (t.rqs.get RQueue.init ((rqLowest ms).getD 0)).entries with
          | e :: _ => e.2.setWidth 512
          | [] => 0)
      else if q = u ∧ !x.locked u then (x.bank.slot u).slotVal s
      else ((x.bank.queue q).headD Rec.zero).slotVal s
    (v, wide)

/-- (R42) Whether a destination is 512 bits wide. -/
def destWide : Dest → Bool
  | .v _ => true
  | .port u p => portWidth u.toNat p.toNat == 512
  | _ => false

/-- (R34) From a source over the slot's bus to the destination: the value as a 512-bit destination takes it, or in
bits [63:0] for a 64-bit one. -/
def busValue (slot : Nat) (v : W512) (wideSrc wideDst : Bool) : W512 :=
  let onBus : W512 := if 4 ≤ slot then (if wideSrc then v else lanes (lo64 v)) else (lo64 v).setWidth 512
  if wideDst then (if 4 ≤ slot then onBus else lanes (lo64 onBus)) else (lo64 onBus).setWidth 512

/-- (R34, R36) The value that a move carries to its destination. -/
def moveValue (t : Tile) (x : Ctx) (ms : List MoveAt) (m : MoveAt) : W512 :=
  let sv := sourceValue t x ms m
  busValue m.slot sv.1 sv.2 (destWide m.dst)

/-- (R30, R36) A register, flag or operand port written; a trigger port writes nothing. -/
def Ctx.writeDest (x : Ctx) (d : Dest) (v : W512) : Ctx :=
  match d with
  | .g n => x.writeG n.toNat (lo64 v)
  | .f n => x.writeF n.toNat (v.getLsbD 0)
  | .a n => x.writeA n.toNat (lo64 v)
  | .v n => x.writeV n.toNat v
  | .port u p => if p.toNat < 3 then x.updBank fun b => b.setPort u.toNat p.toNat v else x

/-! ### Landing -/

/-- (R84) Flags f8 to f15, a pointer, a walk descriptor and FFLAGS written at a landing. -/
def Ctx.applyEffects (x : Ctx) (e : Effects) : Ctx :=
  let x1 := match e.flags with
    | some b => { x with f := (b ++ x.f.extractLsb' 0 8 : BitVec 16) }
    | none => x
  let x2 := match e.ptr with
    | some (n, v) => x1.writeA n v
    | none => x1
  let x3 := match e.wd with
    | some (n, v) => { x2 with wd := x2.wd.set n v }
    | none => x2
  { x3 with fflags := x3.fflags ||| e.ff }

/-- (R54, R56, R63, R84) A result lands: into the queue of a data-locked unit, or into `out`, `aux` and `stat` of a
free-running one, whose read mark it clears. -/
def Ctx.land (x : Ctx) (r : InFlight) : Ctx :=
  let b := { x.bank with fly := x.bank.fly.filter fun y => y.id != r.id }
  let b' := if x.locked r.unit then b.setQueue r.unit (b.queue r.unit ++ [r.res])
    else { b with slots := b.slots.set r.unit r.res, marks := setBit b.marks r.unit false }
  ({ x with bank := b' }).applyEffects r.eff

/-- (R54, R56, R108) Whether a result's count runs in a cycle: tile cycles for a data-locked unit and for divides,
the context's own cycles for a free-running unit. -/
def InFlight.runs (r : InFlight) (x : Ctx) (tileCycle : Bool) : Bool := (r.div || x.locked r.unit) == tileCycle

/-- (R54, R56) The counts of a cycle run down. -/
def Ctx.tick (x : Ctx) (tileCycle : Bool) : Ctx :=
  x.updBank fun b => { b with fly := updWhere (fun r => r.runs x tileCycle) (fun r => { r with left := r.left - 1 }) b.fly }

/-- (R54, R56) The results whose counts have reached zero in a cycle, in trigger order. -/
def Ctx.due (x : Ctx) (tileCycle : Bool) : List InFlight :=
  x.bank.fly.filter fun r => r.runs x tileCycle && r.left == 0

/-- (R56) The context as a word sees it that issues in its next context cycle: with that cycle's landings made. -/
def Ctx.trial (x : Ctx) : Ctx :=
  if x.same then x else ((x.tick false).due false).foldl Ctx.land (x.tick false)

/-- (R48, R55) The landed records at the head of an ordered queue move into it. -/
def Bank.flush (b : Bank) (key : Nat) : List Outst → Bank
  | [] => { b with outst := [] }
  | o :: os =>
    if o.key = key then
      match o.res with
      | some r => (b.setQueue key (b.queue key ++ [r])).flush key os
      | none => { b with outst := o :: os }
    else
      let b' := b.flush key os
      { b' with outst := o :: b'.outst }

/-- (R48, R54, R55) A queued record lands: into its place in trigger order for ldq, mxu and sxu, at the tail
for cpy, net and evt. A record that the bank does not expect is discarded. -/
def Bank.landRec (b : Bank) (key id : Nat) (r : Rec) : Bank :=
  if b.outst.any fun o => o.key == key && o.id == id then
    if key = 12 ∨ key = 13 ∨ key = 14 then
      let b' := { b with outst := b.outst.filter fun o => !(o.key == key && o.id == id) }
      b'.setQueue key (b'.queue key ++ [r])
    else
      let os := updWhere (fun (o : Outst) => o.key == key && o.id == id) (fun o => { o with res := some r }) b.outst
      b.flush key os
  else b

/-- (R55, R104) A record that is no longer to land: the records behind it that have landed move up. -/
def Bank.dropOutst (b : Bank) (key id : Nat) : Bank :=
  b.flush key (b.outst.filter fun q => !(q.key == key && q.id == id))

/-- (R60) A queued record lands in the context's bank, or in its trap shadow. -/
def Ctx.landRec (x : Ctx) (key id : Nat) (r : Rec) : Ctx :=
  let x1 := x.updBank fun b => b.landRec key id r
  match x1.shadow with
  | some sh => { x1 with shadow := some { sh with bank := sh.bank.landRec key id r } }
  | none => x1

/-- (R60) Whether a context still expects a record. -/
def Ctx.expects (x : Ctx) (key id : Nat) : Bool :=
  (x.bank.outst.any fun o => o.key == key && o.id == id) ||
    (match x.shadow with
      | some sh => sh.bank.outst.any fun o => o.key == key && o.id == id
      | none => false)

/-- (R103) The latency map: per unit the smallest count in flight, at most 15; divides never appear. -/
def Bank.latencyMap (b : Bank) : W64 :=
  (List.range 16).foldl (fun m u =>
    let ls := (b.fly.filter fun r => r.unit == u && !r.div).map fun r => max 1 (min r.left 15)
    match ls with
    | [] => m
    | l :: ls => m ||| (BitVec.ofNat 64 (ls.foldl min l) <<< (4 * u))) 0

/-- (R54) The results of a fixed-latency unit, in flight and queued together. -/
def Bank.held (b : Bank) (u : Nat) : Nat := (b.fly.filter fun r => r.unit == u).length + (b.queue u).length

/-- (R55) The records of an engine's queue outstanding: to land, or landed and unread. -/
def Bank.records (b : Bank) (key : Nat) : Nat := (b.outst.filter fun o => o.key == key).length + (b.queue key).length

/-- (R59) A unit's mode changes. DESIGN CHOICE (log 26): where a unit becomes free-running with no record queued, its result
slots read zero until the next landing, since their values were discarded when it became data-locked. -/
def Bank.setMode (b : Bank) (u : Nat) (old new : Bool) : Bank :=
  if old && !new then
    match (b.queue u).getLast? with
    | some r => { b.setQueue u [] with slots := b.slots.set u r, marks := setBit b.marks u false }
    | none => b
  else if !old && new then
    { b.setQueue u [] with slots := b.slots.set u Rec.zero, marks := setBit b.marks u true }
  else b

/-- (R59, R95) LOCKMASK written. -/
def Ctx.setLock (x : Ctx) (m : BitVec 16) : Ctx :=
  { x with
    bank := (List.range 16).foldl (fun b u => b.setMode u (x.lock.getLsbD u) (m.getLsbD u)) x.bank, lock := m }

end Sys2Proof.Machine
end

