-- ==== Sys2Proof/Machine/Ops.lean ====
section
/-! DEFINITION. The shared operations of the machine: starting a result, the sequence of words, taking a fault
(R60, R100 to R103, R353), returning from one (R104, R354), and storing to memory with what a store touches
(R190, R357, R361). -/

namespace Sys2Proof.Machine

/-! ### The trigger that starts -/

/-- The context whose trigger starts. -/
def State.who (s : State) : Who := s.trig.who

/-- Its state. -/
def State.self (s : State) : Ctx := s.ctx s.trig.who

/-- Its state changed. -/
def State.updSelf (s : State) (f : Ctx → Ctx) : State := s.updCtx s.trig.who f

/-- Its tile. -/
def State.selfTile (s : State) : Tile := s.tile s.trig.who.tile

/-- Its tile changed. -/
def State.updSelfTile (s : State) (f : Tile → Tile) : State := s.updTile s.trig.who.tile f

/-- (R42) The trigger operand, 512 bits. -/
def State.opT (s : State) : W512 := s.trig.t

/-- (R42) The trigger operand, 64 bits. -/
def State.opT64 (s : State) : W64 := lo64 s.trig.t

/-- (R40) Operand port `p` (0 to 2) of unit `u`. -/
def State.opPort (s : State) (u p : Nat) : W512 := s.self.bank.port u p

/-- (R40) Lanes [63:0] of an operand port. -/
def State.opPort64 (s : State) (u p : Nat) : W64 := lo64 (s.opPort u p)

/-! ### Starting results -/

/-- (R37) The largest count that runs for a result of fixed latency of a word and unit. -/
def Bank.slowest (b : Bank) (u : Nat) (cyc : W64) : Nat :=
  ((b.fly.filter fun r => r.unit == u && r.cyc == cyc && !r.div).map (·.left)).foldl max 0

/-- (R37, R108) The divides of the same word and unit, whose time is not architected, land no later than a result of a later
slot. -/
def Bank.hurry (b : Bank) (u : Nat) (cyc : W64) (left : Nat) : Bank :=
  { b with
    fly := updWhere (fun r => r.unit == u && r.cyc == cyc && r.div) (fun r => { r with left := min r.left left }) b.fly }

/-- (R37, R54, R56) A result starts in a unit. DEDUCED (log 26): the results of a word land in slot order (R37), so one whose
latency is shorter than that of an earlier slot of its word lands with that one. -/
def Bank.start (b : Bank) (r : InFlight) : Bank :=
  let left := max r.left (b.slowest r.unit r.cyc)
  let b' := b.hurry r.unit r.cyc left
  { b' with fly := b'.fly ++ [{ r with left := left }] }

/-- (R37, R54, R56) A result of fixed latency starts. -/
def State.startFixed (s : State) (u lat : Nat) (r : Rec) (e : Effects) : State :=
  (s.updSelf fun x => x.updBank fun b =>
    b.start { unit := u, id := s.fresh, left := lat, cyc := x.curCyc, div := false, res := r, eff := e }).takeId

/-- (R58, R108) A divide or remainder starts; it lands within its bound. DESIGN CHOICE (log 26): where `sched` names no
DIVIDE_LANDING, it lands when its bound runs out. -/
def State.startDiv (s : State) (u bound : Nat) (r : Rec) : State :=
  (s.updSelf fun x => x.updBank fun b =>
    b.start { unit := u, id := s.fresh, left := bound, cyc := x.curCyc, div := true, res := r, eff := Effects.none }).takeId

/-- (R48, R55) A queued record takes its place; its identifier is the next one, which stays to be taken. -/
def State.expectRec (s : State) (key : Nat) : State :=
  s.updSelf fun x => x.updBank fun b => { b with outst := b.outst ++ [{ key := key, id := s.fresh, res := none }] }

/-- (R48, R55, R60) A queued record lands. -/
def State.landRec (s : State) (c : Who) (key id : Nat) (r : Rec) : State := s.updCtx c fun x => x.landRec key id r

/-- A record with 64-bit `out`. -/
def rec64 (v : W64) : Rec := { out := v.setWidth 512, aux := 0, stat := 0 }

/-! ### Codes -/

/-- (R355) The number of a fault code. -/
def Flt.num : Flt → Nat
  | .xword => 0x01 | .regbound => 0x02 | .port => 0x03 | .latency => 0x04 | .stack => 0x05 | .align => 0x06
  | .noncanon => 0x07 | .transl => 0x08 | .perm => 0x09 | .cow => 0x0A | .tilemap => 0x0B | .owner => 0x0C
  | .dyelot => 0x0D | .yarnlen => 0x0E | .amoApplied => 0x0F | .poison => 0x10 | .checksum => 0x11 | .trail => 0x12
  | .selflock => 0x13 | .swtrap => 0x14 | .link => 0x15 | .engine => 0x16 | .priv => 0x17 | .nonlocal => 0x18
  | .brk => 0x19

/-- (R355) The code of a number. -/
def Flt.ofNum (n : Nat) : Option Flt :=
  [Flt.xword, .regbound, .port, .latency, .stack, .align, .noncanon, .transl, .perm, .cow, .tilemap, .owner, .dyelot, .yarnlen,
   .amoApplied, .poison, .checksum, .trail, .selflock, .swtrap, .link, .engine, .priv, .nonlocal, .brk].find? fun c => c.num == n

/-- (R354) The record that a resumed or skipped queued operation delivers. -/
def codeRec (c : Flt) : Rec := { out := 0, aux := 0, stat := BitVec.ofNat 64 c.num }

/-- Whether a tile's selector has still to decide in the present tile cycle. -/
def State.unselected (s : State) (tile : Nat) : Bool := !s.worked || s.agenda.contains (.select tile)

/-! ### The end of a word -/

/-- (R70, R97) A register file's allotment changed: names that are added or released read zero. -/
def Ctx.setGcount (x : Ctx) (n : Nat) : Ctx :=
  { x with g := x.g.filter fun (e : Nat × W64) => e.1 < min n x.gcount, gcount := n }

/-- (R70, R97) As `setGcount`, for vector registers. -/
def Ctx.setVcount (x : Ctx) (n : Nat) : Ctx :=
  { x with v := x.v.filter fun (e : Nat × W512) => e.1 < min n x.vcount, vcount := n }

/-- (R101, R103, R121, R123) A system register written; reserved bits ignore writes. -/
def Ctx.writeSys (x : Ctx) (reg : Nat) (v : W64) : Ctx :=
  match reg with
  | 0x010 => { x with frm := v.setWidth 2 }
  | 0x011 => { x with fflags := v.setWidth 5 }
  | 0x012 => { x with trapbase := v.setWidth 13 }
  | 0x013 => { x with slim := v.setWidth 48 }
  | 0x01A => { x with frec2 := v }
  | 0x01B => { x with frec3 := v }
  | _ => x

/-- (R59, R94 to R97, R121) A write that takes effect after its word. -/
def Ctx.applyLate (x : Ctx) : LateWrite → Ctx
  | .lock m => x.setLock m
  | .check b => { x with check := b }
  | .prio l => { x with prio := l }
  | .gcount n => x.setGcount n
  | .vcount n => x.setVcount n
  | .sys r v => x.writeSys r v

/-- The writes of the present word that take effect after it. -/
def Ctx.applyLater (x : Ctx) : Ctx := { x.later.foldl Ctx.applyLate x with later := [] }

/-- (R65, R88 to R90) Where the stream goes after word `x.curWord`: the next word, a loop's start, a loop started
by this word, or a due transfer's target. A due transfer with a bad target stays, with no words left (R66). DESIGN CHOICE
(log 26): a `ctl.loop` with P = 0 in the first delay word of a transfer goes on at W + N + 1 (R88), which is then the
second delay word; a loop that a delay word starts stays active after the target. -/
def Ctx.sequence (x : Ctx) : Ctx :=
  let fresh := x.xfer.any fun t => t.left == 3
  let xs := x.xfer.map fun t => { t with left := t.left - 1 }
  let (l1, n1) : LoopSt × Nat :=
    if x.loop.active ∧ x.curWord = x.loop.stop then
      if 1 < x.loop.left then ({ x.loop with left := x.loop.left - 1 }, x.loop.start)
      else (LoopSt.init, x.loop.stop + 1)
    else (x.loop, x.curWord + 1)
  let (l2, n2) : LoopSt × Nat :=
    match x.loopReq with
    | some (w, n, p) =>
      if fresh then (x.loop, x.curWord + 1)
      else if p = 0 then (LoopSt.init, w + n + 1)
      else ({ start := w + 1, stop := w + n, left := p, active := true }, w + 1)
    | none => (l1, n1)
  match xs.find? fun t => t.left == 0 with
  | some d =>
    if d.target.toNat < 8192 then
      { x with xfer := xs.filter fun t => t.left != 0, loop := l2, loopReq := none, pc := d.target.toNat }
    else { x with xfer := xs, loop := l2, loopReq := none, pc := x.curWord + 1 }
  | none => { x with xfer := xs, loop := l2, loopReq := none, pc := n2 }

/-- (R68, R89) The loop buffer where a context's loop starts or is restored: pinned if free, released where no loop is
active. -/
def Tile.pinLoop (t : Tile) (k : Nat) (active : Bool) : Tile :=
  if active then (if t.loopBuf.isNone then { t with loopBuf := some k } else t) else t.freeLoop k

/-- (R68) The loop buffer after a word: only a word with a `ctl.loop` pins it; the end of the loop releases it. -/
def Tile.keepLoop (t : Tile) (k : Nat) (starts active : Bool) : Tile :=
  if starts || !active then t.pinLoop k active else t

/-! ### Taking a fault -/

/-- A fault as decode or a trigger raises it. Without `f1`, FREC1 is found by R103. -/
structure FaultAt where
  code : Flt
  info : BitVec 16
  f1 : Option W64
  deriving DecidableEq, Repr

/-- A fault whose own rule names FREC1. -/
def FaultAt.at (c : Flt) (v : W64) : FaultAt := { code := c, info := 0, f1 := some v }

/-- (R355, R356) FLT_ENGINE with an INFO value; FREC1 holds the pointer or operand. -/
def FaultAt.engine (i : Nat) (v : W64) : FaultAt := { code := .engine, info := BitVec.ofNat 16 i, f1 := some v }

/-- (R103, R355) A fault whose row of R355 gives no FREC1: it holds lanes [63:0] of the unit's o1. -/
def FaultAt.plain (c : Flt) (info : Nat) : FaultAt := { code := c, info := BitVec.ofNat 16 info, f1 := none }

/-- What trap entry records and where the return goes on. -/
structure TrapRec where
  code : Flt
  info : BitVec 16
  f1 : W64
  f2 : W64
  level : Bool
  queued : Bool
  word : Nat
  slot : Nat
  ret : RetKind
  /-- the strikes on the bank (R358) -/
  parity : List SoftErr := []
  deriving DecidableEq, Repr

/-- (R102) FREC0. -/
def TrapRec.frec0 (t : TrapRec) (delay : Bool) : W64 :=
  BitVec.ofNat 64 (t.word % 8192 * 2 ^ 32 + t.info.toNat * 2 ^ 16 + (if t.queued then 2 ^ 13 else 0)
    + (if delay then 2 ^ 12 else 0) + (if t.level then 2 ^ 11 else 0) + t.slot % 8 * 2 ^ 8 + t.code.num)

/-- (R60, R89, R100 to R103) Trap entry of a context: bank, LOCKMASK, loop and transfers move into the trap shadow,
FREC0 to FREC3 are written, LOCKMASK is set, and the next word is TRAPBASE.ENTRY. -/
def Ctx.trapEntry (x : Ctx) (t : TrapRec) : Ctx :=
  { x with
    frec0 := t.frec0 (!x.xfer.isEmpty), frec1 := t.f1, frec2 := t.f2, frec3 := x.bank.latencyMap
    shadow := some { bank := x.bank, lock := x.lock, loop := x.loop, xfer := x.xfer, pc := x.pc, word := x.curWord,
                     sc := x.curSc, cyc := x.curCyc, same := x.same, stalled := x.stalled, stall := x.stall, idle := x.idle
                     loopReq := x.loopReq, halting := x.halting, draining := x.block.contains .drain, cont := x.cont
                     parity := t.parity, ret := t.ret }
    bank := Bank.init, lock := 0xFFFF, loop := LoopSt.init, xfer := [], pc := x.trapbase.toNat, stall := 0,
    stalled := false, idle := 0, loopReq := none, halting := none, rfeReq := none, cont := [], block := x.block.filter (· != .drain),
    same := false, sameTile := false }

/-- (R60, R100) A fault is taken: trap entry, or a double fault while the trap shadow is occupied. The late
writes of the word take effect first, and a hold on the loop buffer is released. A strike on the bank goes with it (R358). -/
def State.enterTrap (s : State) (c : Who) (t : TrapRec) : State :=
  let x := (s.ctx c).applyLater
  match x.shadow with
  | some _ => (s.setCtx c x).doubleFault c
  | none =>
    { (s.setCtx c (x.trapEntry { t with parity := s.parity.filter (bankStrike c) })).updTile c.tile fun y => y.freeLoop c.ctx with
      parity := s.parity.filter fun e => !bankStrike c e }

/-- Whether a task belongs to the word of context `c` whose triggers are starting. -/
def Task.inWord (c : Who) : Task → Bool
  | .run tr i => tr.who == c && (portOf i).isSome
  | .fault tr _ _ _ _ => tr.who == c
  | _ => false

/-- The triggers of a word left on the agenda. -/
def wordRest (c : Who) (l : List Task) : List Task := l.takeWhile (Task.inWord c)

/-- The agenda after a word is cut short: without its triggers and its end. -/
def afterWord (c : Who) (l : List Task) : List Task :=
  match l.dropWhile (Task.inWord c) with
  | .wordEnd d :: rest => if d = c then rest else .wordEnd d :: rest
  | .cont d :: rest => if d = c then rest else .cont d :: rest
  | rest => rest

/-- The slot of a trigger's task. -/
def Task.slot : Task → Nat
  | .run tr _ | .fault tr _ _ _ _ => tr.slot
  | _ => 0

/-- The unit of a trigger's task. -/
def Task.unit : Task → Nat
  | .run _ i | .fault _ i _ _ _ => match portOf i with
    | some (u, _) => u
    | none => 0
  | _ => 0

/-- The triggers of a context's word that have still to start: those on the agenda, then those that wait. -/
def State.restOf (s : State) (c : Who) : List Task := wordRest c s.agenda ++ (s.ctx c).cont

/-- Whether a task is a memb trigger put off to its place in the tile's order (R117). -/
def Task.isLate : Task → Bool
  | .run tr _ => tr.late
  | _ => false

/-- (R103) A trigger's unit. -/
def unitOf (i : Instr) : Nat :=
  match portOf i with
  | some (u, _) => u
  | none => 0

/-- (R39, R103) Trap entry of a trigger fault, the word's later triggers unstarted. -/
def State.faultNow (s : State) (tr : Trig) (i : Instr) (f : FaultAt) : State :=
  let c := tr.who
  let rest := s.restOf c
  let f1 := f.f1.getD (lo64 ((s.ctx c).bank.port (unitOf i) 0))
  let ret := if f.code = .swtrap ∨ f.code = .brk then RetKind.soft tr i rest else RetKind.trigger tr i rest
  ({ s with agenda := afterWord c s.agenda }.updCtx c fun x => { x with cont := [] }).enterTrap c
    { code := f.code, info := f.info, f1 := f1, f2 := lo64 tr.t, level := true, queued := false,
      word := tr.word, slot := tr.slot, ret := ret }

/-- (R39) The fault of a trigger: at once, or behind the triggers of earlier slots that wait. -/
def State.faultInTurn (s : State) (tr : Trig) (i : Instr) (f : FaultAt) : State :=
  let c := tr.who
  if (s.ctx c).cont.any fun k => k.slot < tr.slot then
    { s with agenda := s.agenda.dropWhile (Task.inWord c) }.updCtx c fun x =>
      { x with cont := x.cont ++ Task.fault tr i f.code f.info f.f1 :: wordRest c s.agenda }
  else s.faultNow tr i f

/-- (R39, R103) The trigger that starts faults: neither it nor a later trigger of the word starts. Triggers of
earlier slots that stand later in the tile's order (R117) are performed first. -/
def State.faultTrigger (s : State) (i : Instr) (f : FaultAt) : State :=
  let rest := wordRest s.trig.who s.agenda
  let lates := rest.filter Task.isLate
  if lates.isEmpty then s.faultInTurn s.trig i f
  else
    { s with
      agenda := lates ++ .fault s.trig i f.code f.info f.f1 :: rest.filter (fun k => !k.isLate)
        ++ s.agenda.dropWhile (Task.inWord s.trig.who) }

/-- (R35, R103) A word faults at decode: none of its moves performs. DESIGN CHOICE (log 26): no trigger has faulted, so FREC2
is 0, as R385 has it for a fault from XH or KIND. -/
def State.faultDecode (s : State) (c : Who) (slot : Nat) (code : Flt) (f1 : W64) : State :=
  s.enterTrap c { code := code, info := 0, f1 := f1, f2 := 0, level := false, queued := false,
                  word := (s.ctx c).pc, slot := slot, ret := .decode }

/-- (R66) A bad transfer target: FLT_XWORD in place of issuing the target. -/
def State.faultTarget (s : State) (c : Who) (d : Transfer) : State :=
  (s.updCtx c fun x => { x with xfer := x.xfer.erase d }).enterTrap c
    { code := .xword, info := 0, f1 := d.target, f2 := d.t, level := false, queued := false, word := d.word,
      slot := d.slot, ret := .target d }

/-- (R353) The pending fault that the next word boundary delivers: outside a handler the first in trigger order,
inside a handler only one of the handler's own operations. -/
def Ctx.deliverable (x : Ctx) : Option PendFault :=
  match x.shadow with
  | none => x.faults.head?
  | some _ => x.faults.find? fun p => p.dbl

/-- (R353) A fault after start is delivered. -/
def State.deliverLate (s : State) (c : Who) : State :=
  match (s.ctx c).deliverable with
  | none => s
  | some p =>
    (s.updCtx c fun x => { x with faults := x.faults.erase p }).enterTrap c
      { code := p.code, info := p.info, f1 := p.f1, f2 := p.f2, level := true, queued := true, word := p.word,
        slot := p.slot, ret := .late p }

/-- Pending faults in trigger order. -/
def insertFault (p : PendFault) : List PendFault → List PendFault
  | [] => [p]
  | q :: qs => if p.rank < q.rank then p :: q :: qs else q :: insertFault p qs

/-- (R92, R353) Whether a context still takes the faults of an operation of job `j`. -/
def State.takesFaults (s : State) (c : Who) (j : Option Nat) : Bool :=
  (s.ctx c).exit.isNone && (s.ctx c).job == j

/-- (R338, R350) Whether a job stands in its save area. -/
def State.savedJob (s : State) (j : Nat) : Bool :=
  match s.job? j with
  | some k => k.st == .preempted || k.st == .resuming
  | none => false

/-- (R350, R353) A fault after start is raised; that of a saved job's context waits for its resume, those of a halted context are
discarded. -/
def State.raiseLate (s : State) (c : Who) (j : Option Nat) (p : PendFault) : State :=
  if s.takesFaults c j then s.updCtx c fun x => { x with faults := insertFault p x.faults }
  else match j with
    | some k => if s.savedJob k then { s with deferred := s.deferred ++ [(c, k, p)] } else s
    | none => s

/-! ### The return from a fault -/

/-- (R104) The record of a resumed trigger fault: out := FREC3, landing at the operation's latency. -/
def State.resumeRec (s : State) (tr : Trig) (i : Instr) (t3 : W64) : State :=
  let s1 := { s with trig := tr }
  let r := rec64 t3
  let u := unitOf i
  match delivery i with
  | .none => s
  | .fixed l => s1.startFixed u l r Effects.none
  | .div b => s1.startDiv u b r
  | .ldq => ((s1.expectRec (16 + u)).landRec tr.who (16 + u) s.fresh r).takeId
  | .queue => ((s1.expectRec u).landRec tr.who u s.fresh r).takeId

/-- (R104) A faulting trigger that starts again, with T := FREC2 in lanes [63:0]. -/
def retryTask (tr : Trig) (i : Instr) (t : W64) : Task :=
  let v : W512 := (tr.t &&& ~~~(0xFFFFFFFFFFFFFFFF#512)) ||| t.setWidth 512
  let i' := match portOf i with
    | some (u, p) => (opOf u p v).getD i
    | none => i
  .run { tr with t := v } i'

/-- (R104, R323, R354) What a return does with the operation of a fault after start; `t` and `t3` are FREC2 and FREC3. -/
def State.settleLate (s : State) (c : Who) (p : PendFault) (mode : Nat) (t t3 : W64) : State :=
  let again := { s with restarts := s.restarts ++ [(c, p.op, t)] }
  match p.op with
  | .applied o => { s.landRec c (16 + o.unit) o.id (codeRec .amoApplied) with ops := s.ops.filter fun q => q.id != o.id }
  | .mem o =>
    if mode = 1 then again
    else { s.landRec c (16 + o.unit) o.id (codeRec p.code) with ops := s.ops.filter fun q => q.id != o.id }
  | .sdot o =>
    if mode = 1 then again
    else if mode = 0 then s.landRec c 11 o.id (rec64 t3)
    else s.updCtx c fun x => x.updBank fun b => b.dropOutst 11 o.id
  | .event r =>
    if mode = 1 then again else if r.kind.blocks then s.landRec c 14 r.rid (codeRec p.code) else s
  | .rot _ _ rid =>
    if mode = 1 then again
    else if mode = 0 then s.landRec c 13 rid (rec64 t3)
    else s.updCtx c fun x => x.updBank fun b => b.dropOutst 13 rid
  | .copy o => if mode = 1 then s.updCtx c fun x => { x with block := x.block ++ [.copy { o with t := t }] } else s
  | .msg o => if mode = 1 then again else { s with msgs := s.msgs.filter fun m => m.id != o.id }
  | .mx _ => if mode = 1 then again else s

/-- (R353) Once the handler has returned, its outstanding operations count as the stream's. -/
def State.clearDbl (s : State) (c : Who) : State :=
  { s with
    ops := updWhere (fun o => o.who == c) (fun o => { o with dbl := false }) s.ops
    evreqs := updWhere (fun r => r.who == c) (fun r => { r with dbl := false }) s.evreqs
    msgs := updWhere (fun o => o.who == c) (fun o => { o with dbl := false }) s.msgs }.updTile c.tile fun t =>
      { t with
        mxq := updWhere (fun o => o.who == c) (fun o => { o with dbl := false }) t.mxq
        mxLate := updWhere (fun o => o.who == c) (fun o => { o with dbl := false }) t.mxLate
        sxq := updWhere (fun o => o.who == c) (fun o => { o with dbl := false }) t.sxq
        cpq := updWhere (fun o => o.who == c) (fun o => { o with dbl := false }) t.cpq
        rots := updWhere (fun e => e.2.1.who == c) (fun e => (e.1, { e.2.1 with again := false }, e.2.2)) t.rots }

/-- (R104) What the trap shadow held, restored; the handler's bank is discarded. DESIGN CHOICE (log 26): the stall count, the
`ctl.idle`, transfers and loops of the word that holds `ctl.rfe` are dropped with the handler. -/
def Ctx.unshadow (x : Ctx) (sh : Shadow) : Ctx :=
  { x with
    dirty := setBit x.dirty 34 true, bank := sh.bank, lock := sh.lock, loop := sh.loop, xfer := sh.xfer, pc := sh.pc, curWord := sh.word,
    curSc := sh.sc, curCyc := sh.cyc, same := sh.same, stalled := sh.stalled, idle := sh.idle, loopReq := sh.loopReq, halting := sh.halting, rfeReq := none,
    cont := sh.cont, shadow := none,
    block := if sh.draining then [.drain] else [],
    later := [], stall := sh.stall, faults := x.faults.map fun p => { p with dbl := false } }

/-- (R104) The next word issues in the context cycle of the faulting word. -/
def Ctx.atSame (x : Ctx) : Ctx := { x with same := true, sameTile := true }

/-- (R104) The return from a bad transfer target `d` with retry: the transfer taken again with T := FREC2, `t`. -/
def Ctx.retarget (x : Ctx) (d : Transfer) (t : W64) : Ctx :=
  let target := if d.port = 4 ∨ d.port = 6 then BitVec.ofNat 64 d.word + t else t
  let y := if d.port = 5 ∨ d.port = 6 then x.writeG 1 (BitVec.ofNat 64 (d.word + 3)) else x
  if target.toNat < 8192 then { y with pc := target.toNat }
  else { y with xfer := { d with target := target, t := t } :: y.xfer }

/-- The triggers that a return starts stand first among those that wait, and go on. -/
def State.startAgain (s : State) (c : Who) (l : List Task) : State :=
  { s.updCtx c fun x => { x with cont := l ++ x.cont } with agenda := .cont c :: s.agenda }

/-- (R104, R354) The return from a fault at the end of the handler's last word, `mode` 0 resume, 1 retry, 2 skip; `t` and
`t3` are FREC2 and FREC3. -/
def State.returnFrom (s : State) (c : Who) (mode : Nat) (t t3 : W64) : State :=
  let x := s.ctx c
  match x.shadow with
  | none => s
  | some sh =>
    let y := x.unshadow sh
    let s1 := { (s.setCtx c y).clearDbl c with parity := (s.parity.filter fun e => !bankStrike c e) ++ sh.parity }
    let s2 := s1.updTile c.tile fun t => t.pinLoop c.ctx y.loop.active
    match sh.ret with
    | .decode =>
      if mode = 1 then s2.updCtx c Ctx.atSame
      else
        let z := { y with curWord := y.pc }.sequence
        (s2.setCtx c { z.atSame with stalled := false }).updTile c.tile fun t => t.keepLoop c.ctx false z.loop.active
    | .target d =>
      if mode = 1 then s2.updCtx c fun z => (z.retarget d t).atSame
      else s2.updCtx c fun z => { z with pc := d.word + 3 }.atSame
    | .trigger tr i rest =>
      let s3 := if mode = 0 then s2.resumeRec tr i t3 else s2
      s3.startAgain c ((if mode = 1 then [retryTask tr i t] else []) ++ rest)
    | .soft tr i rest => s2.startAgain c ((if mode = 1 then [.run tr i] else []) ++ rest)
    | .late p => (s2.updCtx c fun z => { z with sameTile := true }).settleLate c p mode t t3

/-- (R28, R36, R90, R92, R104) A word ends: its late writes take effect, it halts the context, it returns from a fault, or
the stream goes on and the stall count starts. -/
def State.endWord (s : State) (c : Who) : State :=
  let x := (s.ctx c).applyLater
  match x.halting with
  | some e => (s.setCtx c x).haltCtx c e
  | none => match x.rfeReq with
    | some (mode, t, t3) => (s.setCtx c x).returnFrom c mode t t3
    | none =>
      let y := { x.sequence with stall := x.curSc }
      (s.setCtx c y).updTile c.tile fun t => t.keepLoop c.ctx x.loopReq.isSome y.loop.active

/-- The end of a word, once none of its triggers waits. -/
def State.finishWord (s : State) (c : Who) : State := if (s.ctx c).cont.isEmpty then s.endWord c else s

/-! ### Storing to memory -/

/-- (R16) The storage location of offset `o` of a tile. -/
def sramLoc (t o : Nat) : Nat := 2 ^ 20 * t + o

/-- (R16) Whether a location is SRAM. -/
def isSram (loc : Nat) : Bool := loc < 2 ^ 40

/-- (R190) A comparator's token. -/
def Comparator.token (k : Comparator) (n off : Nat) : W64 :=
  BitVec.ofNat 64 (k.tag.toNat * 2 ^ 24 + n * 2 ^ 20 + (off - k.shift))

/-- The place of the next pending token of a tile. -/
def Tile.nextPend (t : Tile) : Nat :=
  t.cmps.foldl (fun n (e : Nat × Comparator) => match e.2.pending with
    | some p => max n (p.1 + 1)
    | none => n) 0

/-- (R190) A write to offsets [o, o + n) fires comparator `i` if it is armed and the ranges meet: a token enters the
wake queue or pends, and the comparator is disarmed. -/
def Tile.fireOne (t : Tile) (o n i : Nat) : Tile :=
  let k := t.cmps.get Comparator.init i
  if k.armed ∧ o < k.base + k.len ∧ k.base < o + n then
    let tok := k.token i (max o k.base)
    if k.pending.isSome then t.setCmp i { k with armed := false }
    else if t.wakeq.length < 16 then
      ({ t with wakeq := t.wakeq ++ [tok] } : Tile).setCmp i { k with armed := false }
    else t.setCmp i { k with armed := false, pending := some (t.nextPend, tok) }
  else t

/-- (R190) The comparators that a write to offsets [o, o + n) fires. DESIGN CHOICE (log 17): the tokens of one write enter by ascending
comparator number. -/
def Tile.fire (t : Tile) (o n : Nat) : Tile := (List.range 8).foldl (fun t i => t.fireOne o n i) t

/-- (R357) The doublewords that a write of `n` bytes at `loc` covers whole are no longer poisoned. -/
def unpoison (l : List Nat) (loc n : Nat) : List Nat := l.filter fun d => !(loc ≤ 8 * d && 8 * d + 8 ≤ loc + n)

/-- (R361) The lines that a write of `n` bytes at `loc` touches have no trail code. -/
def untrail (l : Sparse (BitVec 16)) (loc n : Nat) : Sparse (BitVec 16) :=
  l.filter fun (e : Nat × BitVec 16) => !(64 * e.1 < loc + n && loc < 64 * e.1 + 64)

/-- (R190) The pending token that entered first, with its comparator. -/
def Tile.oldestPend (t : Tile) : Option (Nat × Comparator) :=
  t.cmps.foldl (fun (b : Option (Nat × Comparator)) (e : Nat × Comparator) => match b, e.2.pending with
    | none, some _ => some e
    | some c, some p => if p.1 < (c.2.pending.map (·.1)).getD 0 then some e else b
    | _, none => b) none

/-- (R190) A freed entry of the wake queue takes the oldest pending token. -/
def Tile.refillWake (t : Tile) : Tile :=
  if 16 ≤ t.wakeq.length then t
  else match t.wakeLate with
    | tok :: l => { t with wakeq := t.wakeq ++ [tok], wakeLate := l }
    | [] => match t.oldestPend with
      | some (i, k) =>
        ({ t with wakeq := t.wakeq ++ (k.pending.map fun p => p.2).toList } : Tile).setCmp i { k with pending := none }
      | none => t

/-- (R190) The freed entries of the wake queue are taken, one after another. -/
def Tile.refillAll : Nat → Tile → Tile
  | 0, t => t
  | n + 1, t => Tile.refillAll n t.refillWake

/-- (R332) Whether a token's comparator is in a job's share. -/
def Job.mayPop (j : Job) (tok : W64) : Bool := !j.cmpx.getLsbD (tok.extractLsb' 20 3).toNat

/-- (R191) The oldest token that a job may take, taken out of a tile's wake queue. -/
def Tile.popWake (t : Tile) (j : Job) : Option (W64 × Tile) :=
  (t.wakeq.find? j.mayPop).map fun tok => (tok, (({ t with wakeq := t.wakeq.erase tok } : Tile).mark (550 + (tok.extractLsb' 20 3).toNat)).refillWake)

/-- (R191) A blocked pop of a tile is served, where it can be. -/
def State.servePop (s : State) (tile : Nat) (p : Who × Nat) : State :=
  match (s.tile tile).popWake (s.jobFor p.1) with
  | some (tok, t) =>
    ((s.setTile tile { t with wpops := t.wpops.erase p }).landRec p.1 14 p.2 (rec64 tok)).updCtx p.1 fun x =>
      { x with block := x.block.erase (.wpop p.2), woken := s.unselected p.1.tile }
  | none => s

/-- (R191) The first of the blocked pops of a tile, in the order in which they were triggered, for which there is a token. -/
def State.nextPop (s : State) (tile : Nat) : Option (Who × Nat) :=
  (s.tile tile).wpops.find? fun p => ((s.tile tile).popWake (s.jobFor p.1)).isSome

/-- (R190, R191) At most `n` blocked pops of a tile served; a token that enters as an entry frees serves one more. -/
def State.servePops (s : State) : Nat → Nat → State
  | 0, _ => s
  | n + 1, tile => match s.nextPop tile with
    | some p => (s.servePop tile p).servePops n tile
    | none => s

/-- (R191) The blocked pops of a tile are served in the order in which they were triggered. -/
def State.serveWake (s : State) (tile : Nat) : State := s.servePops (s.tile tile).wpops.length tile

/-- (R190, R191) The comparators of the tile whose SRAM a write touches fire, and blocked pops take the tokens. -/
def State.fire (s : State) (loc n : Nat) : State :=
  if isSram loc then (s.updTile (loc / 2 ^ 20) fun t => t.fire (loc % 2 ^ 20) n).serveWake (loc / 2 ^ 20) else s

/-- (R343) The swatches that a write of `n` bytes at a location of SRAM touches are marked as written. -/
def dirtied (l : List Nat) (loc n : Nat) : List Nat :=
  if isSram loc then
    (List.range ((loc + n - 1) / 4096 + 1 - loc / 4096)).foldl (fun (l : List Nat) k => insertNat (loc / 4096 + k) l) l
  else l

/-- (R168, R190, R357, R361) `n` bytes of a value stored at a location. `clears` tells whether the write clears
poison that it covers: a reduction and a provisional commit leave it. -/
def State.storeLe (s : State) (loc n v : Nat) (clears : Bool) : State :=
  { s with
    mem := Memory.writeLe s.mem loc n v
    poison := if clears then unpoison s.poison loc n else s.poison
    trail := untrail s.trail loc n
    dirty := dirtied s.dirty loc n }.fire loc n

/-- (R168, R190, R357, R361) Bytes stored at a location. -/
def State.storeBytes (s : State) (loc : Nat) (bs : List Byte) : State :=
  { s with
    mem := Memory.writeBytes s.mem loc bs
    poison := unpoison s.poison loc bs.length
    trail := untrail s.trail loc bs.length
    dirty := dirtied s.dirty loc bs.length }.fire loc bs.length

/-- (R357, R359, R362) An entry of the management log: a kind and a location. Its form is the model's (log 9). -/
def State.logFw (s : State) (kind v : Nat) : State := { s with fwlog := s.fwlog ++ [BitVec.ofNat 64 (kind * 2 ^ 60 + v)] }

/-- (R357) Whether a read of `n` bytes at a location meets poison. -/
def State.poisoned (s : State) (loc n : Nat) : Bool :=
  s.poison.any fun d => 8 * d < loc + n && loc < 8 * d + 8

end Sys2Proof.Machine
end

