-- ==== Sys2Proof/Machine/Addr.lean ====
section
/-! DEFINITION. Pointers and tile space (R114, R130 to R136, R150, R332), and translation and placement of paged
addresses (R138 to R147). -/

namespace Sys2Proof.Machine

/-! ### Pointers -/

/-- (R130) VA of a pointer. -/
def vaOf (p : W64) : Nat := (p.setWidth 48).toNat

/-- (R132) Whether a virtual address is a tile-space address. -/
def isTileVa (va : Nat) : Bool := va / 2 ^ 40 == 0xFF

/-- (R114, R130, R132) Whether a pointer is canonical. -/
def canonical (p : W64) : Bool :=
  (p.extractLsb' 48 10) == 0 && (!isTileVa (vaOf p) || vaOf p / 2 ^ 20 % 2 ^ 10 == 0)

/-- (R132) Logical die, y and x of a tile-space address. -/
def tileCoord (va : Nat) : Nat × Nat × Nat := (va / 2 ^ 38 % 4, va / 2 ^ 34 % 16, va / 2 ^ 30 % 16)

/-- (R119) A pointer moved by a signed number of bytes. -/
def ptrAdd (p t : W64) : W64 := (p.extractLsb' 48 16 ++ (p.setWidth 48 + t.setWidth 48 : BitVec 48) : BitVec 64)

/-- (R133) The physical tile that a tile-space address names in a job. -/
def Job.tileOf (j : Job) (va : Nat) : Option Nat := match tileCoord va with | (d, y, x) => j.phys d y x

/-- (R332) The offset in a tile's SRAM of a tile-space address, and whether its swatch is in the job's window. -/
def Job.physOff (j : Job) (va : Nat) : Nat := (4096 * j.swbase + va % 2 ^ 20) % 2 ^ 20
def Job.inWindow (j : Job) (va : Nat) : Bool := va / 2 ^ 12 % 256 < j.swcnt

/-- (R114) Whether a pointer is a local address of a context's tile. -/
def State.isLocal (s : State) (c : Who) (p : W64) : Bool :=
  canonical p && isTileVa (vaOf p) && (s.jobFor c).tileOf (vaOf p) == some c.tile

/-- (R150) The owner of the swatch at an offset of a tile. -/
def Tile.ownerAt (t : Tile) (off : Nat) : BitVec 2 := t.owner.get 0 (off / 4096)

/-! ### Walks -/

/-- (R136) The walk box of a job: D, JH and JW. -/
def Job.box (j : Job) : Nat × Nat × Nat :=
  (j.rects.length, (j.rects.map (·.h)).foldl min 12, (j.rects.map (·.w)).foldl min 12)

/-- (R136) walk(a, wd, T). -/
def walk (box : Nat × Nat × Nat) (a wd t : W64) : W64 :=
  if wd = 0 ∨ !isTileVa (vaOf a) then ptrAdd a t
  else
    let (dd, jh, jw) := box
    let s := min (max (wd.setWidth 5).toNat 6) 20
    let span : Int := 2 ^ s
    let va := vaOf a
    let off := va % 2 ^ 20
    let base := off - off % 2 ^ s
    let q : Int := (off % 2 ^ s : Nat) + t.toInt
    let c := q / span
    let off' := base + (q % span).toNat
    let (d, y, x) := tileCoord va
    let xFirst := !wd.getLsbD 8
    let n : Int := if xFirst then (x + jw * (y + jh * d) : Nat) else (y + jh * (x + jw * d) : Nat)
    let n' := ((n + c * (wd.extractLsb' 16 8).toNat) % (dd * jw * jh : Nat)).toNat
    let x' := if xFirst then n' % jw else n' / jh % jw
    let y' := if xFirst then n' / jw % jh else n' % jh
    let d' := n' / (jw * jh)
    (a.extractLsb' 48 16 ++ BitVec.ofNat 48 (0xFF * 2 ^ 40 + d' % 4 * 2 ^ 38 + y' % 16 * 2 ^ 34 + x' % 16 * 2 ^ 30
      + va / 2 ^ 20 % 2 ^ 10 * 2 ^ 20 + off') : BitVec 64)

/-! ### Placement -/

/-- (R144) The bytes of DRAM below which a physical address must lie, 768 GiB. -/
def dramTop : Nat := 768 * 2 ^ 30

/-- (R16, R144) The storage location of byte `low` at an index of a stack. -/
def stackLoc (stack index low : Nat) : Nat := 2 ^ 40 + 2 ^ 12 * (2 ^ 24 * stack + index) + low

/-- (R144) The stack and index of granule `g` under a placement. -/
def placeOf (place home stack g : Nat) : Nat × Nat :=
  if place = 0 then (3 * ((g ^^^ (g / 4) ^^^ (g / 16) ^^^ (g / 64)) % 4) + g / 4 % 3, g / 12)
  else if place = 1 then (3 * home + g % 3, g / 3)
  else (3 * home + stack, g)

/-- (R144) The storage location of a physical address under a placement. -/
def placeLoc (place home stack pa : Nat) : Nat :=
  let p := placeOf place home stack (pa / 4096)
  stackLoc p.1 p.2 (pa % 4096)

/-- (R144) The storage location of a physical address that comes without a leaf entry. -/
def paLoc (pa : Nat) : Nat := placeLoc 0 0 0 pa

/-- (R8, R144) The home die of a storage location. -/
def homeDie (loc : Nat) : Nat := if isSram loc then dieOf (loc / 2 ^ 20) else (loc - 2 ^ 40) / 2 ^ 36 / 3

/-- (R134, R148, R324) The home of a storage location: a tile, or the DRAM home 576 + d of a die. -/
def homeOf (loc : Nat) : Nat := if isSram loc then loc / 2 ^ 20 else 576 + homeDie loc

/-! ### Routes and links -/

/-- (R9, R363) The link between two neighbouring compute dies. -/
def linkOf (d e : Nat) : Nat :=
  if d + e = 1 then 0 else if d + e = 5 then 1 else if (d = 0 ∧ e = 2) ∨ (d = 2 ∧ e = 0) then 2 else 3

/-- (R9) The next die on the way from a die to another: first horizontally. -/
def nextDie (d e : Nat) : Nat := if d % 2 = e % 2 then e else if d % 2 = 0 then d + 1 else d - 1

/-- (R9) The links on the way from a die to another. -/
def dieLinks (d e : Nat) : List Nat :=
  if d = e then [] else if nextDie d e = e then [linkOf d e] else [linkOf d (nextDie d e), linkOf (nextDie d e) e]

/-- (R12) The routers from a router of a die to another of the same die, first along x and then along y. -/
def meshPath (t u : Nat) : List Nat :=
  let d := dieOf t
  let xs := if colOf t ≤ colOf u then (List.range (colOf u - colOf t + 1)).map (colOf t + ·)
    else (List.range (colOf t - colOf u + 1)).map (colOf t - ·)
  let ys := if rowOf t ≤ rowOf u then (List.range (rowOf u - rowOf t)).map (rowOf t + 1 + ·)
    else (List.range (rowOf t - rowOf u)).map fun i => rowOf t - 1 - i
  xs.map (fun x => tileAt d (rowOf t) x) ++ ys.map fun y => tileAt d y (colOf u)

/-- (R9, R312) The bridge at die `d` of its link to die `e`: switches 576 to 583. -/
def bridgeAt (d e : Nat) : Nat := 576 + 2 * linkOf d e + if d < e then 0 else 1

/-- (R8) Whether the link between two neighbouring dies is horizontal. -/
def horizontal (d e : Nat) : Bool := d / 2 == e / 2

/-- (R327) The edge router of a router's row or column that faces the link to die `e`. -/
def edgeRouter (t e : Nat) : Nat :=
  let d := dieOf t
  if horizontal d e then tileAt d (rowOf t) (if d < e then 11 else 0) else tileAt d (if d < e then 11 else 0) (colOf t)

/-- (R327) The edge router of die `e` that faces an edge router of its neighbour. -/
def farRouter (t e : Nat) : Nat :=
  let d := dieOf t
  if horizontal d e then tileAt e (rowOf t) (11 - colOf t) else tileAt e (11 - rowOf t) (colOf t)

/-- (R12, R327) The switches from a tile's router to another router, in order, over at most `n` links. -/
def route : Nat → Nat → Nat → List Nat
  | 0, t, u => meshPath t u
  | n + 1, t, u =>
    if dieOf t = dieOf u then meshPath t u
    else
      let e := nextDie (dieOf t) (dieOf u)
      let r := edgeRouter t e
      meshPath t r ++ bridgeAt (dieOf t) e :: bridgeAt e (dieOf t) :: route n (farRouter r e) u

/-- (R148) The router behind which a paged address has its memory port, on the home die of its storage. -/
def memPort (loc pa : Nat) : Nat := tileAt (homeDie loc) (if homeDie loc < 2 then 0 else 11) (pa / 256 % 12)

/-- (R312) The home switch of an operation. -/
def homeSwitch (loc pa : Nat) : Nat := if isSram loc then loc / 2 ^ 20 else memPort loc pa

/-- (R312, R326) The die of a switch: of a router, or of a bridge's end of its link. -/
def switchDie (sw : Nat) : Nat :=
  if sw < 576 then dieOf sw
  else
    let l := (sw - 576) / 2
    let far := (sw - 576) % 2 = 1
    if l = 0 then (if far then 1 else 0) else if l = 1 then (if far then 3 else 2)
    else if l = 2 then (if far then 2 else 0) else (if far then 3 else 1)

/-- (R315, R327) The number of a switch's input port that faces the switch before it; a router's own tile is its port 0. -/
def inPort (prev : Option Nat) (sw : Nat) : Nat :=
  match prev with
  | none => 0
  | some p =>
    if 576 ≤ sw then
      if 576 ≤ p then 0
      else if sw < 580 then 1 + rowOf p else 1 + colOf p
    else
      let d := dieOf sw
      let e := if p < 576 then dieOf p else switchDie (576 + (p - 576) / 2 * 2 + (if (p - 576) % 2 = 0 then 1 else 0))
      if p < 576 then (if colOf p < colOf sw then 4 else if colOf sw < colOf p then 2 else if rowOf p < rowOf sw then 1 else 3)
      else if horizontal d e then (if d < e then 2 else 4) else if d < e then 3 else 1

/-- (R12, R321) The code of the mesh link between two neighbouring routers; 64 and above, past the codes of R363. -/
def meshLink (a b : Nat) : Nat := 64 + 2 * min a b + if colOf a = colOf b then 1 else 0

/-- (R9, R12, R312) The link between two switches of a route, if it is a mesh link or they are the two bridges of a link. -/
def linkBetween (a b : Nat) : Option Nat :=
  if a < 576 ∧ b < 576 then (if a = b then none else some (meshLink a b))
  else if 576 ≤ a ∧ 576 ≤ b ∧ a ≠ b ∧ a / 2 = b / 2 then some ((a - 576) / 2) else none

/-- The links that a path of switches crosses. -/
def pathLinks : List Nat → List Nat
  | a :: b :: rest => (linkBetween a b).toList ++ pathLinks (b :: rest)
  | _ => []

/-- (R12, R327) The links between two routers. -/
def routeLinks (t u : Nat) : List Nat := pathLinks (route 3 t u)

/-- (R8, R10) The two I/O dies. -/
inductive IoDie where
  | w | e
  deriving DecidableEq, Repr

/-- (R8) The I/O die attached to a compute die. -/
def ioDie (d : Nat) : IoDie := if d % 2 = 0 then .w else .e

/-- (R10) The I/O dies of the host ports and of the peer ports. -/
def hostIo (port : Nat) : IoDie := if port = 0 then .w else .e
def peerIo (port : Nat) : IoDie := if port < 8 then .w else .e

/-- (R8, R10) The edge router by which traffic between an I/O die and a router passes: on the I/O die's own compute die of that row
of dies, in the router's row. DESIGN CHOICE (log 22): the row is not given. -/
def ioDoor (io : IoDie) (u : Nat) : Nat :=
  let d := dieOf u
  tileAt (if ioDie d = io then d else d / 2 * 2 + (1 - d % 2)) (rowOf u) (match io with
    | .w => 0
    | .e => 11)

/-- (R8, R10, R12, R327) The links between an I/O die and a router, through the horizontal link where the router's die has another
I/O die. -/
def ioLinks (io : IoDie) (u : Nat) : List Nat := (4 + dieOf (ioDoor io u)) :: routeLinks (ioDoor io u) u

/-- (R10, R363) The links between a router and what lies behind a peer port. -/
def peerLinks (u port : Nat) : List Nat := ioLinks (peerIo port) u ++ [8 + port]

/-- The last switch before the end of a route. -/
def lastHop (t u : Nat) : Option Nat := (route 3 t u).dropLast.getLast?

/-- (R315, R328) The input port by which traffic from an I/O die comes to a router: at the edge router itself, that of its side. -/
def ioPort (io : IoDie) (u : Nat) : Nat :=
  match lastHop (ioDoor io u) u with
  | some p => inPort (some p) u
  | none => match io with
    | .w => 4
    | .e => 2

/-- (R349) The peer port that leads to a member of a phase group: the cabling is not given (log 22). -/
def memberPort (grp member : Nat) : Nat := Config.peerPort grp member % 16

/-- (R315, R328) Whether a request may enter a switch by a port now: none has entered it by a higher port in this tile cycle. -/
def State.portOpen (s : State) (port sw : Nat) : Bool :=
  match s.swIn.get? sw with
  | some p => p ≤ port
  | none => true

/-- (R315, R328) A request enters a switch by a port. -/
def State.notePort (s : State) (port sw : Nat) : State := { s with swIn := s.swIn.set sw port }

/-- (R315, R328) As `portOpen` and `notePort`, by the port that faces the switch before it. -/
def State.portFree (s : State) (prev : Option Nat) (sw : Nat) : Bool := s.portOpen (inPort prev sw) sw
def State.noteEntry (s : State) (prev : Option Nat) (sw : Nat) : State := s.notePort (inPort prev sw) sw

/-- (R328) Whether what comes from a router may enter several home switches now, and its entry. -/
def State.portsFree (s : State) (t : Nat) (homes : List Nat) : Bool := homes.all fun h => s.portFree (lastHop t h) h
def State.noteEntries (s : State) (t : Nat) (homes : List Nat) : State :=
  homes.foldl (fun (s : State) h => s.noteEntry (lastHop t h) h) s

/-- (R363, R364) A link's state. -/
def State.link (s : State) (l : Nat) : LinkSt := s.links.get .up l

/-- (R364) The first of the links of a way that is down. -/
def State.downOn (s : State) (ls : List Nat) : Option Nat := if s.links.isEmpty then none else ls.find? fun l => s.link l == .down

/-- (R363) Whether a link of a way retrains, so that nothing passes. -/
def State.heldOn (s : State) (ls : List Nat) : Bool :=
  !s.links.isEmpty && ls.any fun l => match s.link l with
    | .retraining _ => true
    | _ => false

/-- (R12, R148, R327, R364) The links that the requests of a tile's engine and their replies cross to home switches and back. DESIGN
CHOICE (log 22): an engine's traffic starts at the router of the tile that has asked for it. -/
def tripLinks (t : Nat) (homes : List Nat) : List Nat := homes.flatMap fun h => routeLinks t h ++ routeLinks h t

/-- (R363) The link of FLT_LINK's INFO[4:0]. A mesh link has no code: that value is free (log 22). -/
def linkCode (l : Nat) : Nat := if l < 24 then l else Config.meshLink l % 32

/-- (R363, R364) INFO of FLT_LINK for a link that is down. -/
def downInfo (l : Nat) : Nat := 256 + linkCode l

/-! ### Table entries -/

/-- How an access uses its bytes (R141). -/
inductive Acc where
  | read | write | atomic
  deriving DecidableEq, Repr

/-- What translation answers. -/
inductive Tr where
  /-- the byte's storage location, its leaf entry's location, its physical address -/
  | ok (loc : Nat) (leaf : Nat) (pa : Nat)
  /-- a fault at a level (R141) -/
  | bad (code : Flt) (level : Nat)
  /-- copy-on-write (R142) -/
  | cow
  deriving DecidableEq, Repr

/-- (R139) V, the must-be-zero bits and NEXT of a table entry. -/
def tableOk (e : W64) : Bool :=
  e.getLsbD 0 && (e.extractLsb' 52 12) == 0 && (e.extractLsb' 1 12) == 0 && (e.extractLsb' 13 39).toNat * 2 ^ 13 < dramTop

def nextTable (e : W64) : Nat := (e.extractLsb' 13 39).toNat * 2 ^ 13

/-- (R140) The page size of a leaf at a level, as a power of two. -/
def pageBits (level : Nat) : Nat := if level = 1 then 29 else 19

/-- (R140, R144) The physical address that a leaf entry gives a virtual address. -/
def leafPa (e : W64) (level va : Nat) : Nat :=
  (e.extractLsb' 19 33).toNat * 2 ^ 19 / 2 ^ pageBits level * 2 ^ pageBits level + va % 2 ^ pageBits level

def leafPlace (e : W64) : Nat := (e.extractLsb' 7 2).toNat
def leafHome (e : W64) : Nat := (e.extractLsb' 9 2).toNat
def leafStack (e : W64) : Nat := (e.extractLsb' 11 2).toNat

/-- (R141, R144) Order 2 of a leaf entry at a level, where V = 1. -/
def leafOk (e : W64) (level : Nat) : Bool :=
  let first := leafPa e level 0
  let last := first + 2 ^ pageBits level - 1
  (e.extractLsb' 52 12) == 0 && (e.extractLsb' 14 5) == 0 && (level != 1 || (e.extractLsb' 19 10) == 0)
    && leafPlace e != 3 && !(leafPlace e == 2 && leafStack e == 3) && (e.getLsbD 3 == (level == 1))
    && last < dramTop && (placeOf (leafPlace e) (leafHome e) (leafStack e) (last / 4096)).2 < 2 ^ 24

/-- (R141) Orders 3 to 5: whether a leaf entry permits an access. -/
def permits (e : W64) (acc : Acc) : Bool :=
  match acc with
  | .read => e.getLsbD 1
  | .write => e.getLsbD 2
  | .atomic => e.getLsbD 1 && e.getLsbD 2

/-- (R141) Order 6. -/
def needsCopy (e : W64) (acc : Acc) : Bool := acc != .read && e.getLsbD 4

/-- (R138) A doubleword of a table. -/
def State.entry (s : State) (loc : Nat) : W64 := BitVec.ofNat 64 (Memory.readLe s.mem loc 8)

/-- (R143) Bits set in an entry of a table, as one step. -/
def State.setEntry (s : State) (loc : Nat) (e : W64) : State := s.storeLe loc 8 e.toNat false

/-- (R357) A new entry written: a write of the whole doubleword. -/
def State.newEntry (s : State) (loc : Nat) (e : W64) : State := s.storeLe loc 8 e.toNat true

/-! ### The walk -/

/-- A leaf found: its level, the entry and where it stands. -/
structure Leaf where
  level : Nat
  ent : W64
  loc : Nat
  deriving DecidableEq, Repr

/-- (R138, R141, R146) The middle-level entry of an address: from the die's walk cache or from the tables. -/
def State.middle (s : State) (asid va : Nat) (useTlb : Bool) (die : Nat) : Except Nat (W64 × Nat) :=
  match (if useTlb then (s.walks.get [] die).find? fun e => e.asid == asid && e.index == va / 2 ^ 29 else none) with
  | some e => .ok (e.ent, e.loc)
  | none => match s.roots.get? asid with
    | none => .error 0
    | some root =>
      let e := s.entry (paLoc (root + 8 * (va / 2 ^ 39)))
      if !tableOk e then .error 0
      else
        let loc := paLoc (nextTable e + 8 * (va / 2 ^ 29 % 1024))
        .ok (s.entry loc, loc)

/-- (R138, R141) The walk of an address as far as orders 1 and 2. -/
def State.walkTables (s : State) (asid va : Nat) (useTlb : Bool) (die : Nat) : Except Nat Leaf :=
  match s.middle asid va useTlb die with
  | .error l => .error l
  | .ok (m, mloc) =>
    if m.getLsbD 0 && m.getLsbD 3 then
      if leafOk m 1 then .ok { level := 1, ent := m, loc := mloc } else .error 1
    else if !tableOk m then .error 1
    else
      let loc := paLoc (nextTable m + 8 * (va / 2 ^ 19 % 1024))
      let l := s.entry loc
      if l.getLsbD 0 && leafOk l 2 then .ok { level := 2, ent := l, loc := loc } else .error 2

/-- (R146) Whether an entry matches an identifier: its own, or every one with G = 1. -/
def TlbEnt.names (e : TlbEnt) (asid : Nat) : Bool := e.asid == asid || e.ent.getLsbD 13

/-- (R146) The entry of a TLB that serves an address. -/
def tlbFind (l : List TlbEnt) (asid va : Nat) : Option TlbEnt :=
  l.find? fun e => e.names asid && e.page == va / 2 ^ pageBits e.level

/-- (R146) An entry filled into a TLB of `sets` sets and `ways` ways, in place of the one that it renews or of the oldest of its
set. The set is the page number's remainder (log 8). -/
def tlbFill (l : List TlbEnt) (sets ways : Nat) (e : TlbEnt) : List TlbEnt :=
  let l1 := l.filter fun x => !(x.asid == e.asid && x.page == e.page && x.level == e.level)
  let mine := l1.filter fun x => x.page % sets == e.page % sets
  (if ways ≤ mine.length then match mine with
    | x :: _ => l1.erase x
    | [] => l1
  else l1) ++ [e]

/-- (R146) A leaf filled into the tile's micro-TLB, its cluster's TLB and, for a table entry, the die's walk cache. -/
def State.fillTlb (s : State) (tile asid va : Nat) (f : Leaf) : State :=
  let e : TlbEnt := { asid := asid, page := va / 2 ^ pageBits f.level, level := f.level, ent := f.ent, loc := f.loc }
  let s1 := { s with
    tlbs := s.tlbs.upd [] (clusterOf tile) fun l => tlbFill l 256 8 e
    utlbs := s.utlbs.upd [] tile fun l => tlbFill l 1 32 e }
  if f.level = 1 then s1
  else match s.middle asid va false (dieOf tile) with
    | .error _ => s1
    | .ok (m, loc) =>
      { s1 with
        walks := s1.walks.upd [] (dieOf tile) fun l =>
          if !tableOk m || l.any fun w => w.asid == asid && w.index == va / 2 ^ 29 then l
          else (if 256 ≤ l.length then l.drop 1 else l) ++ [{ asid := asid, index := va / 2 ^ 29, ent := m, loc := loc }] }

/-- (R143) The bits that a walk sets in an entry before it is filled. -/
def setBits (e : W64) (acc : Acc) (late : Bool) : W64 :=
  let e1 := e ||| 0x40
  if acc != .read && !late && !e.getLsbD 4 then e1 ||| 0x20 else e1

/-- (R146) The TLB entry that serves an address of a tile. -/
def State.tlbHit (s : State) (tile asid va : Nat) : Option TlbEnt :=
  (tlbFind (s.utlbs.get [] tile) asid va).or (tlbFind (s.tlbs.get [] (clusterOf tile)) asid va)

/-- (R138 to R143, R146) Translation of one virtual address for a tile. `useTlb` tells whether a TLB or a walk
cache may serve it (R147); `late` that its write comes at a commit, which sets D (R163). -/
def State.translate (s : State) (tile asid va : Nat) (acc : Acc) (useTlb late : Bool) : State × Tr :=
  let hit := if useTlb then s.tlbHit tile asid va else none
  let found : Except Nat Leaf := match hit with
    | some e => .ok { level := e.level, ent := e.ent, loc := e.loc }
    | none => s.walkTables asid va useTlb (dieOf tile)
  match found with
  | .error l => (s, .bad .transl l)
  | .ok f =>
    if !permits f.ent acc then (s, .bad .perm f.level)
    else
      let e := setBits f.ent acc late
      let s1 := if e = f.ent then s else s.setEntry f.loc (s.entry f.loc ||| (e ^^^ f.ent))
      let s2 := if hit.isSome ∧ e = f.ent then s1 else s1.fillTlb tile asid va { f with ent := e }
      if needsCopy f.ent acc then (s2, .cow)
      else (s2, .ok (placeLoc (leafPlace e) (leafHome e) (leafStack e) (leafPa e f.level va)) f.loc (leafPa e f.level va))

/-! ### Copy-on-write -/

/-- (R142, R147) Every copy of an identifier's entry for a page leaves every TLB. -/
def State.dropPage (s : State) (asid va level : Nat) : State :=
  let keep (e : TlbEnt) : Bool := !(e.names asid && e.level == level && e.page == va / 2 ^ pageBits level)
  { s with
    tlbs := s.tlbs.map fun (t : Nat × List TlbEnt) => (t.1, t.2.filter keep)
    utlbs := s.utlbs.map fun (t : Nat × List TlbEnt) => (t.1, t.2.filter keep)
    walks := if level = 1 then
        s.walks.map fun (t : Nat × List WalkEnt) => (t.1, t.2.filter fun w => !(w.asid == asid && w.index == va / 2 ^ 29))
      else s.walks }

/-- (R142) Room of 8 KiB for a leaf table in a page of the pool. -/
def State.takeTable (s : State) : Option (State × Nat) :=
  match s.poolTab with
  | some (pa, n) => some ({ s with poolTab := if n ≤ 1 then none else some (pa + 8192, n - 1) }, pa)
  | none => match s.pool with
    | [] => none
    | p :: ps => some ({ s with pool := ps, poolTab := some (p + 8192, 63) }, p)

/-- (R142) The 1,024 entries of the table into which a large entry splits. -/
def splitEntry (m : W64) (i : Nat) : W64 := (m &&& ~~~8#64) + BitVec.ofNat 64 (i * 2 ^ 19)

/-- (R142) A large entry at `loc` split, where there is room. -/
def State.splitLarge (s : State) (asid va : Nat) (f : Leaf) : Option State :=
  match s.takeTable with
  | none => none
  | some (s1, tab) =>
    let s2 := (List.range 1024).foldl (fun (s : State) i => s.newEntry (paLoc (tab + 8 * i)) (splitEntry f.ent i)) s1
    some ((s2.newEntry f.loc (BitVec.ofNat 64 (tab + 1))).dropPage asid va 1)

/-- (R142) The 512 KiB page of a leaf copied, granule by granule, to a page of the pool, with placement 0. -/
def State.copyPage (s : State) (e : W64) (pa : Nat) : State :=
  let locs := (List.range 128).map fun i =>
    (placeLoc (leafPlace e) (leafHome e) (leafStack e) (leafPa e 2 (4096 * i)),
     placeLoc (leafPlace e) (leafHome e) (leafStack e) (pa + 4096 * i))
  locs.foldl (fun (s : State) (p : Nat × Nat) => s.storeBytes p.2 (Memory.readBytes s.mem p.1 4096)) s

/-- (R140) The PPN field of a leaf entry. -/
def ppnMask : W64 := BitVec.ofNat 64 (2 ^ 52 - 2 ^ 19)

/-- (R142) The leaf entry at `loc` copied to a free page of the pool, where there is one. -/
def State.copyLeaf (s : State) (asid va : Nat) (f : Leaf) : Option State :=
  match s.pool with
  | [] => none
  | p :: ps =>
    let e := (f.ent &&& ~~~(ppnMask ||| 0x10)) ||| BitVec.ofNat 64 p
    some ((({ s with pool := ps }.copyPage f.ent p).newEntry f.loc e).dropPage asid va 2)

/-- (R142) Management firmware resolves copy-on-write for an address: the state after, and whether the access can
continue. A split that was made stands. Where the tables hold the new entry already, only the copies of the old one leave. -/
def State.resolveCow (s : State) (asid va : Nat) : State × Bool :=
  match s.walkTables asid va false 0 with
  | .error _ => (s, true)
  | .ok f =>
    if !f.ent.getLsbD 4 then ((s.dropPage asid va 1).dropPage asid va 2, true)
    else if f.level = 1 then
      match s.splitLarge asid va f with
      | none => (s, false)
      | some s1 => match s1.walkTables asid va false 0 with
        | .error _ => (s1, true)
        | .ok g => match s1.copyLeaf asid va g with
          | none => (s1, false)
          | some s2 => (s2, true)
    else match s.copyLeaf asid va f with
      | none => (s, false)
      | some s1 => (s1, true)

/-- (R142) Translation of an address for an engine, which resolves copy-on-write on its way: the storage and the physical address. -/
def State.translateEngine (s : State) (tile asid va : Nat) (acc : Acc) : State × Except (Flt × Nat) (Nat × Nat) :=
  match s.translate tile asid va acc true false with
  | (s1, .ok loc _ pa) => (s1, .ok (loc, pa))
  | (s1, .bad c l) => (s1, .error (c, l))
  | (s1, .cow) =>
    let r := s1.resolveCow asid va
    if !r.2 then (r.1, .error (.cow, 0))
    else match r.1.translate tile asid va acc true false with
      | (s2, .ok loc _ pa) => (s2, .ok (loc, pa))
      | (s2, .bad c l) => (s2, .error (c, l))
      | (s2, .cow) => (s2, .error (.cow, 0))

end Sys2Proof.Machine
end

