-- ==== Sys2Proof/Machine/Mem.lean ====
section
/-! DEFINITION. Memory operations of mema and memb: their checks, their order (R165, R170, R173), how they perform at
their homes, and how their records and faults come back (R48, R152 to R159, R162 to R166, R353). The gather buffer
(R160, R161, R167). -/

namespace Sys2Proof.Machine

/-! ### Forms -/

/-- (R115) The bytes of a load. -/
def loadBytes : LoadForm → Nat
  | .b | .bu => 1 | .h | .hu => 2 | .w | .wu => 4 | .d => 8 | .v => 64

/-- (R116) The bytes of a store. -/
def stBytes : StoreForm → Nat
  | .b => 1 | .h => 2 | .w => 4 | .d => 8 | .v => 64

/-- (R115) `out` of a load that read the number `v`. -/
def loadOut (f : LoadForm) (v : Nat) : W512 :=
  match f with
  | .b => ((BitVec.ofNat 8 v).signExtend 64).setWidth 512
  | .h => ((BitVec.ofNat 16 v).signExtend 64).setWidth 512
  | .w => ((BitVec.ofNat 32 v).signExtend 64).setWidth 512
  | .bu => (BitVec.ofNat 8 v).setWidth 512
  | .hu => (BitVec.ofNat 16 v).setWidth 512
  | .wu => (BitVec.ofNat 32 v).setWidth 512
  | .d => (BitVec.ofNat 64 v).setWidth 512
  | .v => BitVec.ofNat 512 v

/-- (R130) FMT and BLK of a pointer. -/
def ptrFmt (p : W64) : Nat := (p.extractLsb' 60 4).toNat
def ptrBlk (p : W64) : Nat := (p.extractLsb' 58 2).toNat

/-- (R131) The element size of FMT 1 to 8. -/
def fmtBytes (f : Nat) : Nat := if f = 2 ∨ f = 5 ∨ f = 6 then 2 else if f = 3 ∨ f = 4 then 4 else 1

/-- (R130, R209) The elements of a block by BLK. -/
def blkElems (b : Nat) : Nat := 16 * 2 ^ b

/-- (R155, R212) The bytes that an `ld.f` reads. -/
def ldfBytes (p : W64) : Nat :=
  if ptrFmt p ≤ 8 then 16 * fmtBytes (ptrFmt p) else sqBytes (blkElems (ptrBlk p)) (sqK (ptrFmt p))

/-- The bytes that an operation accesses. -/
def MemKind.bytes (k : MemKind) (p : W64) : Nat :=
  match k with
  | .ldq f _ => loadBytes f
  | .ldf _ => ldfBytes p
  | .lds _ | .sts | .stp => 8
  | .store f => stBytes f
  | .amo _ w _ => if w then 4 else 8
  | .red op => if op = .fadd then 4 else 8
  | .touch => 1
  | .fence _ => 0

/-- (R114, R152, R155 to R157) The alignment that an operation demands. -/
def MemKind.align (k : MemKind) (p : W64) : Nat :=
  match k with
  | .ldf _ => if ptrFmt p ≤ 8 then fmtBytes (ptrFmt p) else 1
  | .touch | .fence _ => 1
  | k => k.bytes p

/-- (R47, R48) Whether an operation delivers a record. -/
def MemKind.delivers : MemKind → Bool
  | .ldq _ _ | .ldf _ | .lds _ | .amo _ _ _ => true
  | _ => false

/-- (R153) Whether a form suppresses TILEMAP, TRANSL and PERM. -/
def MemKind.suppresses : MemKind → Bool
  | .ldq _ nf | .ldf nf | .lds nf => nf
  | _ => false

/-- (R141) How an operation accesses memory. -/
def MemKind.acc : MemKind → Acc
  | .ldq _ _ | .ldf _ | .lds _ | .touch | .fence _ => .read
  | .store _ | .sts | .stp | .red _ => .write
  | .amo _ _ _ => .atomic

/-- (R155) The format of an `ld.f` pointer is not to be read. -/
def ldfBad (p o2 : W64) : Bool :=
  ptrFmt p == 0 || 12 ≤ ptrFmt p || (9 ≤ ptrFmt p && (ptrBlk p == 3 || 2 ^ ptrBlk p ≤ o2.toNat % 4))

/-- (R325) Whether an atomic is cross-package. -/
def MemKind.cross (k : MemKind) (o3 : W64) : Bool :=
  match k with
  | .amo _ _ _ => o3.getLsbD 8
  | _ => false

/-- The virtual addresses of an operation's bytes. -/
def MemKind.vas (k : MemKind) (p : W64) : List Nat := (List.range (k.bytes p)).map fun i => (vaOf p + i) % 2 ^ 48

/-! ### Checks at the trigger -/

/-- (R117, R151) The new owner of a swatch from an `own` of this word that precedes in the tile's order and has been
put off. -/
def State.pendingOwn (s : State) (c : Who) (j : Job) (sw : Nat) : Option (BitVec 2) :=
  (s.restOf c).foldl (fun r k => match k with
    | .run tr .own => if tr.late && (j.swbase + (lo64 tr.t).toNat % 256) % 256 == sw then some ((lo64 tr.t).extractLsb' 8 2) else r
    | _ => r) none

/-- (R114 order 5, R150) The owner that a program access of the trigger's context meets. -/
def State.ownerFor (s : State) (c : Who) (memb : Bool) (off : Nat) : BitVec 2 :=
  let o := (s.tile c.tile).ownerAt off
  if memb then (s.pendingOwn c (s.jobFor c) (off / 4096)).getD o else o

/-- (R114, R332, R357) The first fault of a local access of `n` bytes at `p`: `load` for loads, push and pop, which
demand a local address; `stack` where push checks SLIM. -/
def State.localFault (s : State) (c : Who) (p : W64) (n : Nat) (memb load stack reads : Bool) : Option FaultAt :=
  let j := s.jobFor c
  let off := j.physOff (vaOf p)
  if !canonical p then some (FaultAt.at .noncanon p)
  else if load && !s.isLocal c p then some (FaultAt.at .nonlocal p)
  else if vaOf p % n ≠ 0 then some (FaultAt.at .align p)
  else if stack && vaOf p < (s.ctx c).slim.toNat then some (FaultAt.at .stack p)
  else if !j.inWindow (vaOf p) then some (FaultAt.at .tilemap p)
  else if s.ownerFor c memb off ≠ 0 then some (FaultAt.at .owner p)
  else if reads && s.poisoned (sramLoc c.tile off) n then some (FaultAt.at .poison p)
  else none

/-- (R133, R332) Whether the tile map of the context's job resolves a byte's address, or the byte is paged. -/
def Job.mapped (j : Job) (va : Nat) : Bool := !isTileVa va || ((j.tileOf va).isSome && j.inWindow va)

/-- (R325) What makes a cross-package atomic FLT_NONCANON beside its pointer: a paged address, or a set bit in o3[63:9]. -/
def crossBad (p o3 : W64) : Bool := o3.toNat / 2 ^ 9 != 0 || !isTileVa (vaOf p)

/-- (R325) Whether a cross-package atomic names no member of the job's phase group. -/
def Job.noMember (j : Job) (o3 : W64) : Bool := j.group == 0 || j.gsize ≤ o3.toNat % 256

/-- (R114, R120, R133, R152, R155, R325) The first fault of a queued operation or store at its trigger. FLT_NONCANON looks at the
address, and for ld.f, whose alignment is that of an element, at every byte that it reads. -/
def State.memFault (s : State) (c : Who) (memb : Bool) (k : MemKind) (p o2 o3 : W64) : Option FaultAt :=
  let j := s.jobFor c
  let vas := k.vas p
  let badForm := match k with
    | .ldf _ => ldfBad p o2
    | _ => false
  let named := match k with
    | .ldf _ => vas
    | _ => vas.take 1
  if badForm || (p.extractLsb' 48 10) != 0 || named.any (fun va => isTileVa va && va / 2 ^ 20 % 2 ^ 10 != 0)
      || (k.cross o3 && crossBad p o3) then
    some (FaultAt.at .noncanon p)
  else if vaOf p % k.align p ≠ 0 then some (FaultAt.at .align p)
  else if k.cross o3 then (if j.noMember o3 then some (FaultAt.at .tilemap p) else none)
  else if !vas.all j.mapped then some (FaultAt.at .tilemap p)
  else if k != .touch && vas.any (fun va => isTileVa va && j.tileOf va == some c.tile && s.ownerFor c memb (j.physOff va) != 0)
    then some (FaultAt.at .owner p)
  else none

/-- (R133, R332) The storage of a tile-space byte of a job. -/
def Job.tileLoc (j : Job) (va : Nat) : Nat := sramLoc ((j.tileOf va).getD 0) (j.physOff va)

/-! ### Where an operation stands -/

/-- Whether an operation's bytes all lie in tile space. -/
def MemOp.inTiles (o : MemOp) : Bool := (o.kind.vas o.addr).all isTileVa

/-- Whether an operation is a local access (R114). -/
def State.opLocal (s : State) (o : MemOp) : Bool :=
  !o.kind.cross o.o3 && (o.kind.vas o.addr).all fun va => isTileVa va && (s.jobNo o.job).tileOf va == some o.who.tile

/-- Whether an operation has performed. -/
def MemOp.done (o : MemOp) : Bool := o.st == .performed

/-- (R170, R197) Whether nothing of an operation is to come that could make it perform again: it has performed in its tile, or is
one that performs without a record. The reply of another can still be lost (R363) or carry a status, and its return then performs
the operation in its old place (R354). -/
def State.settled (s : State) (o : MemOp) : Bool := o.done && (!o.kind.delivers || s.opLocal o)

/-- (R148) The physical address of an operation's first byte. -/
def MemOp.pa (o : MemOp) : Nat := o.pas.headD 0

/-- (R170) Whether two operations touch a byte in common, by their virtual addresses or their storage. -/
def MemOp.meets (x y : MemOp) : Bool :=
  let a := vaOf x.addr
  let b := vaOf y.addr
  (a < b + y.kind.bytes y.addr && b < a + x.kind.bytes x.addr)
    || x.locs.any y.locs.contains
    || ((x.locs.isEmpty || y.locs.isEmpty) && !isTileVa a && !isTileVa b && a % 4096 < b % 4096 + y.kind.bytes y.addr
        && b % 4096 < a % 4096 + x.kind.bytes x.addr)

/-- (R156, R157, R162) Strong accesses and atomics. -/
def MemKind.strong : MemKind → Bool
  | .lds _ | .sts | .stp | .amo _ _ _ => true
  | _ => false

/-- (R170) Whether an operation `x` of a context is ordered before its later operation `y`. -/
def MemOp.before (x y : MemOp) : Bool :=
  if x.hold.isSome then y.kind == .stp
  else match x.kind, y.kind with
    | .touch, _ => false
    | .fence _, _ => true
    | .lds _, _ => true
    | .amo _ _ _, _ => true
    | _, .touch => false
    | _, .fence _ => false
    | .red _, .sts => x.meets y
    | .red _, .amo _ _ _ => x.meets y
    | _, .sts => true
    | _, .amo _ _ _ => true
    | a, b => (a.strong && b.strong) || x.meets y

/-- Whether `x` is an operation of the same context and launch as `y`, triggered earlier. -/
def MemOp.precedes (x y : MemOp) : Bool := x.who == y.who && x.job == y.job && x.id < y.id

/-- (R165) Whether an operation is a fence. -/
def MemKind.isFence : MemKind → Bool
  | .fence _ => true
  | _ => false

/-- (R353, R354) The operations of a context that wait for the return from a fault: those that have faulted, and what stands
behind them in the context's order. -/
def State.stuck (s : State) (c : Who) : List Nat :=
  (s.ops.foldl (fun (l : List MemOp) o =>
    if o.who == c && (o.st == .faulted || (!o.dbl && !o.done && l.any fun x => x.precedes o && (x.before o || o.kind.isFence)))
    then o :: l else l) []).map (·.id)

/-- (R165, R170, R194, R197, R354) Whether an operation may leave its tile, or perform in it. An operation that has faulted keeps
its place until its return; an operation of the handler does not wait for what waits for that return (log 27). -/
def State.mayGo (s : State) (o : MemOp) : Bool :=
  (match o.hold with
    | some p => (s.jobNo o.job).phase != p
    | none => true) && s.ops.all fun x =>
      !(x.precedes o && !s.settled x && x.before o) || (o.dbl && !x.dbl && (s.stuck o.who).contains x.id)

/-- (R165, R170) What an earlier operation of the context, an unfinished fence, ld.s, atomic or local access, holds: its later
local accesses, at their trigger. In a handler, what waits for its return holds none (log 27). -/
def State.gated (s : State) (c : Who) : Bool :=
  s.ops.any fun o => o.who == c && o.job == (s.ctx c).job && !s.settled o
    && !((s.ctx c).shadow.isSome && (s.stuck c).contains o.id) && (match o.kind with
      | .fence _ | .lds _ | .amo _ _ _ => true
      | .touch => false
      | _ => o.hold.isNone && s.opLocal o)

/-- (R170) Whether a wait, lock, pop, phase or drain of a context has still to complete: it holds the later accesses of its word. -/
def State.acquiring (s : State) (c : Who) : Bool :=
  (s.ctx c).block.any fun b => match b with
    | .copy _ => false
    | _ => true

/-- An operation by its identifier. -/
def State.op? (s : State) (id : Nat) : Option MemOp := s.ops.find? fun o => o.id == id

/-- An operation changed. -/
def State.updOp (s : State) (id : Nat) (f : MemOp → MemOp) : State :=
  { s with ops := updWhere (fun o => o.id == id) f s.ops }

/-- An operation taken out. -/
def State.dropOp (s : State) (id : Nat) : State := { s with ops := s.ops.filter fun o => o.id != id }

/-! ### Faults after start -/

/-- (R353, R354) An operation faults after its start. -/
def State.faultOp (s : State) (o : MemOp) (code : Flt) (info : Nat) (f1 : W64) : State :=
  if s.takesFaults o.who o.job then
    (s.updOp o.id fun x => { x with st := .faulted }).raiseLate o.who o.job
      { code := code, info := BitVec.ofNat 16 info, f1 := f1, f2 := o.addr, word := o.word, slot := o.slot, rank := o.id,
        dbl := o.dbl, op := if code = .amoApplied then .applied o else .mem o }
  else s.dropOp o.id

/-- An operation has performed: its record is on its way, or it is no longer outstanding (R164). -/
def State.performed (s : State) (o : MemOp) (r : Rec) : State :=
  if o.kind.delivers then s.updOp o.id fun x => { x with st := .performed, res := r } else s.dropOp o.id

/-- (R153) A suppressed fault: zero data and the code. -/
def State.suppressed (s : State) (o : MemOp) (code : Flt) : State := s.performed o (codeRec code)

/-! ### Values -/

/-- (R199, R200, R211) An FP32 encoding of a value. -/
def toFp32 (v : Val) : Nat := (v.into .fp32 .rne false).bits

/-- (R155) Element `i` of `ld.f` data in FMT 1 to 8. -/
def elemFp32 (fmt : Nat) (n : Nat) : Nat :=
  match fmt with
  | 1 => toFp32 (Val.ofInt (BitVec.ofNat 8 n).toInt)
  | 2 => toFp32 (Val.ofInt (BitVec.ofNat 16 n).toInt)
  | 3 => toFp32 (Val.ofInt (BitVec.ofNat 32 n).toInt)
  | 4 => toFp32 (Fmt.fp32.val n)
  | 5 => toFp32 (Fmt.fp16.val n)
  | 6 => toFp32 (Fmt.bf16.val n)
  | 7 => toFp32 (Fmt.e4m3.val n)
  | _ => toFp32 (Fmt.e5m2.val n)

/-- (R155) The 16 lanes of an `ld.f` that read the number `v`. -/
def ldfOut (p o2 : W64) (v : Nat) : W512 :=
  let lanes := if ptrFmt p ≤ 8 then
      (List.range 16).map fun i =>
        let w := 8 * fmtBytes (ptrFmt p)
        elemFp32 (ptrFmt p) (v / 2 ^ (w * i) % 2 ^ w)
    else
      let k := sqK (ptrFmt p)
      let vals := (sqParse (blkElems (ptrBlk p)) k v).vals k
      (List.range 16).map fun i => toFp32 (vals.getD (16 * (o2.toNat % 4) + i) (.nan false))
  BitVec.ofNat 512 (packList 32 lanes)

/-- (R157) An FP32 sum as atomics and reductions make it. -/
def faddRne (a b : Nat) : Nat := (((Fmt.fp32.val a).add false (Fmt.fp32.val b)).into .fp32 .rne).bits

/-- The larger or smaller of two 64-bit words as signed numbers. -/
def smax (a b : W64) : W64 := if a.slt b then b else a
def smin (a b : W64) : W64 := if b.slt a then b else a

/-- (R157) op(old, a) of an atomic; `e` is the expected value of cas. -/
def AmoOp.apply (op : AmoOp) (w32 : Bool) (old a e : Nat) : Nat :=
  let o := BitVec.ofNat 64 old
  let x := BitVec.ofNat 64 a
  match op with
  | .add => if w32 then (old + a) % 2 ^ 32 else (old + a) % 2 ^ 64
  | .and => (o &&& x).toNat
  | .or => (o ||| x).toNat
  | .xor => (o ^^^ x).toNat
  | .max => (smax o x).toNat
  | .maxu => Nat.max old a
  | .min => (smin o x).toNat
  | .minu => Nat.min old a
  | .swap => a
  | .cas => if old = e then a else old
  | .fadd | .faddLoose => faddRne old a

/-- (R157) The record of an atomic that found `old`. -/
def amoRec (op : AmoOp) (w32 : Bool) (old : Nat) : Rec :=
  let v : W64 := if w32 && op == .add then (BitVec.ofNat 32 old).signExtend 64 else BitVec.ofNat 64 old
  rec64 v

/-- (R159) op(mem, a) of a reduction. -/
def RedOp.apply (op : RedOp) (m a : Nat) : Nat :=
  let o := BitVec.ofNat 64 m
  let x := BitVec.ofNat 64 a
  match op with
  | .add => (m + a) % 2 ^ 64
  | .and => (o &&& x).toNat
  | .or => (o ||| x).toNat
  | .xor => (o ^^^ x).toNat
  | .max => (smax o x).toNat
  | .min => (smin o x).toNat
  | .fadd => faddRne m a

/-- The element bytes of a reduction. -/
def RedOp.bytes (op : RedOp) : Nat := if op = .fadd then 4 else 8

/-- The low `n` bytes of a value as a number. -/
def lowBytes (v : W512) (n : Nat) : Nat := v.toNat % 2 ^ (8 * n)

/-! ### Lines that gather, at their homes -/

/-- (R161) The holder mask of a physical line. -/
def State.holders (s : State) (line : Nat) : BitVec 72 :=
  match s.hlines.find? fun h => h.line == line with
  | some h => h.mask
  | none => 0

/-- (R161) Whether a line's entry says anything; an entry that says nothing is not kept. -/
def HLine.live (h : HLine) : Bool := h.mask != 0 || h.held != [] || h.refused != [] || h.late != []

/-- (R161) A line's entry changed. -/
def State.updHolders (s : State) (line : Nat) (f : HLine → HLine) : State :=
  let h' := f ((s.hlines.find? fun h => h.line == line).getD { line := line, pa := 0, mask := 0, held := [], refused := [], late := [] })
  let rest := s.hlines.filter fun h => h.line != line
  { s with hlines := if h'.live then rest ++ [h'] else rest }

/-- (R161) Whether the home has room to pin a line: fewer than 12 lines of its set are pinned. The set of a line
is taken from its storage (log 8). -/
def State.pinRoom (s : State) (line : Nat) : Bool :=
  ((s.hlines.filter fun h => h.mask != 0 && homeDie (64 * h.line) == homeDie (64 * line)
    && h.line / 4 % 16384 == line / 4 % 16384).map fun h => h.line / 4).eraseDups.length < 12

/-- (R148) The physical address of a line that gathers, as its JOIN gave it. -/
def State.linePa (s : State) (line : Nat) : Nat :=
  match s.hlines.find? fun h => h.line == line with
  | some h => h.pa
  | none => 0

/-- (R160) Whether a message is a RECALL or a FLUSH. -/
def GKind.clears : GKind → Bool
  | .recall | .flush _ _ _ => true
  | _ => false

/-- (R161) RECALL to every cluster in a line's mask that is not already on its way to flush. -/
def State.recall (s : State) (line : Nat) : State :=
  let m := s.holders line
  ((List.range 72).filter fun k => m.getLsbD k).foldl (fun (s : State) k =>
    if s.gmsgs.any fun g => g.cluster == k && g.line == line && g.kind.clears then s
    else { s with
      gmsgs := s.gmsgs ++ [({ id := s.fresh, cluster := k, line := line, pa := s.linePa line, kind := .recall } : GMsg)] }.takeId) s

/-- The physical lines of storage locations. -/
def linesOf (ls : List Nat) : List Nat := (ls.map (· / 64)).eraseDups

/-- (R161) The lines of an access that gather somewhere. -/
def State.gathering (s : State) (ls : List Nat) : List Nat :=
  if s.hlines.isEmpty then [] else (linesOf ls).filter fun l => s.holders l != 0

/-- (R161, R167) Lines recalled for an access, which they hold until their flushes are applied. -/
def State.holdOn (s : State) (h : Holder) (lines : List Nat) : State :=
  lines.foldl (fun (s : State) l =>
    (s.recall l).updHolders l fun x => if x.held.contains h then x else { x with held := x.held ++ [h] }) s

/-- (R161) An access is held by no line any more. -/
def State.unhold (s : State) (h : Holder) : State :=
  { s with hlines := (s.hlines.map fun (x : HLine) => { x with held := x.held.filter (· != h) }).filter HLine.live }

/-- (R161) Whether each of some lines holds an access. -/
def State.heldBy (s : State) (h : Holder) (lines : List Nat) : Bool :=
  lines.all fun l => s.hlines.any fun x => x.line == l && x.held.contains h

/-- (R161) Whether what a home holds is still to come. -/
def State.toCome (s : State) : Holder → Bool
  | .op id => s.ops.any fun o => o.id == id && o.st == .held
  | .copy id => s.tiles.any fun (e : Nat × Tile) => e.2.cpq.any fun o => o.id == id
  | .matrix id => s.tiles.any fun (e : Nat × Tile) => e.2.mxq.any fun o => o.id == id
  | .commit j => s.staged.any fun g => g.job == j
  | .port seq => s.tether.rxBuf.any fun e => e.1 == seq

/-- (R167) Whether the home holds an access for a line. -/
def State.lineHolds (s : State) (line : Nat) : Bool := s.hlines.any fun h => h.line == line && h.held.any s.toCome

/-! ### The die memory caches -/

/-- (R17, R148) The set of a line (location / 256) in its die's cache, and whether a gathered line pins it (R161). -/
def cacheSet (line : Nat) : Nat := 16384 * homeDie (256 * line) + line % 16384
def State.pinned (s : State) (line : Nat) : Bool := s.hlines.any fun h => h.mask != 0 && h.line / 4 == line

/-- (R148, R149) A line comes to stand in its die's cache, as the one last used; with more than 16 in its set, the least recently
used one that is not pinned leaves (log 8). -/
def State.cacheLine (s : State) (line : Nat) : State :=
  let k := cacheSet line
  let l := ((s.cache.get [] k).filter (· != line)) ++ [line]
  match (if l.length ≤ 16 then none else l.find? fun x => !s.pinned x) with
  | none => { s with cache := s.cache.set k l }
  | some x => { s with cache := s.cache.set k (l.filter (· != x)), pfIn := s.pfIn.filter fun f => f.2 != x }

/-- (R149) A stream after a demand access to a line. -/
def Stream.next (x : Option Stream) (line : Nat) : Stream :=
  match x with
  | some x => if line = x.line then x else { line := line, up := line == x.line + 1, down := line + 1 == x.line }
  | none => { line := line, up := false, down := false }

/-- (R149) A demand access to a line: a prefetched line used, or an access ahead of its prefetch, is counted. -/
def State.demandLine (s : State) (line : Nat) : State :=
  let d := homeDie (256 * line)
  let s1 := if s.pfIn.contains (d, line) then { s with pfIn := s.pfIn.erase (d, line) }.countDie d 3
    else if s.pfFly.contains (d, line, true) then s.countDie d 4 else s
  { s1 with streams := s1.streams.set (line / 16) (Stream.next (s1.streams.get? (line / 16)) line) }.cacheLine line

/-- (R148, R149) A demand access to storage at the die memory caches. -/
def State.demand (s : State) (locs : List Nat) : State :=
  (((locs.filter fun l => !isSram l).map (· / 256)).eraseDups).foldl State.demandLine s

/-- (R148, R149) The lines that the prefetcher of a die may fetch: ahead of a stream of their granule, and not yet there. -/
def State.mayPrefetch (s : State) (die line : Nat) : Bool :=
  s.prefetch.contains die && homeDie (256 * line) == die && !isSram (256 * line)
    && !(s.cache.get [] (cacheSet line)).contains line && !s.pfFly.contains (die, line, true)
    && (match s.streams.get? (line / 16) with
      | some x => (x.up && x.line < line) || (x.down && line < x.line)
      | none => false)

/-! ### Performing at the home -/

/-- The number that the bytes at storage locations stand for, lowest first. -/
def readLocs (m : List Host.Cell) (ls : List Nat) : Nat := leNat (ls.map (Memory.read m))

/-- (R357) Whether a read of storage locations meets poison. -/
def State.poisonAt (s : State) (ls : List Nat) : Bool := ls.any fun l => s.poison.contains (l / 8)

/-- (R134, R150) Whether a home tile refuses a program access. -/
def State.ownedAway (s : State) (ls : List Nat) : Bool :=
  ls.any fun l => isSram l && (s.tile (l / 2 ^ 20)).ownerAt (l % 2 ^ 20) != 0

/-- (R162) The capacity of a home for staged doublewords. -/
def stageRoom (home : Nat) : Nat := if home < 576 then 256 else 65536

/-- (R162, R163) A provisional store is staged, or its home is full. -/
def State.stage (s : State) (o : MemOp) : State :=
  let loc := o.locs.headD 0
  let jid := o.job.getD 0
  let ph := (s.jobNo o.job).phase
  let same (g : Staged) : Bool := g.loc == loc && g.job == jid && g.phase == ph
  if s.staged.any same then
    ({ s with staged := updWhere same (fun g => { g with value := lo64 o.o1 }) s.staged }).dropOp o.id
  else if stageRoom (homeOf loc) ≤ (s.staged.filter fun g => g.home == homeOf loc).length then
    s.faultOp o .engine 1 o.addr
  else ({ s with
    staged := s.staged ++ [({ loc := loc, value := lo64 o.o1, job := jid, phase := ph, home := homeOf loc,
                              leaf := o.leaf } : Staged)] }).dropOp o.id

/-- (R152, R155 to R159) The record that an operation delivers for the number `v` that it read. -/
def MemOp.readRec (o : MemOp) (v : Nat) : Rec :=
  match o.kind with
  | .ldq f _ => { out := loadOut f v, aux := 0, stat := 0 }
  | .ldf _ => { out := ldfOut o.addr o.o2 v, aux := 0, stat := 0 }
  | .amo op w _ => amoRec op w v
  | _ => rec64 (BitVec.ofNat 64 v)

/-- (R134, R150, R156 to R159, R162, R164, R357) An operation performs at the storage `o.locs`. -/
def State.perform (s : State) (o : MemOp) : State :=
  let loc := o.locs.headD 0
  if s.ownedAway o.locs then s.faultOp o .owner 0 o.addr
  else match o.kind with
    | .ldq _ _ | .ldf _ | .lds _ =>
      if s.poisonAt o.locs then s.faultOp o .poison 0 o.addr else s.performed o (o.readRec (readLocs s.mem o.locs))
    | .store f => (s.storeLe loc (stBytes f) (lowBytes o.o1 (stBytes f)) true).performed o Rec.zero
    | .sts => (s.storeLe loc 8 (lo64 o.o1).toNat true).performed o Rec.zero
    | .stp => s.stage o
    | .amo op w _ =>
      if s.poisonAt o.locs then s.faultOp o .poison 0 o.addr
      else
        let n := if w then 4 else 8
        let old := readLocs s.mem o.locs
        (s.storeLe loc n (op.apply w old (lowBytes o.o1 n) o.o2.toNat) true).performed o (o.readRec old)
    | .red op =>
      let n := op.bytes
      (s.storeLe loc n (op.apply (readLocs s.mem o.locs) (lowBytes o.o1 n)) false).performed o Rec.zero
    | .touch | .fence _ => s.dropOp o.id

/-- A local operation whose turn has come performs in its tile. -/
def State.tryLocal (s : State) (o : MemOp) : State :=
  if s.opLocal o && s.mayGo o && o.st == .waiting then
    let o' := { o with locs := (o.kind.vas o.addr).map (s.jobNo o.job).tileLoc, hold := none }
    (s.updOp o.id fun _ => o').perform o'
  else s

/-! ### Starting -/

/-- The operation that the trigger starts. -/
def State.newOp (s : State) (unit : Nat) (k : MemKind) : MemOp :=
  let x := s.self
  let j := s.jobFor s.who
  { id := s.fresh, who := s.who, job := x.job, unit := unit, word := s.trig.word, slot := s.trig.slot, kind := k,
    addr := s.opT64, o1 := s.opPort unit 0, o2 := s.opPort64 unit 1, o3 := s.opPort64 unit 2, st := .waiting, locs := [],
    leaf := none, pas := [], res := Rec.zero, dbl := x.shadow.isSome
    hold := if k = .stp ∧ x.ptry = some j.phase then some j.phase else none, tag := 0, status := none }

/-- (R313) The tag of a remote atomic. -/
def atomicTag (c : Who) (seq : BitVec 10) : BitVec 24 :=
  BitVec.ofNat 24 (dieOf c.tile * 2 ^ 22 + rowOf c.tile * 2 ^ 18 + colOf c.tile * 2 ^ 14 + c.ctx * 2 ^ 12 + seq.toNat)

/-- (R313) The next tag given to a remote atomic. -/
def State.tagOp (s : State) (o : MemOp) : State × MemOp :=
  match o.kind with
  | .amo _ _ _ =>
    if s.opLocal o then (s, o)
    else (s.updCtx o.who fun x => { x with seq := x.seq + 1 }, { o with tag := atomicTag o.who (s.ctx o.who).seq })
  | _ => (s, o)

/-- (R48, R120, R152 to R159, R162, R164) A queued operation or remote store starts. -/
def State.startOp (s : State) (unit : Nat) (k : MemKind) : State :=
  let o := s.newOp unit k
  if k = .touch ∧ o.inTiles then s
  else
    let s1 := if k.delivers then s.expectRec (16 + unit) else s
    let (s2, o2) := s1.tagOp o
    let s3 := { s2 with ops := s2.ops ++ [o2] }.takeId
    if k.suppresses ∧ s.memFault s.who (unit == 6) k o.addr o.o2 o.o3 = some (FaultAt.at .tilemap o.addr) then
      s3.suppressed o2 .tilemap
    else s3.tryLocal o2

/-- Whether a mema trigger of the word has still to start. -/
def State.memaLeft (s : State) : Bool :=
  (s.restOf s.who).any fun k => match k with
    | .run _ i => unitOf i == 5
    | _ => false

/-- A task put behind the last task of a list that satisfies `p`. -/
def insertAfterLast (p : Task → Bool) (k : Task) (l : List Task) : List Task :=
  (l.reverse.dropWhile fun x => !p x).reverse ++ k :: (l.reverse.takeWhile fun x => !p x).reverse

/-- (R117) The memb trigger put off until the word's mema triggers have started. -/
def State.postpone (s : State) (i : Instr) : State :=
  let rest := wordRest s.who s.agenda
  let p (k : Task) : Bool := match k with
    | .run tr j => tr.late || unitOf j == 5
    | _ => false
  let task : Task := .run { s.trig with late := true } i
  if s.self.cont.any p then s.updSelf fun x => { x with cont := insertAfterLast p task x.cont }
  else { s with agenda := insertAfterLast p task rest ++ s.agenda.dropWhile (Task.inWord s.who) }

/-- The trigger that starts waits with its word's other triggers. -/
def State.await (s : State) (i : Instr) : State :=
  s.updSelf fun x => { x with cont := x.cont ++ [.run { s.trig with late := true } i] }

/-- (R117) Whether a mema or memb trigger of the word that stands before the present one, of unit `u`, waits. -/
def State.memBehind (s : State) (u : Nat) : Bool :=
  s.self.cont.any fun k => (k.unit == 5 || k.unit == 6) && (k.unit < u || (k.unit == u && k.slot < s.trig.slot))

/-- (R39, R117, R151, R165, R170) A mema or memb trigger: it faults, is put off to its place in the tile's order, waits there
for what holds it, for a wait, lock, pop, phase or drain of the word, or behind another access of the word that waits, or takes
effect. -/
def State.startMem (s : State) (u : Nat) (i : Instr) (f : Option FaultAt) (wait : Bool) (go : State → State) :
    Host.Outcome State Fault Refusal :=
  let act : State := if wait || s.acquiring s.who || s.memBehind u then s.await i else go s
  if s.trig.late then .next act
  else match f with
    | some f => .next (s.faultTrigger i f)
    | none => if u = 6 ∧ s.memaLeft then .next (s.postpone i) else .next act

/-- (R165, R170) Whether the trigger's operation, a local access, must wait. -/
def State.heldLocal (s : State) (k : MemKind) (p o3 : W64) : Bool :=
  (match k with
    | .touch | .fence _ => false
    | k => !k.cross o3 && s.isLocal s.who p) && s.gated s.who

/-- (R152, R153) A queued operation at its trigger. -/
def State.queueMem (s : State) (u : Nat) (i : Instr) (k : MemKind) : Host.Outcome State Fault Refusal :=
  let f := s.memFault s.who (u == 6) k s.opT64 (s.opPort64 u 1) (s.opPort64 u 2)
  let f' := if k.suppresses ∧ f = some (FaultAt.at .tilemap s.opT64) then none else f
  s.startMem u i f' (s.heldLocal k s.opT64 (s.opPort64 u 2)) fun s => s.startOp u k

/-- (R354) A faulted operation starts again with T, with every check of its start; a fault comes after start. -/
def State.restartOp (s : State) (o : MemOp) (t : W64) : State :=
  let o1 := { o with addr := t, st := .waiting, locs := [], status := none, hold := none, dbl := false }
  let s1 := s.updOp o.id fun _ => o1
  match s.memFault o.who false o.kind t o.o2 o.o3 with
  | some f =>
    if o.kind.suppresses && f.code == .tilemap then s1.suppressed o1 .tilemap
    else s1.faultOp o1 f.code f.info.toNat (f.f1.getD t)
  | none =>
    if o.kind = .touch ∧ o1.inTiles then s1.dropOp o.id
    else
      let (s2, o2) := s1.tagOp o1
      (s2.updOp o.id fun _ => o2).tryLocal o2

/-! ### The gather buffer -/

/-- (R160) A line of the gather buffer flushed: one FLUSH message. -/
def State.flushLine (s : State) (g : GLine) : State :=
  { s with
    glines := s.glines.filter fun x => !(x.cluster == g.cluster && x.line == g.line)
    gmsgs := s.gmsgs ++ [({ id := s.fresh, cluster := g.cluster, line := g.line, pa := g.pa, kind := .flush g.op g.elems g.ops } : GMsg)] }.takeId

/-- (R160) The contributor bit of a context. -/
def gatherBit (c : Who) : BitVec 32 := 1#32 <<< (4 * ringPos c.tile + c.ctx)

/-- The line of a cluster that gathers a physical line. -/
def State.gline? (s : State) (cl line : Nat) : Option GLine := s.glines.find? fun g => g.cluster == cl && g.line == line

/-- (R160) A line allocated: the least recently used one flushes where all 32 gather. -/
def State.allocLine (s : State) (cl line pa : Nat) (op : RedOp) : State :=
  let mine := s.glines.filter fun g => g.cluster == cl
  let s1 := if mine.length < 32 then s else match mine with
    | [] => s
    | g :: gs => s.flushLine (gs.foldl (fun a b => if b.stamp < a.stamp then b else a) g)
  { s1 with
    glines := s1.glines ++ [({ cluster := cl, line := line, op := op, elems := [], contrib := 0, ops := [], stamp := s1.fresh, pa := pa } : GLine)]
    gmsgs := s1.gmsgs ++ [({ id := s1.fresh, cluster := cl, line := line, pa := pa, kind := .join } : GMsg)] }.takeId

/-- (R160) A paged reduction enters its cluster's gather buffer. -/
def State.gather (s : State) (o : MemOp) (op : RedOp) : State :=
  let loc := o.locs.headD 0
  let cl := clusterOf o.who.tile
  let line := loc / 64
  let s1 := match s.gline? cl line with
    | some g => if g.op = op then s else (s.flushLine g).allocLine cl line o.pa op
    | none => s.allocLine cl line o.pa op
  let el := loc % 64 / op.bytes
  let a := BitVec.ofNat 64 (lowBytes o.o1 op.bytes)
  let put (g : GLine) : GLine :=
    { g with
      elems := g.elems.set el (match g.elems.get? el with
        | some v => BitVec.ofNat 64 (op.apply v.toNat a.toNat)
        | none => a)
      contrib := g.contrib ||| gatherBit o.who, ops := g.ops ++ [o.id], stamp := s1.fresh }
  ({ s1 with glines := updWhere (fun g => g.cluster == cl && g.line == line) put s1.glines }.updOp o.id fun x =>
    { x with st := .gathered }).takeId

/-- (R161, R167) An access arrives at its home: it performs, or recalls the lines that gather and waits for them, held by every line
that it touches. -/
def State.arrive (s : State) (o : MemOp) (go : State → State) : State :=
  match s.gathering o.locs with
  | [] => go s
  | _ => (s.holdOn (.op o.id) (linesOf o.locs)).updOp o.id fun x => { x with st := .held }

/-- (R161) The accesses that lines hold perform, oldest first, where none of their lines gathers any more. -/
def State.releaseHeld (s : State) (hs : List Holder) (go : State → MemOp → State) : State :=
  hs.foldl (fun (s : State) h => match h with
    | .op id => match s.op? id with
      | some o => if o.st == .held && (s.gathering o.locs).isEmpty then go (s.unhold h) o else s
      | none => s
    | _ => s) s

/-- (R159, R171) A FLUSH is applied: each valid element in ascending order. -/
def State.applyFlush (s : State) (line : Nat) (op : RedOp) (elems : Sparse W64) (ops : List Nat) : State :=
  let s1 := elems.foldl (fun (s : State) (e : Nat × W64) =>
    let loc := 64 * line + op.bytes * e.1
    s.storeLe loc op.bytes (op.apply (Memory.readLe s.mem loc op.bytes) e.2.toNat) false) (s.demand [64 * line])
  { s1 with ops := s1.ops.filter fun o => !ops.contains o.id }

/-- (R160, R165, R166, R170, R171, R188) Whether something waits for a gathered reduction: a fence or an access of its context that
it precedes, a drain, an arrival, a release, or a context that has halted or is being saved. -/
def State.wanted (s : State) (o : MemOp) : Bool :=
  let x := s.ctx o.who
  x.block.contains .drain || x.arriving.isSome || x.exit.isSome || x.job != o.job
    || (match (s.jobNo o.job).st with
        | .running => false
        | _ => true)
    || s.ops.any (fun y => o.precedes y && (match y.kind with
        | .fence _ => true
        | _ => !y.done && o.before y))
    || s.evreqs.any (fun e => e.who == o.who && o.id < e.id)
    || s.msgs.any (fun m => m.who == o.who && m.rls && m.st == .waiting && o.id < m.id)

/-- (R160) The first line that must flush because something waits for it. -/
def State.flushDue (s : State) : Option GLine :=
  s.glines.find? fun g => g.ops.any fun id => match s.op? id with
    | some o => s.wanted o
    | none => false

/-! ### Fences and drains -/

/-- (R173) Whether storage has its home inside a scope, seen from a tile. -/
def insideScope (scope tile loc : Nat) : Bool :=
  if 4 ≤ scope then true
  else if scope = 3 then homeDie loc == dieOf tile
  else if !isSram loc then false
  else if scope = 2 then clusterOf (loc / 2 ^ 20) == clusterOf tile
  else loc / 2 ^ 20 == tile

/-- (R173, R325) Whether an atomic goes to a member of the phase group in another package. -/
def State.opAbroad (s : State) (o : MemOp) : Bool :=
  o.kind.cross o.o3 && o.o3.toNat % 256 != (s.jobNo o.job).member

/-- (R165, R173) Whether an operation has performed at a scope. Only the system scope holds the homes of another package. -/
def State.performedAt (s : State) (scope : Nat) (o : MemOp) : Bool :=
  match o.kind with
  | .touch => true
  | .fence _ => false
  | _ =>
    if s.settled o then true
    else if o.st == .faulted then false
    else if s.opAbroad o then scope < 5 && o.st != .waiting
    else if o.inTiles then
      if 4 ≤ scope || (o.kind.vas o.addr).all (fun va => insideScope scope o.who.tile ((s.jobNo o.job).tileLoc va)) then false
      else s.mayGo o
    else match o.st with
      | .waiting | .cow => false
      | _ => !o.locs.any (insideScope scope o.who.tile)

/-- (R165, R188, R353) Whether every access of a job's context before an identifier has performed at a scope. Where what asks was
triggered in a handler, `dbl`, it does not wait for what waits for the handler's return (log 27). -/
def State.fenced (s : State) (c : Who) (job : Option Nat) (id scope : Nat) (dbl : Bool) : Bool :=
  s.ops.all fun o => !(o.who == c && o.job == job && o.id < id) || s.performedAt scope o
    || (dbl && !o.dbl && (s.stuck c).contains o.id)

/-- (R166) Whether the accesses of a context before an identifier meet the conditions of a drain; `faults` tells whether those that
have faulted do. -/
def State.drainedBefore (s : State) (c : Who) (id : Nat) (faults : Bool) : Bool :=
  s.ops.all fun o => !(o.who == c && o.job == (s.ctx c).job && o.id < id)
    || (match o.kind with
        | .touch | .fence _ => true
        | _ => o.st == .faulted && faults)
    || ((s.ctx c).shadow.isSome && (s.stuck c).contains o.id)

/-- (R166, R353) Whether a context's drain can end: no access is left but, in a handler, those that wait for its return, and no
fault is left that can be delivered. -/
def State.drained (s : State) (c : Who) : Bool :=
  s.drainedBefore c s.fresh false && (s.ctx c).deliverable.isNone

/-! ### The miss tables -/

/-- (R146) The miss of an address by a die: that of the page which the table has already, or of the page that the middle-level entry
makes it. -/
def State.missOf (s : State) (die asid va : Nat) : Miss :=
  let level := match s.middle asid va true die with
    | .ok (m, _) => if m.getLsbD 0 && m.getLsbD 3 then 1 else 2
    | .error _ => 2
  (s.misses.find? fun m => m.die == die && m.asid == asid && m.page == va / 2 ^ pageBits m.level).getD
    { die := die, asid := asid, level := level, page := va / 2 ^ pageBits level }

/-- (R146) Whether an operation waits for an entry of the miss table. -/
def State.missLive (s : State) (m : Miss) : Bool :=
  s.ops.any fun o => o.st == .waiting && dieOf o.who.tile == m.die && (s.jobNo o.job).asid.toNat == m.asid
    && (o.kind.vas o.addr).any fun va => va / 2 ^ pageBits m.level == m.page

/-- (R146) The entries of a die's miss table, oldest first; whether one is walked, and whether there is room for another. -/
def State.missTable (s : State) (die : Nat) : List Miss := s.misses.filter fun m => m.die == die && s.missLive m
def State.walking (s : State) (m : Miss) : Bool := ((s.missTable m.die).take 128).contains m
def State.missRoom (s : State) (die : Nat) : Bool := (s.missTable die).length < 256

/-- (R146) Whether an engine of a tile waits with some addresses: one that the TLBs miss needs a walker, and its die has none free. -/
def State.walkWaits (s : State) (tile asid : Nat) (vas : List Nat) : Bool :=
  128 ≤ s.misses.length && 128 ≤ (s.missTable (dieOf tile)).length
    && vas.any fun va => !isTileVa va && (s.tlbHit tile asid va).isNone

/-! ### The ways of engines -/

/-- (R148) The home switches of storage, each location with its physical address. -/
def homesOf (locs : List (Nat × Nat)) : List Nat := (locs.map fun l => homeSwitch l.1 l.2).eraseDups

/-- (R9, R328, R363) Whether the requests of a tile's engine reach home switches now: no link on their way and back retrains, and no
request has entered one of the switches by a higher port in this tile cycle. -/
def State.engineOpen (s : State) (tile : Nat) (homes : List Nat) : Bool :=
  !s.heldOn (tripLinks tile homes) && s.portsFree tile homes

/-- (R148) The home switches of an operation's bytes. -/
def MemOp.homes (o : MemOp) : List Nat := homesOf ((List.range o.locs.length).map fun i => (o.locs.getD i 0, o.pas.getD i 0))

end Sys2Proof.Machine
end

