-- ==== Sys2Proof/Machine/Yarn.lean ====
section
/-! DEFINITION. The yarn engine sxu (R267 to R288), and the spindles that cvt draws on too (R236, R238). -/

namespace Sys2Proof.Machine

/-! ### Spindles -/

/-- (R271) bitrev_k of a number. -/
def bitrev : Nat → Nat → Nat
  | 0, _ => 0
  | k + 1, x => x % 2 * 2 ^ k + bitrev k (x / 2)

/-- (R271) next(s, k): the spindle after the draw and its value. -/
def Spindle.next (p : Spindle) (k : Nat) : Spindle × Nat :=
  if p.mode then
    let st := p.state >>> 1
    let st' := if p.state.getLsbD 0 then st ^^^ 0xB400 else st
    ({ p with state := st' }, st'.toNat / 2 ^ (16 - k))
  else
    ({ p with state := p.state + 1 }, Nat.xor (bitrev k (p.state.toNat % 2 ^ k)) (p.key.toNat % 2 ^ k))

/-- A spindle of a context. -/
def Ctx.spindle (x : Ctx) (n : Nat) : Spindle := x.spindles.get Spindle.init n

/-- A spindle written. -/
def Ctx.setSpindle (x : Ctx) (n : Nat) (p : Spindle) : Ctx := { x with spindles := x.spindles.set n p }

/-- (R278) Bits `i` on of a spin: each draw below `v` gives a one. -/
def spinFrom : Nat → Nat → Spindle → Nat → Nat → Nat → Spindle × Nat
  | 0, _, p, _, _, acc => (p, acc)
  | n + 1, i, p, k, v, acc =>
    let d := p.next k
    spinFrom n (i + 1) d.1 k v (if d.2 < v then acc + 2 ^ i else acc)

/-! ### Yarns and lineages -/

/-- (R270) A yarn of a context, and a yarn written. -/
def Ctx.yarn (x : Ctx) (n : Nat) : Yarn := x.yarns.get Yarn.init n
def Ctx.setYarn (x : Ctx) (n : Nat) (y : Yarn) : Ctx := { x with yarns := x.yarns.set n y }.mark 35

/-- (R270) L of a yarn, and its ones. -/
def Yarn.len (y : Yarn) : Nat := 2 ^ y.k
def Yarn.ones (y : Yarn) : Nat := (List.range y.len).countP fun i => y.bits.getLsbD i

/-- (R275) The epoch recorded for a spindle. -/
def Lineage.epoch (l : Lineage) (n : Nat) : BitVec 8 := l.ep.extractLsb' (8 * n) 8

/-- (R278) The lineage of a spin from one spindle. -/
def Lineage.fresh (n : Nat) (e : BitVec 8) : Lineage :=
  { mask := 1#4 <<< n, mix := 0, ep := e.setWidth 32 <<< (8 * n) }

/-- (R275) The descriptor of a length and a lineage. -/
def descriptor (k : Nat) (l : Lineage) : W64 :=
  BitVec.ofNat 64 (k % 16 * 2 ^ 44 + l.mix.toNat * 2 ^ 36 + l.mask.toNat * 2 ^ 32 + l.ep.toNat)

/-- (R275, R283) The lineage of an array header; the epoch of a spindle outside MASK has no part in it. -/
def lineageOf (d : W64) : Lineage :=
  { mask := d.extractLsb' 32 4, mix := d.extractLsb' 36 4, ep := d.setWidth 32 }

/-- (R276) Whether two lineages conflict at a spindle. -/
def conflictAt (a b : Lineage) (n : Nat) : Bool :=
  a.mask.getLsbD n && b.mask.getLsbD n && (a.epoch n == b.epoch n || a.mix.getLsbD n || b.mix.getLsbD n)

/-- (R276, R285) The spindles in conflict, as bits. -/
def conflicts (a b : Lineage) : Nat := ((List.range 4).map fun n => if conflictAt a b n then 2 ^ n else 0).sum

/-- (R276) union(a, b). -/
def Lineage.union (a b : Lineage) : Lineage :=
  let mixed (n : Nat) : Nat := if a.mask.getLsbD n && b.mask.getLsbD n && a.epoch n != b.epoch n then 2 ^ n else 0
  let ep (n : Nat) : Nat :=
    (if a.mask.getLsbD n then (a.epoch n).toNat else if b.mask.getLsbD n then (b.epoch n).toNat else 0) * 2 ^ (8 * n)
  { mask := a.mask ||| b.mask, mix := a.mix ||| b.mix ||| BitVec.ofNat 4 ((List.range 4).map mixed).sum,
    ep := BitVec.ofNat 32 ((List.range 4).map ep).sum }

/-! ### The op word -/

/-- (R274) The bits of an op word that must be zero. -/
def opWordBad (t : W64) : Bool := (t &&& ~~~0x337777#64) != 0

def opYd (t : W64) : Nat := t.toNat % 8
def opYa (t : W64) : Nat := t.toNat / 16 % 8
def opYb (t : W64) : Nat := t.toNat / 256 % 8
def opYc (t : W64) : Nat := t.toNat / 4096 % 8
def opSp (t : W64) : Nat := t.toNat / 2 ^ 16 % 4
def opBip (t : W64) : Bool := t.getLsbD 20
def opHold (t : W64) : Bool := t.getLsbD 21

/-! ### The engine queue -/

/-- (R269) An operation enters the tile's engine queue; one that delivers has its record's place (R268). -/
def State.startSx (s : State) (k : SxKind) : State :=
  let s1 := match k with
    | .silent => s
    | _ => s.expectRec 11
  (s1.updSelfTile fun t =>
    { t with
      sxq := t.sxq ++ [{ id := s.fresh, who := s.who, job := s.self.job, word := s.trig.word, slot := s.trig.slot,
                         t := s.opT64, kind := k, dbl := s.self.shadow.isSome }] }).takeId

/-- (R55) Whether a further record of an engine would be the ninth. -/
def State.ninth (s : State) (key : Nat) : Bool := 8 ≤ s.self.bank.records key

/-- (R55, R268, R274) A form that delivers: an op word's reserved bits come first, the ninth record last. -/
def State.sxDeliver (s : State) (i : Instr) (bad : Option FaultAt) (r : Rec) (go : State → State) :
    Host.Outcome State Fault Refusal :=
  match bad with
  | some f => .next (s.faultTrigger i f)
  | none => if s.ninth 11 then .next (s.faultTrigger i (FaultAt.engine 2 s.opT64)) else .next ((go s).startSx (.ready r))

/-- A form that delivers nothing. -/
def State.sxSilent (s : State) (i : Instr) (bad : Option FaultAt) (go : State → State) : Host.Outcome State Fault Refusal :=
  match bad with
  | some f => .next (s.faultTrigger i f)
  | none => .next ((go s).startSx .silent)

/-- (R274) The fault of an op word's reserved bits. -/
def State.opWordFault (s : State) : Option FaultAt := if opWordBad s.opT64 then some (FaultAt.at .xword s.opT64) else none

/-- (R278, R279) A yarn spun at length `k` with value `v` from the op word's spindle. -/
def Ctx.spinYarn (x : Ctx) (t : W64) (k v : Nat) : Ctx :=
  let n := opSp t
  let p := x.spindle n
  let d := spinFrom (2 ^ k) 0 p k v 0
  let p' := if opHold t then { d.1 with state := p.state } else d.1
  (x.setSpindle n p').setYarn (opYd t) { k := k, bits := BitVec.ofNat 4096 d.2, lin := Lineage.fresh n p.epoch }

/-- (R278) v of spin. -/
def spinValue (u : Int) (k : Nat) : Nat := (min (max u 0) (2 ^ k)).toNat

/-- (R278) v of spinb. -/
def spinbValue (u : Int) (k : Nat) : Nat := (min (max u (-(2 ^ k / 2))) (2 ^ k / 2) + 2 ^ k / 2).toNat

/-- (R280, R285) The first length mismatch of the pairs. -/
def lenFault (x : Ctx) (ps : List (Nat × Nat)) : Option FaultAt :=
  (ps.find? fun p => (x.yarn p.1).k != (x.yarn p.2).k).map fun p =>
    FaultAt.plain .yarnlen ((x.yarn p.1).k + 16 * (x.yarn p.2).k)

/-- (R280, R285) The first lineage conflict of the pairs. -/
def lotFault (x : Ctx) (ps : List (Nat × Nat)) : Option FaultAt :=
  (ps.find? fun p => conflicts (x.yarn p.1).lin (x.yarn p.2).lin != 0).map fun p =>
    FaultAt.plain .dyelot (conflicts (x.yarn p.1).lin (x.yarn p.2).lin + 16 * p.1 + 256 * p.2)

/-- (R280) A bitwise form over yarns: the pairs whose lengths and whose lineages are checked, the bits, the lineage. -/
def State.combine (s : State) (i : Instr) (lens lots : List (Nat × Nat)) (f : Ctx → BitVec 4096) (lin : Ctx → Lineage) :
    Host.Outcome State Fault Refusal :=
  let x := s.self
  s.sxSilent i ((s.opWordFault.or (lenFault x lens)).or (lotFault x lots)) fun s =>
    s.updSelf fun x => x.setYarn (opYd s.opT64) { k := (x.yarn (opYa s.opT64)).k, bits := f x, lin := lin x }

/-- (R280) Bits 0 to L − 1. -/
def Ctx.yarnMask (x : Ctx) (n : Nat) : BitVec 4096 := BitVec.ofNat 4096 (2 ^ (x.yarn n).len - 1)

/-- (R280) A form on YA and YB. -/
def State.combine2 (s : State) (i : Instr) (check : Bool) (f : BitVec 4096 → BitVec 4096 → BitVec 4096) :
    Host.Outcome State Fault Refusal :=
  let a := opYa s.opT64
  let b := opYb s.opT64
  s.combine i [(a, b)] (if check then [(a, b)] else []) (fun x => f (x.yarn a).bits (x.yarn b).bits &&& x.yarnMask a)
    (fun x => (x.yarn a).lin.union (x.yarn b).lin)

/-! ### Arrays -/

/-- The first fault of a list of checks. -/
def firstFault (l : List (Option FaultAt)) : Option FaultAt := l.findSome? id

/-- (R284) The first fault of sdot's checks at a start: orders 1 to 5, each for o1, then for o2, and the job's
window (R332). -/
def State.sdotFault (s : State) (c : Who) (t a b : W64) : Option FaultAt :=
  let j := s.jobFor c
  let each (bad : W64 → Bool) (f : W64 → FaultAt) : Option FaultAt := ([a, b].find? bad).map f
  firstFault
    [if opWordBad t then some (FaultAt.at .xword t) else none,
     each (fun p => (p.extractLsb' 60 4) != 12) (FaultAt.engine 11),
     each (fun p => !canonical p) (FaultAt.at .noncanon),
     each (fun p => !s.isLocal c p) (FaultAt.at .nonlocal),
     each (fun p => vaOf p % 64 != 0) (FaultAt.at .align),
     each (fun p => !j.inWindow (vaOf p)) (FaultAt.at .tilemap)]

/-- (R283) An array as its header declares it. -/
structure YarnArray where
  desc : W64
  n : Nat
  zero : Bool
  deriving DecidableEq, Repr

/-- (R283) The header at a location. -/
def State.yarnHeader (s : State) (loc : Nat) : YarnArray :=
  { desc := BitVec.ofNat 64 (Memory.readLe s.mem loc 8), n := Memory.readLe s.mem (loc + 8) 4,
    zero := (Memory.readBytes s.mem (loc + 12) 52).all (· == 0) }

/-- (R275) K of a header. -/
def YarnArray.k (h : YarnArray) : Nat := (h.desc.extractLsb' 44 4).toNat

/-- (R284) Order 7. -/
def YarnArray.bad (h : YarnArray) : Bool :=
  !h.zero || (h.desc.extractLsb' 48 16) != 0 || (h.desc.extractLsb' 40 4) != 0 || h.k < 4 || 12 < h.k || h.n == 0

/-- (R283, R284) The bytes of an array, header included: of a header whose K is out of range only the header, which orders 6 and 7
look at. -/
def YarnArray.size (h : YarnArray) : Nat := if h.k < 4 || 12 < h.k then 64 else 64 + h.n * 2 ^ (h.k - 3)

/-- (R276) The lineage that a header declares: an epoch counts only where MASK is set. -/
def YarnArray.lin (h : YarnArray) : Lineage := lineageOf h.desc

/-- The swatches of the job that an array touches, up to the end of the tile's space. -/
def arraySwatches (p : W64) (size : Nat) : List Nat :=
  let off := vaOf p % 2 ^ 20
  let last := min (off + size) (2 ^ 20) - 1
  (List.range (last / 4096 + 1 - off / 4096)).map fun i => off / 4096 + i

/-- (R284, R332, R357) The first fault of sdot's checks after its start. -/
def State.sdotLate (s : State) (c : Who) (a b : W64) : Option FaultAt :=
  let j := s.jobFor c
  let loc (p : W64) : Nat := sramLoc c.tile (j.physOff (vaOf p))
  let ha := s.yarnHeader (loc a)
  let hb := s.yarnHeader (loc b)
  let ps := [(a, ha), (b, hb)]
  let each (bad : W64 × YarnArray → Bool) (f : W64 → FaultAt) : Option FaultAt := (ps.find? bad).map fun p => f p.1
  let cf := conflicts ha.lin hb.lin
  firstFault
    [each (fun p => (arraySwatches p.1 p.2.size).any fun w => j.swcnt ≤ w) (FaultAt.at .tilemap),
     each (fun p => (arraySwatches p.1 p.2.size).any fun w => (s.tile c.tile).ownerAt ((4096 * (j.swbase + w)) % 2 ^ 20) != 2)
       (FaultAt.at .owner),
     each (fun p => p.2.bad) (FaultAt.engine 12),
     each (fun p => 2 ^ 20 < vaOf p.1 % 2 ^ 20 + p.2.size) (FaultAt.at .nonlocal),
     if ha.k != hb.k || ha.n != hb.n then
       some { FaultAt.at .yarnlen a with info := BitVec.ofNat 16 (ha.k + 16 * hb.k + if ha.n != hb.n then 256 else 0) }
     else none,
     if cf != 0 then some { FaultAt.at .dyelot a with info := BitVec.ofNat 16 (cf + 2048) } else none,
     each (fun p => s.poisoned (loc p.1) p.2.size) (FaultAt.at .poison)]

/-- The ones of a byte. -/
def byteOnes (b : Byte) : Nat := (List.range 8).countP fun i => b.getLsbD i

/-- (R284) The sum of sdot. -/
def State.sdotSum (s : State) (c : Who) (a b : W64) (bip : Bool) : Nat :=
  let j := s.jobFor c
  let loc (p : W64) : Nat := sramLoc c.tile (j.physOff (vaOf p))
  let n := (s.yarnHeader (loc a)).size - 64
  let x := Memory.readBytes s.mem (loc a + 64) n
  let y := Memory.readBytes s.mem (loc b + 64) n
  ((x.zip y).map fun (p : Byte × Byte) => byteOnes (if bip then ~~~(p.1 ^^^ p.2) else p.1 &&& p.2)).sum

/-- (R284, R353) An sdot faults after its start. -/
def State.faultSdot (s : State) (o : SxOp) (f : FaultAt) : State :=
  s.raiseLate o.who o.job
    { code := f.code, info := f.info, f1 := f.f1.getD o.t, f2 := o.t, word := o.word, slot := o.slot, rank := o.id,
      dbl := o.dbl, op := .sdot o }

/-- (R285, R354) A retried sdot starts again with T. -/
def State.restartSdot (s : State) (o : SxOp) (t : W64) : State :=
  let o1 := { o with t := t, dbl := false }
  match o.kind with
  | .sdot a b => match s.sdotFault o.who t a b with
    | some f => s.faultSdot o1 f
    | none => s.updTile o.who.tile fun y => { y with sxq := y.sxq ++ [o1] }
  | _ => s

/-! ### Settings -/

/-- (R272) key. -/
def execSxuKey (s : State) : Host.Outcome State Fault Refusal :=
  let t := s.opT64
  let mode := t.getLsbD 24
  let key := t.setWidth 16
  let bad := (t &&& ~~~0x103FFFF#64) != 0 || (mode && key == 0)
  s.sxSilent .sxuKey (if bad then some (FaultAt.at .xword t) else none) fun s => s.updSelf fun x =>
    x.setSpindle (opSp t)
      { key := key, mode := mode, epoch := (x.spindle (opSp t)).epoch + 1, state := if mode then key else 0 }

/-- (R273) ylen. -/
def execYlen (s : State) : Host.Outcome State Fault Refusal :=
  let t := s.opT64
  let yl := t.toNat % 16
  let dk := t.toNat / 2 ^ 16 % 32
  let bad := (t &&& ~~~0x1F030F#64) != 0 || yl < 4 || 12 < yl || dk < 4 || 16 < dk
  s.sxSilent .ylen (if bad then some (FaultAt.at .xword t) else none) fun s => s.updSelf fun x => x.updBank fun b =>
    { b with ylen := t.setWidth 4, dsp := t.extractLsb' 8 2, dk := t.extractLsb' 16 5 }

/-! ### Making yarns -/

/-- (R278) spin. -/
def execSpin (s : State) : Host.Outcome State Fault Refusal :=
  s.sxSilent .spin s.opWordFault fun s =>
    s.updSelf fun x => x.spinYarn s.opT64 x.bank.ylen.toNat (spinValue (s.opPort64 11 0).toInt x.bank.ylen.toNat)

/-- (R278) spinb. -/
def execSpinb (s : State) : Host.Outcome State Fault Refusal :=
  s.sxSilent .spinb s.opWordFault fun s =>
    s.updSelf fun x => x.spinYarn s.opT64 x.bank.ylen.toNat (spinbValue (s.opPort64 11 0).toInt x.bank.ylen.toNat)

/-- (R279) respin. -/
def execRespin (s : State) : Host.Outcome State Fault Refusal :=
  let y := s.self.yarn (opYa s.opT64)
  s.sxDeliver .respin s.opWordFault (rec64 (BitVec.ofNat 64 y.ones)) fun s =>
    s.updSelf fun x => x.spinYarn s.opT64 y.k y.ones

/-! ### Combining yarns -/

/-- (R280) knit. -/
def execKnit (s : State) : Host.Outcome State Fault Refusal := s.combine2 .knit true fun a b => a &&& b

/-- (R280) knit.cor. -/
def execKnitCor (s : State) : Host.Outcome State Fault Refusal := s.combine2 .knitCor false fun a b => a &&& b

/-- (R280) xnor. -/
def execXnor (s : State) : Host.Outcome State Fault Refusal := s.combine2 .xnor true fun a b => ~~~(a ^^^ b)

/-- (R280) or. -/
def execYarnOr (s : State) : Host.Outcome State Fault Refusal := s.combine2 .yarnOr true fun a b => a ||| b

/-- (R280, R285) mux. -/
def execMux (s : State) : Host.Outcome State Fault Refusal :=
  let a := opYa s.opT64
  let b := opYb s.opT64
  let c := opYc s.opT64
  s.combine .mux [(c, a), (c, b)] [(c, a), (c, b)]
    (fun x => ((x.yarn c).bits &&& (x.yarn b).bits) ||| (~~~(x.yarn c).bits &&& (x.yarn a).bits))
    (fun x => ((x.yarn a).lin.union (x.yarn b).lin).union (x.yarn c).lin)

/-- (R280) purl. -/
def execPurl (s : State) : Host.Outcome State Fault Refusal :=
  let a := opYa s.opT64
  s.combine .purl [] [] (fun x => ~~~(x.yarn a).bits &&& x.yarnMask a) (fun x => (x.yarn a).lin)

/-! ### Reading yarns -/

/-- (R281) count. -/
def execCount (s : State) : Host.Outcome State Fault Refusal :=
  let y := s.self.yarn (opYa s.opT64)
  let v : Int := if opBip s.opT64 then (y.ones : Int) - (y.len / 2 : Nat) else y.ones
  s.sxDeliver .count s.opWordFault (rec64 (BitVec.ofInt 64 v)) id

/-- (R281) yinfo. -/
def execYinfo (s : State) : Host.Outcome State Fault Refusal :=
  let y := s.self.yarn (opYa s.opT64)
  s.sxDeliver .yinfo s.opWordFault (rec64 (descriptor y.k y.lin)) id

/-- (R282) The sixteen weights. -/
def weights (vs : List W64) : List Nat := vs.flatMap fun v => (List.range 4).map fun j => v.toNat / 2 ^ (16 * j) % 2 ^ 16

/-- (R282) The smallest j with w0 + … + wj > t. -/
def category : List Nat → Nat → Nat
  | [], _ => 0
  | w :: ws, t => if t < w then 0 else category ws (t - w) + 1

/-- (R282) draw. -/
def execDraw (s : State) : Host.Outcome State Fault Refusal :=
  let ws := weights [s.opPort64 11 0, s.opPort64 11 1, s.opPort64 11 2, s.opT64]
  let b := s.self.bank
  let d := (s.self.spindle b.dsp.toNat).next b.dk.toNat
  let out := if ws.sum = 0 then 16 else category ws (d.2 * ws.sum / 2 ^ b.dk.toNat)
  s.sxDeliver .draw none { rec64 (BitVec.ofNat 64 out) with stat := BitVec.ofNat 64 d.2 } fun s =>
    s.updSelf fun x => x.setSpindle b.dsp.toNat d.1

/-- (R284) sdot. -/
def execSdot (s : State) : Host.Outcome State Fault Refusal :=
  let a := s.opPort64 11 0
  let b := s.opPort64 11 1
  match s.sdotFault s.who s.opT64 a b with
  | some f => .next (s.faultTrigger .sdot f)
  | none =>
    if s.ninth 11 then .next (s.faultTrigger .sdot (FaultAt.engine 2 s.opT64))
    else .next (s.startSx (.sdot a b))

/-! ### The engine -/

/-- (R268, R269, R284) SXU_OP_COMPLETE: the oldest operation of the queue has been served. -/
def execSxuOpComplete (tile : Nat) (id : Nat) (s : State) : Host.Outcome State Fault Refusal :=
  match (s.tile tile).sxq with
  | o :: rest =>
    if o.id = id then
      let s1 := s.updTile tile fun t => { t with sxq := rest }
      match o.kind with
      | .silent => .next s1
      | .ready r => .next (s1.landRec o.who 11 o.id r)
      | .sdot a b => match s.sdotLate o.who a b with
        | some f => .next (s1.faultSdot o f)
        | none => .next (s1.landRec o.who 11 o.id (rec64 (BitVec.ofNat 64 (s.sdotSum o.who a b (opBip o.t) % 2 ^ 32))))
    else .next s
  | [] => .next s

end Sys2Proof.Machine
end

