-- ==== Sys2Proof/Machine/Copy.lean ====
section
/-! DEFINITION. The copy unit cpy and the edge engines (R289 to R302), and trail codes (R360 to R362). -/

namespace Sys2Proof.Machine

/-! ### Trail codes -/

/-- (R360) The CRC after one more bit. -/
def crcBit (c : BitVec 16) (b : Bool) : BitVec 16 :=
  let top := c.getLsbD 15
  let c' := c <<< 1
  if top != b then c' ^^^ 0x1021 else c'

/-- (R360) The CRC of bytes, most significant bits first. -/
def crc16 (bs : List Byte) : BitVec 16 :=
  bs.foldl (fun c b => (List.range 8).foldl (fun c i => crcBit c (b.getLsbD (7 - i))) c) 0xFFFF

/-- (R362) Whether a line that has a trail code no longer fits it. -/
def State.trailBad (s : State) (line : Nat) : Bool :=
  match s.trail.get? line with
  | some c => crc16 (Memory.readBytes s.mem (64 * line) 64) != c
  | none => false

/-- (R361) A line that is written whole receives a code. -/
def State.setTrail (s : State) (line : Nat) : State :=
  { s with trail := s.trail.set line (crc16 (Memory.readBytes s.mem (64 * line) 64)) }

/-- The lines of which every byte stands in a list of locations. -/
def wholeLines (ls : List Nat) : List Nat :=
  (linesOf ls).filter fun l => (ls.filter fun x => x / 64 == l).eraseDups.length == 64

/-! ### The shape word -/

/-- (R291) Fields of the shape word, the output row length and the pitches. -/
def cpNarrow (w : W64) : Nat := w.toNat % 4
def cpSide (w : W64) : Bool := w.getLsbD 2
def cpLen (w : W64) : Nat := (w.extractLsb' 4 20).toNat
def cpCount (w : W64) : Nat := (w.extractLsb' 24 16).toNat
def cpStride (w : W64) : Nat := (w.extractLsb' 40 24).toNat
def cpOut (w : W64) : Nat := if cpNarrow w = 0 then cpLen w else cpLen w / 2
def cpSrcPitch (w : W64) : Nat := if cpSide w then cpLen w else cpStride w
def cpDstPitch (w : W64) : Nat := if cpSide w then cpStride w else cpOut w

/-- (R290, R292) Order 1. -/
def shapeWordBad (t w : W64) : Bool :=
  16 ≤ t.toNat || w.getLsbD 3 || cpLen w == 0 || cpCount w == 0 || cpNarrow w == 3 || (cpNarrow w != 0 && cpLen w % 4 != 0)
    || (cpSide w && cpStride w < cpOut w)

/-- (R133, R292, R332) Whether a row of `n` bytes at a virtual address stays where it may. -/
def Job.rowOk (j : Job) (va n : Nat) : Bool :=
  let last := (va + n - 1) % 2 ^ 48
  if isTileVa va || isTileVa last then
    isTileVa va && va / 2 ^ 20 % 2 ^ 10 == 0 && (j.tileOf va).isSome && va % 2 ^ 20 + n ≤ 2 ^ 20
      && va % 2 ^ 20 + n ≤ 4096 * j.swcnt
  else true

/-- (R291) The virtual address of a row. -/
def rowVa (p : W64) (pitch row : Nat) : Nat := (vaOf p + row * pitch) % 2 ^ 48

/-- (R292) Order 4 for one side. -/
def Job.rowsOk (j : Job) (p : W64) (pitch n count : Nat) : Bool := (List.range count).all fun r => j.rowOk (rowVa p pitch r) n

/-- (R296) A reel. -/
def Tile.reel (t : Tile) (n : Nat) : Reel := t.reels.get Reel.init n

/-- (R332) The fault of a reel outside the job's share. -/
def Job.reelFault (j : Job) (t : W64) : Option FaultAt :=
  if j.reelx.getLsbD (t.toNat % 16) then some (FaultAt.engine 23 t) else none

/-- (R292, R332) The checks of push and try, of a reel of a size. -/
def State.copyFaultAt (s : State) (c : Who) (t : W64) (size : Nat) (src dst sh : W64) : Option FaultAt :=
  let j := s.jobFor c
  let sp := cpSrcPitch sh
  let dp := cpDstPitch sh
  let noncanon (p : W64) : Option FaultAt := if canonical p then none else some (FaultAt.at .noncanon p)
  firstFault
    [if shapeWordBad t sh then some (FaultAt.at .xword sh) else none, j.reelFault t,
     if size = 0 then some (FaultAt.engine 16 t) else none, noncanon src, noncanon dst,
     if j.rowsOk src sp (cpLen sh) (cpCount sh) then none else some (FaultAt.at .tilemap src),
     if j.rowsOk dst dp (cpOut sh) (cpCount sh) then none else some (FaultAt.at .tilemap dst),
     if cpNarrow sh != 0 && (vaOf src % 4 != 0 || sp % 4 != 0) then some (FaultAt.at .align src) else none,
     if cpNarrow sh != 0 && (vaOf dst % 2 != 0 || dp % 2 != 0) then some (FaultAt.at .align dst) else none]

/-- (R292, R332) The checks of push and try. -/
def State.copyFault (s : State) (c : Who) (t src dst sh : W64) : Option FaultAt :=
  s.copyFaultAt c t ((s.tile c.tile).reel (t.toNat % 16)).size src dst sh

/-! ### Acceptance -/

/-- (R293) Whether a request of a reel can be accepted. -/
def Tile.copyRoom (t : Tile) (reel : Nat) : Bool :=
  let r := t.reel reel
  t.cpq.length < 64 && (r.pushed - r.released).toNat < r.size

/-- (R293, R296) A request accepted. -/
def State.acceptCopy (s : State) (o : CopyReq) : State :=
  (s.updTile o.who.tile fun t =>
    let r := t.reel o.reel
    { t with
      cpq := t.cpq ++ [{ o with id := s.fresh, k := r.pushed, place := r.pushAt, st := .offered, refused := 0, age := 0 }]
    }.setReel o.reel { r with pushed := r.pushed + 1, pushAt := (r.pushAt + 1) % r.size }).takeId

/-- The request that the trigger makes. -/
def State.newCopy (s : State) : CopyReq :=
  { id := s.fresh, rank := s.fresh, who := s.who, job := s.self.job, word := s.trig.word, slot := s.trig.slot, src := s.opPort64 12 0,
    dst := s.opPort64 12 1, shape := s.opPort64 12 2, t := s.opT64, reel := s.opT64.toNat % 16, k := 0, place := 0, st := .offered,
    refused := 0, age := 0, dbl := s.self.shadow.isSome }

/-- (R55) The ninth record of cpy. -/
def State.cpNinth (s : State) : Option FaultAt := if s.ninth 12 then some (FaultAt.engine 2 s.opT64) else none

/-- (R300, R353) A request faults after its start. -/
def State.faultCopy (s : State) (o : CopyReq) (code : Flt) (info : Nat) (f1 : W64) : State :=
  s.raiseLate o.who o.job
    { code := code, info := BitVec.ofNat 16 info, f1 := f1, f2 := o.t, word := o.word, slot := o.slot, rank := o.rank,
      dbl := o.dbl, op := .copy o }

/-- The request of a retried push that waits for acceptance (R300). -/
def Block.request? : Block → Option CopyReq
  | .copy o => some o
  | _ => none

/-- (R300) A retried request is presented with T: it faults, is accepted, or goes on waiting. -/
def State.presentCopy (s : State) (c : Who) : State :=
  match (s.ctx c).block.findSome? Block.request? with
  | some o =>
    let o1 := { o with reel := o.t.toNat % 16, dbl := false }
    let go (s : State) : State := s.updCtx c fun x => { x with block := x.block.erase (.copy o) }
    match s.copyFault c o.t o.src o.dst o.shape with
    | some f => (go s).faultCopy { o1 with id := s.fresh } f.code f.info.toNat (f.f1.getD o.t)
    | none => if (s.tile c.tile).copyRoom o1.reel then go (s.acceptCopy o1) else s
  | none => s

/-! ### Performing -/

/-- A request of a tile's queue. -/
def State.copyReq? (s : State) (id : Nat) : Option (Nat × CopyReq) :=
  s.tiles.findSome? fun (e : Nat × Tile) => (e.2.cpq.find? fun o => o.id == id).map fun o => (e.1, o)

/-- A request changed. -/
def State.updCopy (s : State) (tile : Nat) (id : Nat) (f : CopyReq → CopyReq) : State :=
  s.updTile tile fun t => { t with cpq := updWhere (fun o => o.id == id) f t.cpq }

/-- The storage of a request's bytes, and the faults met: code, INFO and virtual address. -/
structure CpAcc where
  s : State
  /-- the storage of the bytes that have one, in address order, each with its physical and virtual address in `pas` and `vas` -/
  locs : List Nat
  pas : List Nat
  vas : List Nat
  last : Nat
  bad : List (Flt × Nat × Nat)

/-- (R150, R292, R357) One byte of a request. A byte of the granule of the byte before it stands next to that. -/
def CpAcc.byte (a : CpAcc) (o : CopyReq) (writes : Bool) (va : Nat) : CpAcc :=
  let j := a.s.jobNo o.job
  let put (a : CpAcc) (loc pa : Nat) : CpAcc :=
    { a with locs := a.locs ++ [loc], pas := a.pas ++ [pa], vas := a.vas ++ [va], last := va }
  let add (a : CpAcc) (loc pa : Nat) : CpAcc :=
    if let some l := a.s.downOn (tripLinks o.who.tile [homeSwitch loc pa]) then
      { put a loc pa with bad := a.bad ++ [(.link, downInfo l, va)] }
    else if !writes && a.s.poison.contains (loc / 8) then { put a loc pa with bad := a.bad ++ [(.poison, 0, va)] }
    else put a loc pa
  if isTileVa va then
    let loc := j.tileLoc va
    if (a.s.tile (loc / 2 ^ 20)).ownerAt (loc % 2 ^ 20) != 3 then
      { put a loc 0 with bad := a.bad ++ [(.owner, 0, va)] }
    else add a loc 0
  else if a.last + 1 = va ∧ va % 4096 ≠ 0 ∧ !isTileVa a.last then add a (a.locs.getLastD 0 + 1) (a.pas.getLastD 0 + 1)
  else match a.s.translateEngine o.who.tile j.asid.toNat va (if writes then .write else .read) with
    | (s1, .ok (loc, pa)) => add { a with s := s1 } loc pa
    | (s1, .error (c, l)) => { a with s := s1, last := 2 ^ 48, bad := a.bad ++ [(c, l, va)] }

/-- The virtual addresses of one side of a request, row by row. -/
def sideVas (p : W64) (pitch n count : Nat) : List Nat :=
  (List.range count).flatMap fun r => (List.range n).map fun b => (rowVa p pitch r + b) % 2 ^ 48

/-- (R291) The virtual addresses that a request reads, and that it writes. -/
def CopyReq.srcVas (o : CopyReq) : List Nat := sideVas o.src (cpSrcPitch o.shape) (cpLen o.shape) (cpCount o.shape)
def CopyReq.dstVas (o : CopyReq) : List Nat := sideVas o.dst (cpDstPitch o.shape) (cpOut o.shape) (cpCount o.shape)

/-- (R138, R292) The bytes of one side of a request. -/
def State.copySide (s : State) (o : CopyReq) (writes : Bool) : CpAcc :=
  (if writes then o.dstVas else o.srcVas).foldl (fun a va => a.byte o writes va)
    { s := s, locs := [], pas := [], vas := [], last := 2 ^ 48, bad := [] }

/-- (R148) The home switches of one side of a request. -/
def CpAcc.homes (a : CpAcc) : List Nat := homesOf (a.locs.zip a.pas)

/-- (R291) One unit of a copy: the storage that it reads and that it writes. -/
structure CpUnit where
  src : List Nat
  dst : List Nat
  deriving DecidableEq, Repr

/-- (R291) The units of a copy whose sides have storage `src` and `dst`. -/
def copyUnits (narrow : Nat) (src dst : List Nat) : List CpUnit :=
  if narrow = 0 then (src.zip dst).map fun (p : Nat × Nat) => { src := [p.1], dst := [p.2] }
  else (List.range (dst.length / 2)).map fun e => { src := (src.drop (4 * e)).take 4, dst := (dst.drop (2 * e)).take 2 }

/-- (R291, R299) What a unit writes, from the bytes that it read. -/
def unitBytes (narrow : Nat) (bs : List Byte) : List Byte :=
  if narrow = 0 then bs
  else leBytes 2 (((Fmt.fp32.val (leNat bs)).into (if narrow = 1 then .bf16 else .fp16) .rne false).bits)

/-- (R291) What a read of a location finds, at the n-th copy: where the same copy writes it, the read comes before
that write or after it. -/
def copyRead (m : List Host.Cell) (narrow n : Nat) (us : List CpUnit) : Nat → Nat → Byte
  | 0, loc => Memory.read m loc
  | d + 1, loc =>
    match us.find? fun u => u.dst.contains loc with
    | some u =>
      if Config.copyOrder n loc d then
        (unitBytes narrow (u.src.map (copyRead m narrow n us d))).getD (u.dst.idxOf loc) 0
      else Memory.read m loc
    | none => Memory.read m loc

/-- (R291, R299) The bytes that a copy writes, each with its location. `stopped` tells whether it ends early. -/
def copyWrites (m : List Host.Cell) (narrow n : Nat) (us : List CpUnit) (stopped : Bool) : List (Nat × Byte) :=
  let srcs := us.flatMap (·.src)
  us.flatMap fun u =>
    let bs := unitBytes narrow (u.src.map fun l => if us.any (fun v => v.dst.contains l) then copyRead m narrow n us us.length l
      else Memory.read m l)
    (u.dst.zip bs).filter fun (w : Nat × Byte) => !((stopped || srcs.contains w.1) && Config.copyKeep n w.1)

/-- Writes to rising locations gathered into runs of consecutive ones: first location and bytes. -/
def runsOf : List (Nat × Byte) → List (Nat × List Byte)
  | [] => []
  | (l, b) :: rest =>
    match runsOf rest with
    | (k, bs) :: rs => if k = l + 1 then (l, b :: bs) :: rs else (l, [b]) :: (k, bs) :: rs
    | [] => [(l, [b])]

/-- (R190, R357, R361) The writes of a copy performed; lines that they cover whole receive trail codes. -/
def State.copyStore (s : State) (ws : List (Nat × Byte)) : State :=
  let s1 := (runsOf ws).foldl (fun (s : State) (r : Nat × List Byte) => s.storeBytes r.1 r.2) s
  (wholeLines (ws.map (·.1))).foldl State.setTrail s1

/-- (R292, R300, R362) The fault that stops a copy: any of those that it meets, since the engine takes its bytes in
any order. A destination line of a source line whose trail code fails is not written. `vas` are the virtual addresses of the
bytes at `src`. -/
def State.copyFaults (s : State) (src : List Nat) (vas : List Nat) (bad : List (Flt × Nat × Nat)) : List (Flt × Nat × Nat) :=
  bad ++ ((wholeLines src).filter s.trailBad).map fun l =>
    (.trail, 0, (vas.zip src).foldr (fun (p : Nat × Nat) v => if p.2 = 64 * l then p.1 else v) 0)

/-- (R362) The destination locations that hold a line whose trail code failed. -/
def State.trailSkips (s : State) (us : List CpUnit) : List Nat :=
  let bad := (wholeLines (us.flatMap (·.src))).filter s.trailBad
  let hit := us.filter fun u => u.src.any fun l => bad.contains (l / 64)
  let lines := linesOf (hit.flatMap (·.dst))
  (us.flatMap (·.dst)).filter fun l => lines.contains (l / 64)

/-- A request has ended: its record waits for its turn (R296). -/
def State.endCopy (s : State) (tile : Nat) (o : CopyReq) (bytes : Nat) (code : Nat) : State :=
  s.updCopy tile o.id fun x => { x with st := .done (BitVec.ofNat 64 bytes) (BitVec.ofNat 8 code) }

/-- (R291 to R300) A copy performs as far as it comes: whole, or until a fault of its own or `stop` ends it. Its requests enter the
home switches of its bytes (R328). -/
def State.performCopy (s : State) (tile : Nat) (o : CopyReq) (stop : Option (Flt × Nat × W64)) : State :=
  let a := s.copySide o false
  let b := a.s.copySide o true
  let s1 := b.s.noteEntries o.who.tile (a.homes ++ b.homes)
  let n := s1.frees
  let bad := s1.copyFaults a.locs a.vas (a.bad ++ b.bad)
  let whole := a.bad.isEmpty && b.bad.isEmpty
  let us := if whole then copyUnits (cpNarrow o.shape) a.locs b.locs else []
  let skips := s1.trailSkips us
  let ws := (copyWrites s1.mem (cpNarrow o.shape) n us (stop.isSome || !bad.isEmpty)).filter fun w => !skips.contains w.1
  let s2 := (((wholeLines a.locs).filter s1.trailBad).foldl (fun (s : State) l => s.logFw 3 (64 * l)) ((s1.demand (a.locs ++ b.locs)).copyStore ws)).takeFree
  match stop with
  | some (c, i, a) => (s2.endCopy tile o 0 c.num).faultCopy o c i a
  | none => match bad[(s1.freeVal).toNat % bad.length]? with
    | some (c, i, va) => (s2.endCopy tile o 0 c.num).faultCopy o c i (BitVec.ofNat 64 va)
    | none => s2.endCopy tile o (cpCount o.shape * cpOut o.shape) 0

/-- The storage of a copy's bytes, and the home switches. -/
def State.copyLocs (s : State) (o : CopyReq) : List Nat := (s.copySide o false).locs ++ (s.copySide o true).locs
def State.copyHomes (s : State) (o : CopyReq) : List Nat := (s.copySide o false).homes ++ (s.copySide o true).homes

/-- (R161, R167) The lines of a copy that gather at a reduction's home. -/
def State.copyGathering (s : State) (o : CopyReq) : List Nat := if s.hlines.isEmpty then [] else s.gathering (s.copyLocs o)

/-- Whether a copy has been stopped. -/
def CpSt.stops : CpSt → Bool
  | .stopping _ _ _ => true
  | _ => false

/-- (R328, R363) Whether a copy can reach the homes of its bytes now. One that has been stopped sends no more requests; what it has
sent is at their routers. -/
def State.copyOpen (s : State) (o : CopyReq) : Bool :=
  (s.links.isEmpty && s.swIn.isEmpty)
    || (if o.st.stops then s.portsFree o.who.tile (s.copyHomes o) else s.engineOpen o.who.tile (s.copyHomes o))

/-- (R146, R161, R328, R363) Whether a copy waits: for a walker, for a link or a router on its way, or for lines that hold it. -/
def State.copyWaits (s : State) (o : CopyReq) : Bool :=
  s.walkWaits o.who.tile (s.jobNo o.job).asid.toNat (o.srcVas ++ o.dstVas) || !s.copyOpen o
    || (!(s.copyGathering o).isEmpty && s.heldBy (.copy o.id) (s.copyGathering o))

/-- (R161, R291, R300) A copy whose way is open ends as `stop` says, or is held by its lines that gather. -/
def State.endOrHold (s : State) (tile : Nat) (o : CopyReq) (stop : Option (Flt × Nat × W64)) : State :=
  if (s.copyGathering o).isEmpty then (s.performCopy tile o stop).unhold (.copy o.id) else s.holdOn (.copy o.id) (s.copyGathering o)

/-- (R161, R295, R300, R363) A copy that an engine performs is stopped: at once, or when its lines gather no more and the homes' routers
take it. -/
def State.stopCopy (s : State) (tile : Nat) (o : CopyReq) (code : Flt) (info : Nat) (f1 : W64) : State :=
  let s1 := s.updCopy tile o.id fun x => { x with st := .stopping code info f1 }
  let o1 := { o with st := .stopping code info f1 }
  if s1.copyWaits o1 then s1 else s1.endOrHold tile o1 (some (code, info, f1))

/-! ### Operations -/

/-- (R292, R293) push: its word has waited until the request can be accepted. -/
def execCpyPush (s : State) : Host.Outcome State Fault Refusal :=
  match s.copyFault s.who s.opT64 (s.opPort64 12 0) (s.opPort64 12 1) (s.opPort64 12 2) with
  | some f => .next (s.faultTrigger .cpyPush f)
  | none => .next (if s.selfTile.copyRoom (s.opT64.toNat % 16) then s.acceptCopy s.newCopy else s.await .cpyPush)

/-- (R293) try. -/
def execCpyTry (s : State) : Host.Outcome State Fault Refusal :=
  match (s.copyFault s.who s.opT64 (s.opPort64 12 0) (s.opPort64 12 1) (s.opPort64 12 2)).or s.cpNinth with
  | some f => .next (s.faultTrigger .cpyTry f)
  | none =>
    let room := s.selfTile.copyRoom (s.opT64.toNat % 16)
    let s1 := ((s.expectRec 12).landRec s.who 12 s.fresh (rec64 (if room then 0 else 1))).takeId
    .next (if room then s1.acceptCopy s1.newCopy else s1)

/-- (R290, R296) SIZE of reel.init, and whether its word is bad. -/
def reelSize (t : W64) : Nat := t.toNat / 256 % 128
def reelSizeBad (t : W64) : Bool := (t &&& ~~~0x7F0F#64) != 0 || reelSize t == 0 || 64 < reelSize t

/-- (R290, R296) reel.init. -/
def execReelInit (s : State) : Host.Outcome State Fault Refusal :=
  let t := s.opT64
  let r := s.selfTile.reel (t.toNat % 16)
  let bad := firstFault
    [if reelSizeBad t then some (FaultAt.at .xword t) else none,
     (s.jobFor s.who).reelFault t, if r.pushed != r.released then some (FaultAt.engine 19 t) else none]
  match bad with
  | some f => .next (s.faultTrigger .reelInit f)
  | none => .next (s.updSelfTile fun y => y.setReel (t.toNat % 16) { Reel.init with size := reelSize t })

/-- (R290, R298, R332) The checks that await and rel share. -/
def State.reelFaults (s : State) : List (Option FaultAt) :=
  let t := s.opT64
  [if 16 ≤ t.toNat then some (FaultAt.at .xword t) else none, (s.jobFor s.who).reelFault t,
   if (s.selfTile.reel (t.toNat % 16)).size = 0 then some (FaultAt.engine 16 t) else none]

/-- (R297) The record of a slot. -/
def slotRec (v : W64 × W64) : Rec := { rec64 v.1 with stat := v.2 }

/-- (R298) await. -/
def execAwait (s : State) : Host.Outcome State Fault Refusal :=
  let n := s.opT64.toNat % 16
  let r := s.selfTile.reel n
  match firstFault (s.reelFaults ++ [if r.awaited == r.pushed then some (FaultAt.engine 17 s.opT64) else none, s.cpNinth]) with
  | some f => .next (s.faultTrigger .await f)
  | none =>
    let filled := r.claims.isEmpty && (r.filled - r.awaited) != 0
    let r' := { r with awaited := r.awaited + 1, awaitAt := (r.awaitAt + 1) % r.size, claims := if filled then r.claims else r.claims ++ [(s.who, s.fresh)] }
    let s1 := (s.expectRec 12).updSelfTile fun y => y.setReel n r'
    .next (if filled then s1.landRec s.who 12 s.fresh (slotRec (r.slots.get (0, 0) r.awaitAt)) else s1).takeId

/-- (R174, R298) rel: the slot is refilled only after the context's earlier accesses have performed at tile scope. -/
def execRel (s : State) : Host.Outcome State Fault Refusal :=
  let n := s.opT64.toNat % 16
  let r := s.selfTile.reel n
  let claims := BitVec.ofNat 16 r.claims.length
  let none' := r.released == r.awaited - claims
  match firstFault (s.reelFaults ++ [if none' then some (FaultAt.engine 18 s.opT64) else none]) with
  | some f => .next (s.faultTrigger .rel f)
  | none => .next (s.updSelfTile fun y =>
      y.setReel n
        { r with
          released := r.released + 1, relAt := (r.relAt + 1) % r.size
          rels := r.rels.set r.relAt (s.who, s.self.job, s.fresh) })

/-- (R298) stat. -/
def execCpyStat (s : State) : Host.Outcome State Fault Refusal :=
  let t := s.opT64
  match firstFault [if 16 ≤ t.toNat then some (FaultAt.at .xword t) else none, (s.jobFor s.who).reelFault t, s.cpNinth] with
  | some f => .next (s.faultTrigger .cpyStat f)
  | none =>
    let r := s.selfTile.reel (t.toNat % 16)
    let out : W64 := r.released ++ r.awaited ++ r.filled ++ r.pushed
    let st := BitVec.ofNat 64 (r.size + (64 - s.selfTile.cpq.length) * 2 ^ 16)
    .next (((s.expectRec 12).landRec s.who 12 s.fresh (slotRec (out, st))).takeId)

/-! ### The engines -/

/-- (R174) Whether an access touches what a copy request writes: by its virtual addresses or its storage. -/
def State.copyMeets (s : State) (x : MemOp) (o : CopyReq) : Bool :=
  let dst := o.dstVas
  (x.kind.vas x.addr).any dst.contains || x.locs.any (s.copySide o true).locs.contains

/-- (R169, R174) Whether a request may refill its slot: the accesses of the context that released it, before its `rel`, have performed
at tile scope, and those to the slot's data, which the request writes, at their homes. -/
def State.mayRefill (s : State) (tile : Nat) (o : CopyReq) : Bool :=
  match ((s.tile tile).reel o.reel).rels.get? o.place with
  | some (c, job, id) => s.fenced c job id 1 false && s.ops.all fun x =>
      !(x.who == c && x.job == job && x.id < id) || s.settled x || !s.copyMeets x o
  | none => true

/-- (R174, R294) COPY_HANDOFF: one of the die's 16 engines takes a request. -/
def execCopyHandoff (id : Nat) (engine : Nat) (s : State) : Host.Outcome State Fault Refusal :=
  match s.copyReq? id with
  | some (tile, o) => .next (if o.st == .offered && engine < 16 && s.mayRefill tile o then s.updCopy tile id fun x => { x with st := .engine engine } else s)
  | none => .next s

/-- (R294) COPY_REFUSAL: an engine has no room and names a back-off time. -/
def execCopyRefusal (id : Nat) (backoff : Nat) (s : State) : Host.Outcome State Fault Refusal :=
  match s.copyReq? id with
  | some (tile, o) =>
    .next (if o.st == .offered then
        (s.updCopy tile id fun x => { x with st := .backoff backoff, refused := x.refused + 1 }).updTile tile fun t => t.count 5
      else s)
  | none => .next s

/-- (R294) COPY_BACKOFF_EXPIRY: the request is offered again. -/
def execCopyBackoffExpiry (id : Nat) (s : State) : Host.Outcome State Fault Refusal :=
  match s.copyReq? id with
  | some (tile, o) => .next (if o.st == .backoff 0 then s.updCopy tile id fun x => { x with st := .offered } else s)
  | none => .next s

/-- (R291, R300) COPY_COMPLETE: the engine has performed the request, or a fault has stopped it. -/
def execCopyComplete (id : Nat) (s : State) : Host.Outcome State Fault Refusal :=
  match s.copyReq? id with
  | some (tile, o) => match o.st with
    | .engine _ => .next (if s.copyWaits o then s else s.endOrHold tile o none)
    | .stopping c i f1 => .next (if s.copyWaits o then s else s.endOrHold tile o (some (c, i, f1)))
    | _ => .next s
  | none => .next s

/-- (R295) COPY_TIMEOUT: the request has been accepted for the job's copy timeout. -/
def execCopyTimeout (id : Nat) (s : State) : Host.Outcome State Fault Refusal :=
  match s.copyReq? id with
  | some (tile, o) =>
    let cto := (s.jobNo o.job).cto
    if cto ≠ 0 ∧ cto ≤ o.age then
      match o.st with
      | .done _ _ | .stopping _ _ _ => .next s
      | .engine _ => .next (s.stopCopy tile o .engine 20 o.src)
      | _ => .next ((s.endCopy tile o 0 0x16).faultCopy o .engine 20 o.src)
    else .next s
  | none => .next s

/-- (R296, R297) REEL_SLOT_FILL: the slot of the reel's next request in order fills, and its await's record lands. -/
def execReelSlotFill (tile : Nat) (reel : Nat) (s : State) : Host.Outcome State Fault Refusal :=
  let r := (s.tile tile).reel reel
  match (s.tile tile).cpq.find? fun o => o.reel == reel && o.k == r.filled with
  | some o => match o.st with
    | .done bytes code =>
      let stat := BitVec.ofNat 64 (min o.refused 65535 * 2 ^ 32 + o.k.toNat * 2 ^ 16 + code.toNat)
      let r' := { r with
        filled := r.filled + 1, fillAt := (r.fillAt + 1) % r.size, slots := r.slots.set r.fillAt (bytes, stat)
        claims := r.claims.drop 1 }
      let s1 := s.updTile tile fun t =>
        ({ t with cpq := t.cpq.filter fun x => x.id != o.id }.setReel reel r').mark (580 + reel)
      .next (match r.claims with
        | c :: _ => s1.landRec c.1 12 c.2 (slotRec (bytes, stat))
        | [] => s1)
    | _ => .next s
  | none => .next s

end Sys2Proof.Machine
end

