-- ==== Sys2Proof/Machine/Combine.lean ====
section
/-! DEFINITION. Requests on their way through switches (R327): combining (R312 to R317), the step at the home (R318, R328),
replies and replay filters (R323 to R325). -/

namespace Sys2Proof.Machine

/-! ### Combining -/

/-- (R312, R326) The bridle entries of a switch. -/
def switchRoom (sw : Nat) : Nat := if sw < 576 then 32 else 256

/-- (R158, R312) Whether an operation's form may combine. -/
def MemKind.combines : MemKind → Bool
  | .amo op _ nc => !nc && op != .cas && op != .fadd
  | _ => false

/-- (R312, R325) Whether an operation may combine: no cross-package atomic does. -/
def MemOp.combines (o : MemOp) : Bool := o.kind.combines && !o.kind.cross o.o3

/-- Whether an operation is an atomic. -/
def MemKind.isAmo : MemKind → Bool
  | .amo _ _ _ => true
  | _ => false

/-- (R316) comb(p, q). -/
def AmoOp.comb (op : AmoOp) (w32 : Bool) (p q : Nat) : Nat :=
  match op with
  | .swap => q
  | op => op.apply w32 p q 0

/-- (R316) ret(x, p). -/
def AmoOp.ret (op : AmoOp) (w32 : Bool) (x p : Nat) : Nat :=
  match op with
  | .swap => p
  | op => op.apply w32 x p 0

/-- The operation and width of an atomic. -/
def MemOp.amo (o : MemOp) : AmoOp × Bool :=
  match o.kind with
  | .amo op w _ => (op, w)
  | _ => (.add, false)

/-- A request by the identifier of its operation. -/
def State.areq? (s : State) (id : Nat) : Option AReq := s.areqs.find? fun r => r.id == id

/-- A request taken out. -/
def State.dropAreq (s : State) (id : Nat) : State := { s with areqs := s.areqs.filter fun r => r.id != id }

/-- (R315) Whether two operations touch an aligned doubleword in common. -/
def MemOp.near (x y : MemOp) : Bool := x.locs.any fun a => y.locs.any fun b => a / 8 == b / 8

/-- (R315) The youngest access queued in a switch that touches a doubleword of `o`. -/
def State.youngest (s : State) (sw : Nat) (o : MemOp) : Option AReq :=
  (s.areqs.filter fun r => r.at' == some sw && (match s.op? r.id with
    | some p => p.near o
    | none => false)).getLast?

/-- (R315) Whether request `r` of operation `o`, entering a switch, combines with request `p` of operation `q`. -/
def State.canCombine (s : State) (sw : Nat) (p : AReq) (q o : MemOp) : Bool :=
  q.combines && o.combines && q.locs.headD 0 == o.locs.headD 0 && q.pa == o.pa && q.kind == o.kind
    && (s.jobNo q.job).asid == (s.jobNo o.job).asid && (s.cycle - p.since).toNat ≤ p.window
    && (s.bridles.filter fun b => b.switch == sw).length < switchRoom sw

/-- (R316) Requests `p` and `r` combine in a switch. -/
def State.combineReqs (s : State) (sw : Nat) (p r : AReq) (o : MemOp) : State :=
  let (op, w) := o.amo
  let b : Bridle := { switch := sw, early := p.id, late := r.id, earlyTag := p.tag, lateTag := r.tag, kept := p.operand,
                      op := op, w32 := w, path := sw :: r.seen }
  let s1 := { s with
    bridles := b :: s.bridles
    areqs := updWhere (fun x => x.id == p.id)
      (fun x => { x with operand := BitVec.ofNat 64 (op.comb w p.operand.toNat r.operand.toNat) })
      (s.areqs.filter fun x => x.id != r.id) }
  s1.countDie (switchDie sw) 6

/-- (R315) A request enters a switch of its route: it combines there, or queues. -/
def State.joinSwitch (s : State) (r : AReq) (o : MemOp) (sw : Nat) (rest : List Nat) : State :=
  let window := if o.combines then (s.jobNo o.job).cw.toNat else 0
  let s1 := (s.dropAreq r.id).noteEntry r.at' sw
  let queued := { s1 with
    areqs := s1.areqs ++ [{ r with at' := some sw, path := rest, seen := sw :: r.seen, since := s.cycle, window := window }] }
  match s1.youngest sw o with
  | some p => match s1.op? p.id with
    | some q => if s1.canCombine sw p q o then s1.combineReqs sw p r o else queued
    | none => queued
  | none => queued

/-- (R314) Whether a request is the oldest of its switch to its doublewords. -/
def State.headOf (s : State) (r : AReq) (o : MemOp) : Bool :=
  match s.areqs.find? fun x => x.at' == r.at' && (match s.op? x.id with
      | some p => p.near o
      | none => false) with
  | some x => x.id == r.id
  | none => false

/-! ### Replies set out -/

/-- (R317) A reply sets out along switches. -/
def State.sendBack (s : State) (id : Nat) (path : List Nat) (v : Nat) (st : Option (Flt × BitVec 16)) : State :=
  { s.dropAreq id with areplies := s.areplies ++ [{ id := id, value := BitVec.ofNat 64 v, status := st, path := path }] }

/-- (R312) The home switch of an operation. -/
def MemOp.home (o : MemOp) : Nat := homeSwitch (o.locs.headD 0) o.pa

/-- (R9, R316, R317, R327) The way of a reply from the home: that of a request that can combine retraces the request's path; another
follows the fixed route. -/
def State.reply (s : State) (r : AReq) (o : MemOp) (v : Nat) (st : Option (Flt × BitVec 16)) : State :=
  s.sendBack r.id (if o.combines then o.home :: r.seen else route 3 o.home o.who.tile) v st

/-- (R322, R363, R364) A request ends before a link: an atomic's reply carries FLT_LINK back, another access faults. DESIGN CHOICE
(log 22): that reply retraces the switches of the request also where the form does not combine; the spec does not give its way. -/
def State.endRequest (s : State) (r : AReq) (o : MemOp) (info : Nat) : State :=
  if o.kind.isAmo then s.sendBack r.id r.seen 0 (some (.link, BitVec.ofNat 16 info))
  else (s.dropAreq r.id).faultOp o .link info o.addr

/-! ### Replay filters -/

/-- (R324) What a replay filter makes of a sequence number. -/
inductive Replay where
  /-- held: the stored reply is returned -/
  | held (value : W64)
  /-- not held, and older than every one held: not applied -/
  | tooOld
  /-- not held, and not older than every one held: applied and recorded -/
  | fresh
  deriving DecidableEq, Repr

/-- (R313, R387) Whether a sequence number, modulo `m`, comes before another: by less than half of `m`. -/
def seqBefore (m a b : Nat) : Bool := m / 2 ≤ (a + (m - b % m)) % m

/-- (R313, R387) The modulus of a source's sequence numbers: SEQ of the tether, SEQ of the tag. -/
def AmoSource.modulus : AmoSource → Nat
  | .host => 2 ^ 32
  | .peer _ _ _ => 1024

/-- (R48, R313, R324) By how much a request that is sent again can be older than a number that a filter holds: of a context's atomics
at most 32 are outstanding. DEDUCED (log 23). -/
def AmoSource.span : AmoSource → Nat
  | .host => 2 ^ 31
  | .peer _ _ _ => 32

/-- (R324) Whether a sequence number of a source is older than another. -/
def AmoSource.older (src : AmoSource) (a b : Nat) : Bool :=
  let d := (b + (src.modulus - a % src.modulus)) % src.modulus
  0 < d && d ≤ src.span

/-- (R324) Whether an entry belongs to a home's filter for a source. -/
def Applied.ofFilter (f : Applied) (src : AmoSource) (home : Nat) : Bool := f.source == src && f.home == home

/-- (R324) The filter of a home for a source, asked about a sequence number. DESIGN CHOICE (log 23): one that is not held, and is
neither newer nor older than every one held, has not been applied, and is. -/
def State.filtered (s : State) (src : AmoSource) (home seq : Nat) : Replay :=
  let mine := s.filters.filter fun f => f.ofFilter src home
  match mine.find? fun f => f.seq == seq with
  | some f => .held f.value
  | none => if !mine.isEmpty && mine.all fun f => src.older seq f.seq then .tooOld else .fresh

/-- (R324) A reply recorded in a filter of 64 entries: the oldest entry is dropped. -/
def State.record (s : State) (src : AmoSource) (home seq : Nat) (v : W64) : State :=
  let mine := (s.filters.filter fun f => f.ofFilter src home).take 63
  { s with
    filters := { source := src, home := home, seq := seq, value := v } :: mine ++ s.filters.filter fun f => !f.ofFilter src home }

/-! ### The home -/

/-- (R157, R318) The indivisible step of an atomic at storage `loc`: the old value and the state after. -/
def State.applyAmo (s : State) (op : AmoOp) (w32 : Bool) (loc a e : Nat) : State × Nat :=
  let n := if w32 then 4 else 8
  let old := Memory.readLe s.mem loc n
  ((s.demand [loc]).storeLe loc n (op.apply w32 old (a % 2 ^ (8 * n)) e) true, old)

/-- (R134, R150, R357) The status with which a home answers an atomic in place of a value. -/
def State.homeFault (s : State) (locs : List Nat) : Option Flt :=
  if s.ownedAway locs then some .owner else if s.poisonAt locs then some .poison else none

/-- (R318) A request is applied at its home, or answered with a status. -/
def State.applyReq (s : State) (r : AReq) (o : MemOp) : State :=
  match s.homeFault o.locs with
  | some f => s.reply r o 0 (some (f, 0))
  | none =>
    let (op, w) := o.amo
    let (s1, old) := s.applyAmo op w (o.locs.headD 0) r.operand.toNat o.o2.toNat
    s1.reply r o old none

/-- (R324, R325) A cross-package atomic's source and sequence number at its home. -/
def State.amoSource (s : State) (o : MemOp) : AmoSource := .peer ((s.jobNo o.job).id) (s.jobNo o.job).member o.who
def MemOp.amoSeq (o : MemOp) : Nat := o.tag.toNat % 1024

/-- (R324, R325) A cross-package atomic passes the filter of its home: only one that is applied is recorded. -/
def State.applyFiltered (s : State) (r : AReq) (o : MemOp) : State :=
  let home := homeOf (o.locs.headD 0)
  match s.filtered (s.amoSource o) home o.amoSeq with
  | .held v => s.reply r o v.toNat none
  | .tooOld => s.reply r o 0 (some (.amoApplied, 0))
  | .fresh =>
    let s1 := s.applyReq r o
    match s.homeFault o.locs with
    | some _ => s1
    | none => s1.record (s.amoSource o) home o.amoSeq ((s1.areplies.getLast?.map (·.value)).getD 0)

/-- (R134, R148, R161) An access performs at its home, or waits there for lines that gather. -/
def State.performHome (s : State) (o : MemOp) : State :=
  if o.kind == .stp then s.perform o else (s.demand o.locs).perform o

/-- (R318, R328) A request has come home: it is applied or performs, after the line's gathered copies (R161). -/
def State.comeHome (s : State) (r : AReq) (o : MemOp) : State :=
  if o.kind.isAmo then
    let r' := { r with at' := none, path := [] }
    let s1 := { s with areqs := updWhere (fun x => x.id == r.id) (fun _ => r') s.areqs }
    if o.kind.cross o.o3 then s1.applyFiltered r' o else s1.arrive o fun s => s.applyReq r' o
  else
    let s1 := s.dropAreq r.id
    if o.kind == .stp then s1.perform o else s1.arrive o fun s => s.performHome o

/-- (R161) An access that a line held performs. -/
def State.performHeld (s : State) (o : MemOp) : State :=
  if o.kind.isAmo then match s.areq? o.id with
    | some r => (s.updOp o.id fun x => { x with st := .moving }).applyReq r o
    | none => s
  else s.performHome o

/-! ### On the way -/

/-- (R363) Whether the next step of a request can be taken: its port is free, and the link before it does not retrain. -/
def State.canHop (s : State) (r : AReq) (o : MemOp) : Bool :=
  match r.path with
  | [] => false
  | sw :: _ => (r.at'.isNone || s.headOf r o) && s.portFree r.at' sw && !s.heldOn (r.at'.bind fun a => linkBetween a sw).toList

/-- (R315, R327, R328, R363, R364) A request takes the next step of its route: into a switch, where it combines or queues, or home. -/
def State.hop (s : State) (r : AReq) (o : MemOp) : State :=
  if !s.canHop r o then s
  else match r.path with
    | [] => s
    | sw :: rest => match s.downOn (r.at'.bind fun a => linkBetween a sw).toList with
      | some l => s.endRequest r o (downInfo l)
      | none => if rest.isEmpty then (s.noteEntry r.at' sw).comeHome r o else s.joinSwitch r o sw rest

/-- (R10, R363) The links between an operation's tile and the peer port that leads to the member it names. -/
def State.abroadLinks (s : State) (o : MemOp) : List Nat :=
  peerLinks o.who.tile (memberPort (s.jobNo o.job).group (o.o3.toNat % 256))

/-- A request of an operation that leaves its tile. -/
def MemOp.request (o : MemOp) (path : List Nat) : AReq :=
  { id := o.id, tag := o.tag, operand := lo64 o.o1, at' := none, since := 0, window := 0, path := path, seen := [] }

/-- (R312, R313, R327) A remote access leaves its tile by the switches of its route. -/
def State.departOp (s : State) (o : MemOp) : State :=
  let locs := if o.inTiles then (o.kind.vas o.addr).map (s.jobNo o.job).tileLoc else o.locs
  let o' := { o with st := .moving, locs := locs, hold := none }
  let r := o'.request (route 3 o.who.tile o'.home)
  let s1 := { s.updOp o.id fun _ => o' with areqs := s.areqs ++ [r] }
  if 1 < r.path.length then s1.hop r o' else s1

/-- (R157, R388) The atomic that a memb port names: operation, and whether it is 32 bits wide. -/
def atomicOf (port : Nat) : Option (AmoOp × Bool) :=
  match membOp port with
  | some (.amoAdd w _) => some (.add, w)
  | some (.amoAnd _) => some (.and, false)
  | some (.amoOr _) => some (.or, false)
  | some (.amoXor _) => some (.xor, false)
  | some (.amoMax _) => some (.max, false)
  | some (.amoMaxu _) => some (.maxu, false)
  | some (.amoMin _) => some (.min, false)
  | some (.amoMinu _) => some (.minu, false)
  | some (.amoSwap _) => some (.swap, false)
  | some .amoCas => some (.cas, false)
  | some .amoFadd => some (.fadd, true)
  | some .amoFaddLoose => some (.faddLoose, true)
  | _ => none

/-- (R157, R325) The memb port by which an atomic is named outside its package: the first of its operation and width. -/
def MemOp.atomicPort (o : MemOp) : Nat := ((List.range 64).find? fun p => atomicOf p == some o.amo).getD 0

/-- (R324, R325) A cross-package atomic as it leaves the package: the group, the member it goes to, the member, tile and context that
send it, its form, its address, its operands and its tag. -/
def MemOp.abroadWords (o : MemOp) (j : Job) : List W64 :=
  [BitVec.ofNat 64 j.group, o.o3 &&& 0xFF, BitVec.ofNat 64 j.member, BitVec.ofNat 64 (4 * o.who.tile + o.who.ctx),
   BitVec.ofNat 64 o.atomicPort, o.addr, lo64 o.o1, o.o2, o.tag.setWidth 64]

/-- (R325, R327, R364) A cross-package atomic leaves: to another package through a peer port, or as another request to this one's
home. -/
def State.leavePackage (s : State) (o : MemOp) : State :=
  let j := s.jobNo o.job
  if !s.opAbroad o then
    if (o.kind.vas o.addr).all j.mapped then s.departOp o else s.faultOp o .tilemap 0 o.addr
  else match s.downOn (s.abroadLinks o) with
    | some l => s.faultOp o .link (downInfo l) o.addr
    | none => { s.updOp o.id fun x => { x with st := .moving } with peerOut := s.peerOut ++ [(3, o.abroadWords j)] }

/-- Whether an operation can leave its tile now: a remote atomic, or another remote access that has not yet arrived. -/
def State.canDepart (s : State) (o : MemOp) : Bool :=
  !o.kind.isFence && !s.opLocal o && s.mayGo o && (o.st == .translated || (o.st == .waiting && o.inTiles))
    && !(s.opAbroad o && s.heldOn (s.abroadLinks o))

/-- (R314, R315) Whether a switch on the way of an access queues an older one to its doubleword: the access queues behind it. -/
def State.wayQueued (s : State) (o : MemOp) (locs : List Nat) : Bool :=
  let o' := { o with locs := locs }
  !s.areqs.isEmpty && s.areqs.any fun r => (match s.op? r.id with
      | some p => p.near o'
      | none => false) && (match r.at' with
        | some sw => (route 3 o.who.tile o'.home).contains sw
        | none => false)

/-- (R315) SWITCH_REQUEST_ENTRY: a request enters the first or the next switch of its route. -/
def execSwitchRequestEntry (id : Nat) (s : State) : Host.Outcome State Fault Refusal :=
  match s.op? id with
  | none => .next s
  | some o => match s.areq? id with
    | some r => .next (if 1 < r.path.length ∧ o.st = .moving then s.hop r o else s)
    | none =>
      .next (if s.canDepart o then (if o.kind.cross o.o3 then s.leavePackage o else s.departOp o) else s)

/-- (R314) COMBINE_WINDOW_EXPIRY: a request has waited its window, takes no further partner and goes on. -/
def execCombineWindowExpiry (id : Nat) (s : State) : Host.Outcome State Fault Refusal :=
  match s.areq? id, s.op? id with
  | some r, some o => .next (if r.path ≠ [] ∧ r.at'.isSome ∧ o.st = .moving then s.hop r o else s)
  | _, _ => .next s

/-! ### Other members of a phase group -/

/-- (R349) The job of this package that is a member of a phase group, while it is in place. -/
def State.memberJob (s : State) (grp member : Nat) : Option Job :=
  s.jobs.find? fun j => grp != 0 && j.group == grp && j.member == member && j.resident

/-- (R303, R309, R325) The number by which an answer leaves through a peer port, and its value. -/
def answerCode : PeerAnswer → Nat
  | .value _ => 0
  | .tilemap => Flt.tilemap.num
  | .owner => Flt.owner.num
  | .poison => Flt.poison.num
  | .closed => Flt.engine.num
  | .applied => Flt.amoApplied.num
  | .link _ => Flt.link.num
def answerVal : PeerAnswer → W64
  | .value v => v
  | .link info => BitVec.ofNat 64 info
  | _ => 0

/-- (R325) The answer to a visiting atomic leaves. -/
def State.answerAmo (s : State) (v : VisitAmo) (a : PeerAnswer) : State :=
  { s with
    peerOut := s.peerOut ++ [(7, [BitVec.ofNat 64 v.grp, BitVec.ofNat 64 v.source, BitVec.ofNat 64 (4 * v.who.tile + v.who.ctx),
      BitVec.ofNat 64 v.seq, BitVec.ofNat 64 (answerCode a), answerVal a])] }

/-- What comes of a request that another member has sent to a tile here. -/
inductive Visit where
  /-- it does not come in now -/
  | wait
  /-- it ends before a link that is down -/
  | ended (info : Nat)
  | comes
  deriving DecidableEq, Repr

/-- (R10, R328, R363, R364) How a request of a member gets from its peer port to a router here: nothing passes a peer port that is not
up, nor a link that retrains; the switch before a link that is down ends it, and the router takes it by no lower port than another of
this tile cycle. -/
def State.visit (s : State) (grp source u : Nat) : Visit :=
  let port := memberPort grp source
  if s.link (8 + port) != .up || s.heldOn (ioLinks (peerIo port) u) || !s.portOpen (ioPort (peerIo port) u) u then .wait
  else match s.downOn (ioLinks (peerIo port) u) with
    | some l => .ended (downInfo l)
    | none => .comes

/-- (R324, R325) An atomic of another member is applied at its home here: the member's tile map and swatch window apply, and the
home's replay filter passes it. -/
def State.visitAmo (s : State) (v : VisitAmo) (j : Job) (op : AmoOp) (w : Bool) : State :=
  let vas := (List.range (if w then 4 else 8)).map fun i => (vaOf v.addr + i) % 2 ^ 48
  let locs := vas.map j.tileLoc
  let home := homeOf (locs.headD 0)
  if !vas.all fun va => isTileVa va && j.mapped va then s.answerAmo v .tilemap
  else match s.visit v.grp v.source home with
  | .wait => s
  | .ended info => s.answerAmo v (.link info)
  | .comes =>
    let src : AmoSource := .peer j.id v.source v.who
    let s := s.notePort (ioPort (peerIo (memberPort v.grp v.source)) home) home
    match s.filtered src home v.seq with
    | .held x => s.answerAmo v (.value x)
    | .tooOld => s.answerAmo v .applied
    | .fresh => match s.homeFault locs with
      | some .owner => s.answerAmo v .owner
      | some _ => s.answerAmo v .poison
      | none =>
        let (s1, old) := s.applyAmo op w (locs.headD 0) v.x.toNat v.y.toNat
        (s1.record src home v.seq (BitVec.ofNat 64 old)).answerAmo v (.value (BitVec.ofNat 64 old))

/-- (R325, R363, R364) The answer to an atomic that went abroad: it is performed, or its reply carries a status. -/
def State.answered (s : State) (o : MemOp) (a : PeerAnswer) : State :=
  let done (st : Option (Flt × BitVec 16)) (v : Nat) : State :=
    s.updOp o.id fun x => { x with st := .performed, status := st, res := amoRec o.amo.1 o.amo.2 v }
  if s.heldOn (s.abroadLinks o) then s
  else match s.downOn (s.abroadLinks o), a with
    | some l, _ => done (some (.link, BitVec.ofNat 16 (downInfo l))) 0
    | none, .value v => done none v.toNat
    | none, .tilemap => done (some (.tilemap, 0)) 0
    | none, .owner => done (some (.owner, 0)) 0
    | none, .poison => done (some (.poison, 0)) 0
    | none, .applied => done (some (.amoApplied, 0)) 0
    | none, .link info => done (some (.link, BitVec.ofNat 16 info)) 0
    | none, .closed => s

/-- ATOMIC_APPLY (R318, R325): a home applies an atomic as one indivisible step: one of the package, which comes home with its last
hop, one of the package at a home abroad, whose answer comes, or one from abroad. -/
def execAtomicApply (a : AmoAt) (s : State) : Host.Outcome State Fault Refusal :=
  match a with
  | .here id => match s.areq? id, s.op? id with
    | some r, some o => .next (if r.path.length ≤ 1 ∧ o.st = .moving ∧ o.kind.isAmo then s.hop r o else s)
    | _, _ => .next s
  | .abroad id ans => match s.op? id with
    | some o => .next (if o.st = .moving ∧ s.opAbroad o then s.answered o ans else s)
    | none => .next s
  | .visit v => match s.memberJob v.grp v.member, atomicOf v.port with
    | some j, some (op, w) => .next (s.visitAmo v j op w)
    | _, _ => .next s

/-! ### Replies -/

/-- (R316, R317) The newest entry of a switch for a request. -/
def State.bridle? (s : State) (sw id : Nat) : Option Bridle := s.bridles.find? fun b => b.switch == sw && b.early == id

/-- A reply by its request, changed or taken out. -/
def State.dropReply (s : State) (id : Nat) : State := { s with areplies := s.areplies.filter fun r => r.id != id }

/-- The switches of a reply's path from the first one that holds an entry for its request. -/
def State.skipPlain (s : State) (id : Nat) : List Nat → List Nat
  | [] => []
  | sw :: rest => if (s.bridle? sw id).isSome then sw :: rest else s.skipPlain id rest

/-- (R157, R317) A reply reaches the tile of its request. -/
def State.replyHome (s : State) (r : AReply) : State :=
  (s.dropReply r.id).updOp r.id fun o =>
    { o with st := .performed, status := r.status, res := amoRec o.amo.1 o.amo.2 r.value.toNat }

/-- (R316, R317) A reply splits at a bridle entry, which is freed. -/
def State.split (s : State) (r : AReply) (b : Bridle) : State :=
  let late : AReply :=
    { id := b.late, value := BitVec.ofNat 64 (b.op.ret b.w32 r.value.toNat b.kept.toNat), status := r.status, path := b.path }
  { s with bridles := s.bridles.erase b, areplies := s.areplies ++ [late] }.countDie (switchDie b.switch) 7

/-- (R316, R317) A reply goes on to the switch of its next split, or to its tile. -/
def State.moveReply (s : State) (r : AReply) : State :=
  match s.skipPlain r.id r.path with
  | [] => s.replyHome r
  | sw :: rest =>
    let s1 := { s with areplies := updWhere (fun x => x.id == r.id) (fun x => { x with path := sw :: rest, status := r.status }) s.areplies }
    match s.bridle? sw r.id with
    | some b => s1.split { r with path := sw :: rest } b
    | none => s1

/-- The links that a reply crosses to its next split or its tile. -/
def State.replyLinks (s : State) (r : AReply) : List Nat :=
  pathLinks (r.path.take (r.path.length + 1 - (s.skipPlain r.id r.path).length))

/-- (R363) Whether a link on a reply's way retrains. -/
def State.replyHeld (s : State) (r : AReply) : Bool := s.heldOn (s.replyLinks r)

/-- (R316) REPLY_SPLIT: a reply splits at the next switch that combined its request, or reaches its tile. A link on
the way that is down turns its value into a status, and one that retrains holds it (R363, R364). -/
def execReplySplit (id : Nat) (s : State) : Host.Outcome State Fault Refusal :=
  match s.areplies.find? fun r => r.id == id with
  | none => .next s
  | some r =>
    if s.replyHeld r then .next s
    else match s.downOn (s.replyLinks r) with
      | some l => .next (s.moveReply { r with status := some (.link, BitVec.ofNat 16 (downInfo l)) })
      | none => .next (s.moveReply r)

end Sys2Proof.Machine
end

