-- ==== Sys2Proof/Machine/Matrix.lean ====
section
/-! DEFINITION. The matrix unit mxu (R243 to R266). -/

namespace Sys2Proof.Machine

/-! ### Cells and checksums -/

/-- (R243, R248) A cell of accumulator `m`. -/
def Tile.cell (t : Tile) (m i j : Nat) : W32 := t.cells.get 0 (4096 * m + 64 * i + j)

/-- (R260) A cell written, with the checksums of its row and column. -/
def Tile.setCell (t : Tile) (m i j : Nat) (v : W32) : Tile :=
  let d := v - t.cell m i j
  { t with
    cells := t.cells.set (4096 * m + 64 * i + j) v
    csum := t.csum.upd 0 (64 * m + i) (· + d)
    rsum := t.rsum.upd 0 (64 * m + j) (· + d) }.mark (64 * m + i)

/-- The sum of words modulo 2^32. -/
def wsum (l : List W32) : W32 := l.foldl (· + ·) 0

/-- (R260) The sums of row `i` and column `j` as the cells give them. -/
def Tile.rowSum (t : Tile) (m i : Nat) : W32 :=
  wsum ((t.cells.filter fun (e : Nat × W32) => e.1 / 64 == 64 * m + i).map (·.2))
def Tile.colSum (t : Tile) (m j : Nat) : W32 :=
  wsum ((t.cells.filter fun (e : Nat × W32) => e.1 / 4096 == m && e.1 % 64 == j).map (·.2))

/-- (R260) The checksums of an accumulator recomputed. -/
def Tile.recompute (t : Tile) (m : Nat) : Tile :=
  { t with
    csum := (List.range 64).foldl (fun (c : Sparse W32) i => c.set (64 * m + i) (t.rowSum m i)) t.csum
    rsum := (List.range 64).foldl (fun (c : Sparse W32) j => c.set (64 * m + j) (t.colSum m j)) t.rsum }

/-- (R259) The cells of rows 0 to `rows` − 1 of an accumulator written, and its checksums recomputed. -/
def Tile.fillRows (t : Tile) (m rows : Nat) (f : Nat → Nat → W32) : Tile :=
  let cs := (List.range rows).flatMap fun i => (List.range 64).map fun j => (4096 * m + 64 * i + j, f i j)
  ({ t with
    cells := t.cells.filter (fun (e : Nat × W32) => e.1 < 4096 * m) ++ cs
      ++ t.cells.filter (fun (e : Nat × W32) => 4096 * m + 64 * rows ≤ e.1) }.markRows m rows).recompute m

/-- (R261) The location of a checksum mismatch, if there is one. -/
def Tile.mismatch (t : Tile) (m : Nat) : Option Nat :=
  let rows := (List.range 64).filter fun i => t.csum.get 0 (64 * m + i) != t.rowSum m i
  let cols := (List.range 64).filter fun j => t.rsum.get 0 (64 * m + j) != t.colSum m j
  if rows.isEmpty && cols.isEmpty then none
  else some (rows.headD 0 * 2 ^ 8 + cols.headD 0 + if 1 < rows.length ∨ 1 < cols.length then 2 ^ 15 else 0)

/-! ### Descriptors and checks -/

/-- (R248) Fields of the shape descriptor. -/
def shK (w : W64) : Nat := (w.extractLsb' 0 13).toNat
def shM (w : W64) : Nat := (w.extractLsb' 16 7).toNat
def shN (w : W64) : Nat := (w.extractLsb' 24 7).toNat
def shAcc (w : W64) : Nat := (w.extractLsb' 32 3).toNat

/-- (R248) A shape word that raises FLT_XWORD. -/
def shapeBad (w : W64) : Bool :=
  (w &&& ~~~0x77F7F1FFF#64) != 0 || shN w == 0 || 64 < shN w || shM w == 0 || 64 < shM w || shK w == 0 || 4096 < shK w

/-- (R131, R209) Whether a format is an SQ format. -/
def isSq (f : Nat) : Bool := 9 ≤ f && f ≤ 11

/-- (R247) Whether the formats of A and B form a pairing; `rec` for mrun. -/
def pairing (rc : Bool) (a b : Nat) : Bool :=
  (a == b && (a == 5 || a == 6)) || (rc && a == 4 && b == 4)
    || (!rc && ((a == 7 || a == 8) && (b == 7 || b == 8) || (a == 11 && b == 11) || (a == 9 || a == 10) && (b == 9 || b == 10)))

/-- (R252) KC. -/
def chunkLen (a : W64) : Nat := if isSq (ptrFmt a) then blkElems (ptrBlk a) else 16

/-- (R253) The pointer concerned by order 2. DESIGN CHOICE (log 11): A's where the shape is zero or two legal formats do not pair. -/
def badFmtPtr (a b : W64) : W64 :=
  let bad (p : W64) : Bool := ptrFmt p == 0 || 12 ≤ ptrFmt p
  if !bad a && bad b then b else a

/-- (R253) Order 2. -/
def order2 (rc : Bool) (shape a b : W64) : Option FaultAt :=
  if shape = 0 ∨ !pairing rc (ptrFmt a) (ptrFmt b) then some (FaultAt.engine 8 (badFmtPtr a b)) else none

/-- (R245, R332) The fault of an accumulator outside the job's share. -/
def Job.accFault (j : Job) (t : W64) (acc : Nat) : Option FaultAt :=
  if j.accx.getLsbD acc then some (FaultAt.engine 23 t) else none

/-- (R253, R332) Orders 3 to 6, and the job's window. DESIGN CHOICE (log 11): of order 5, whose fault concerns both operands, FREC1 is B's
pointer. -/
def State.operandFault (s : State) (c : Who) (shape a b : W64) (as bs : W32) : Option FaultAt :=
  let j := s.jobFor c
  let each (bad : W64 → Bool) (f : W64 → FaultAt) : Option FaultAt := ([a, b].find? bad).map f
  let sq := isSq (ptrFmt a)
  let misaligned (p : W64) (st : W32) : Bool := !sq && (p.toNat % fmtBytes (ptrFmt p) != 0 || st.toNat % fmtBytes (ptrFmt p) != 0)
  firstFault
    [each (fun p => !canonical p || (isSq (ptrFmt p) && ptrBlk p == 3)) (FaultAt.at .noncanon),
     each (fun p => isTileVa (vaOf p) && !s.isLocal c p) (FaultAt.at .nonlocal),
     if sq && (ptrBlk a != ptrBlk b || shK shape % chunkLen a != 0) then some (FaultAt.engine 9 b) else none,
     if misaligned a as then some (FaultAt.at .align a) else none,
     if misaligned b bs then some (FaultAt.at .align b) else none,
     each (fun p => isTileVa (vaOf p) && !j.inWindow (vaOf p)) (FaultAt.at .tilemap)]

/-- (R253) The checks of mma, mmz and mrun with the operand T. -/
def State.runFault (s : State) (c : Who) (rc : Bool) (t shape a b : W64) (as bs : W32) : Option FaultAt :=
  firstFault
    [if t != 0 then some (FaultAt.at .xword t) else none, order2 rc shape a b, (s.jobFor c).accFault t (shAcc shape),
     s.operandFault c shape a b as bs]

/-- (R263) Fields of a progress word. -/
def pgAcc (t : W64) : Nat := (t.extractLsb' 32 3).toNat
def pgK0 (t : W64) : Nat := (t.extractLsb' 0 13).toNat
def pgI (t : W64) : Nat := (t.extractLsb' 16 6).toNat
def pgJ (t : W64) : Nat := (t.extractLsb' 24 6).toNat
def pgRec (t : W64) : Bool := t.getLsbD 37
def pgZ (t : W64) : Bool := t.getLsbD 38

/-- (R265) The checks of mresume. -/
def State.resumeFault (s : State) (c : Who) (t shape a b : W64) (as bs : W32) : Option FaultAt :=
  firstFault
    [if !t.getLsbD 63 || (t &&& ~~~0x800000673F3F1FFF#64) != 0 then some (FaultAt.at .xword t) else none,
     (s.jobFor c).accFault t (pgAcc t), order2 (pgRec t) shape a b, s.operandFault c shape a b as bs,
     if pgAcc t != shAcc shape || shK shape ≤ pgK0 t || pgK0 t % chunkLen a != 0 || shM shape ≤ pgI t || shN shape ≤ pgJ t
     then some (FaultAt.engine 10 t) else none]

/-- (R259, R332) The checks of an mfill or mdrain region of `rows` rows at a pointer. -/
def State.regionFault (s : State) (c : Who) (p : W64) (rows : Nat) : Option FaultAt :=
  let off := vaOf p % 2 ^ 20
  firstFault
    [if !canonical p then some (FaultAt.at .noncanon p) else none,
     if !s.isLocal c p then some (FaultAt.at .nonlocal p) else none,
     if off % 256 != 0 then some (FaultAt.at .align p) else none,
     if 2 ^ 20 < off + 256 * rows then some (FaultAt.at .nonlocal p) else none,
     if 4096 * (s.jobFor c).swcnt < off + 256 * rows then some (FaultAt.at .tilemap p) else none]

/-! ### The matrix queue -/

/-- (R244, R251) The operation that a trigger starts, with the descriptors that it copies. -/
def State.newMx (s : State) (k : MxKind) (acc : Nat) : MxOp :=
  let b := s.self.bank
  { id := s.fresh, who := s.who, job := s.self.job, word := s.trig.word, slot := s.trig.slot, kind := k, acc := acc,
    t := s.opT64, o1 := s.opPort64 10 0, a := b.mxA, as := b.mxAs, b := b.mxB, bs := b.mxBs, shape := b.mxShape,
    prog := b.mxProg, const := b.mxConst, k0 := 0, i := 0, j := 0, z := k == .mmz, verify := false
    dbl := s.self.shadow.isSome }

/-- (R249) Whether an operation writes its accumulator. -/
def MxKind.writes : MxKind → Bool
  | .mdrain _ | .mrd _ _ => false
  | _ => true

/-- (R252, R257) Whether an operation runs the loop nest, and with the cell step of mrun. -/
def MxKind.runs : MxKind → Bool
  | .mma | .mmz | .mrun | .mresume _ => true
  | _ => false
def MxKind.isRec : MxKind → Bool
  | .mrun | .mresume true => true
  | _ => false

/-- (R249) An accumulator's state. -/
def Tile.acc (t : Tile) (m : Nat) : AccSt := t.accs.get .idle m

/-- (R249) An accumulator is Busy. -/
def Tile.accBusy (t : Tile) (m : Nat) : Bool :=
  match t.acc m with
  | .busy _ _ => true
  | _ => false

/-- (R249) The progress that an mresume keeps. -/
def AccSt.prior (a : AccSt) (k : MxKind) : Option MxOp :=
  match a, k with
  | .stopped o, .mresume _ => some o
  | _, _ => none

/-- (R249, R251) An operation enters the queue. -/
def Tile.enterMx (t : Tile) (o : MxOp) : Tile :=
  { t with
    mxq := t.mxq ++ [o]
    accs := if o.kind.writes then t.accs.set o.acc (.busy o.id ((t.acc o.acc).prior o.kind)) else t.accs }.mark (600 + o.acc)

/-- (R251) The trigger's operation enters the queue. -/
def State.startMx (s : State) (o : MxOp) : State := (s.updSelfTile fun t => t.enterMx o).takeId

/-- (R245, R253, R258) A trigger of a form that delivers nothing. -/
def State.mxSilent (s : State) (i : Instr) (f : Option FaultAt) (o : MxOp) : Host.Outcome State Fault Refusal :=
  match f with
  | some f => .next (s.faultTrigger i f)
  | none => .next (s.startMx o)

/-- (R258) The fault of an accumulator word, with the bits that the form allows. -/
def State.accWordFault (s : State) (allowed : W64) : Option FaultAt :=
  firstFault
    [if (s.opT64 &&& ~~~allowed) != 0 then some (FaultAt.at .xword s.opT64) else none,
     (s.jobFor s.who).accFault s.opT64 (s.opT64.toNat % 8)]

/-- (R258) ACC, ROW and QTR of an accumulator word. -/
def awAcc (t : W64) : Nat := t.toNat % 8
def awRow (t : W64) : Nat := t.toNat / 256 % 64
def awQtr (t : W64) : Nat := t.toNat / 2 ^ 16 % 4

/-- (R55) The ninth record of mxu. -/
def State.mxNinth (s : State) : Option FaultAt := if s.ninth 10 then some (FaultAt.engine 2 s.opT64) else none

/-- (R252) Whether every chunk has been applied. -/
def MxOp.ended (o : MxOp) : Bool := shK o.shape ≤ o.k0

/-- (R263) The progress word of a stopped operation. -/
def MxOp.progress (o : MxOp) : W64 :=
  BitVec.ofNat 64 (2 ^ 63 + (if o.z then 2 ^ 38 else 0) + (if o.kind.isRec then 2 ^ 37 else 0) + o.acc * 2 ^ 32
    + o.j * 2 ^ 24 + o.i * 2 ^ 16 + o.k0)

/-- (R264) msave stops the operation that makes an accumulator Busy, if it runs the loop nest and has a chunk left. -/
def Tile.stopAcc (t : Tile) (m : Nat) : Tile :=
  match t.acc m with
  | .busy id _ => match t.mxAll.find? fun o => o.id == id && o.kind.runs && !o.ended with
    | some o => { t.dropMx fun x => x.id == id with accs := t.accs.set m (.stopped o) }
    | none => t
  | _ => t

/-! ### Access to operands -/

/-- The physical swatches of a tile-space region of `n` bytes at a pointer, `none` of them for a paged one. -/
def Job.regionSwatches (j : Job) (p : W64) (n : Nat) : List Nat :=
  if isTileVa (vaOf p) then
    let off := vaOf p % 2 ^ 20
    let last := min (off + max n 1) (2 ^ 20) - 1
    (List.range (last / 4096 + 1 - off / 4096)).map fun i => (j.swbase + off / 4096 + i) % 256
  else []

/-- (R246) The bytes of one row or column. -/
def lineBytes (p : W64) (k : Nat) : Nat :=
  if isSq (ptrFmt p) then k / blkElems (ptrBlk p) * sqBytes (blkElems (ptrBlk p)) (sqK (ptrFmt p)) else k * fmtBytes (ptrFmt p)

/-- The physical swatches that an operation accesses. -/
def State.mxSwatches (s : State) (o : MxOp) : List Nat :=
  let j := s.jobNo o.job
  match o.kind with
  | .mfill row | .mdrain row => j.regionSwatches o.o1 (256 * (row + 1))
  | .mma | .mmz | .mrun | .mresume _ =>
    j.regionSwatches o.a ((shM o.shape - 1) * o.as.toNat + lineBytes o.a (shK o.shape))
      ++ j.regionSwatches o.b ((shN o.shape - 1) * o.bs.toNat + lineBytes o.b (shK o.shape))
  | _ => []

/-- (R251) Whether an operation must wait for an earlier one `x` of the queue: on one accumulator, or where an
mdrain shares a swatch. -/
def State.mxAfter (s : State) (x o : MxOp) : Bool :=
  let drain (k : MxKind) : Bool := match k with
    | .mdrain _ => true
    | _ => false
  x.acc == o.acc || ((drain x.kind || drain o.kind) && (s.mxSwatches x).any (s.mxSwatches o).contains)

/-- (R251) Whether an operation of a tile's queue may perform. -/
def State.mxFree (s : State) (tile : Nat) (o : MxOp) : Bool :=
  ((s.tile tile).mxq.takeWhile fun x => x.id != o.id).all fun x => !s.mxAfter x o

/-- What the array finds where it reads bytes. -/
inductive MxRead where
  /-- their storage, and the home switches of the paged ones -/
  | ok (locs homes : List Nat)
  /-- a fault, with the address -/
  | bad (code : Flt) (info : Nat) (va : Nat)
  deriving DecidableEq, Repr

/-- (R150, R253, R254, R332, R357) One byte of a local operand at offset `off` + `d` of the tile. DESIGN CHOICE (log 14): one that starts
in the job's window and runs past it meets FLT_TILEMAP at its chunk, a fault that R254 does not list. -/
def State.mxLocalByte (s : State) (o : MxOp) (va d : Nat) (writes : Bool) : MxRead :=
  let j := s.jobNo o.job
  let off := va % 2 ^ 20 + d
  if 2 ^ 20 ≤ off then .bad .nonlocal 0 (va + d)
  else if 4096 * j.swcnt ≤ off then .bad .tilemap 0 (va + d)
  else if (s.tile o.who.tile).ownerAt (j.physOff off) != 1 then .bad .owner 0 (va + d)
  else
    let loc := sramLoc o.who.tile (j.physOff off)
    if !writes && s.poison.contains (loc / 8) then .bad .poison 0 (va + d) else .ok [loc] []

/-- (R148, R255, R357, R364) One byte of a streaming operand. DESIGN CHOICE (log 14): its address wraps modulo 2^48, and one that runs
into tile space meets FLT_NONLOCAL. -/
def State.mxPagedByte (s : State) (o : MxOp) (va : Nat) : State × MxRead :=
  if isTileVa va then (s, .bad .nonlocal 0 va)
  else match s.translateEngine o.who.tile (s.jobNo o.job).asid.toNat va .read with
    | (s1, .ok (loc, pa)) => (s1, match s.downOn (tripLinks o.who.tile [memPort loc pa]) with
      | some l => .bad .link (downInfo l) va
      | none => if s.poison.contains (loc / 8) then .bad .poison 0 va else .ok [loc] [memPort loc pa])
    | (s1, .error (c, l)) => (s1, .bad c l va)

/-- (R253 to R255) `n` bytes at displacement `d` from a pointer, in address order. -/
def State.mxBytes (s : State) (o : MxOp) (p : W64) (d : Nat) : Nat → State × MxRead
  | 0 => (s, .ok [] [])
  | n + 1 =>
    match s.mxBytes o p d n with
    | (s1, .bad c i v) => (s1, .bad c i v)
    | (s1, .ok ls hs) =>
      let r := if isTileVa (vaOf p) then (s1, s1.mxLocalByte o (vaOf p) (d + n) false)
        else s1.mxPagedByte o ((vaOf p + d + n) % 2 ^ 48)
      match r with
      | (s2, .ok l h) => (s2, .ok (ls ++ l) (hs ++ h))
      | (s2, .bad c i v) => (s2, .bad c i v)

/-- (R246) Displacement and bytes of the chunk from depth `k0` of row or column `i`. -/
def chunkAt (p : W64) (stride : W32) (i k0 k1 : Nat) : Nat × Nat :=
  if isSq (ptrFmt p) then
    let b := sqBytes (blkElems (ptrBlk p)) (sqK (ptrFmt p))
    (i * stride.toNat + k0 / blkElems (ptrBlk p) * b, b)
  else (i * stride.toNat + k0 * fmtBytes (ptrFmt p), (k1 - k0) * fmtBytes (ptrFmt p))

/-- (R131) The floating-point format of FMT 4 to 8. -/
def fmtOf (f : Nat) : Fmt := if f = 4 then .fp32 else if f = 5 then .fp16 else if f = 6 then .bf16 else if f = 7 then .e4m3 else .e5m2

/-- (R200, R211, R246) The elements that the bytes of a chunk hold. -/
def chunkVals (p : W64) (v n : Nat) : List Val :=
  if isSq (ptrFmt p) then (sqParse (blkElems (ptrBlk p)) (sqK (ptrFmt p)) v).vals (sqK (ptrFmt p))
  else
    let w := 8 * fmtBytes (ptrFmt p)
    (List.range (n / fmtBytes (ptrFmt p))).map fun i => (fmtOf (ptrFmt p)).val (v / 2 ^ (w * i) % 2 ^ w)

/-! ### Cell steps -/

/-- (R215, R252) acc := round_rne(acc + p). -/
def addCell (acc : Nat) (p : Val) : Nat := (((Fmt.fp32.val acc).add false p).into .fp32 .rne).bits

/-- (R215) P: the exact sum of the products of a group. -/
def groupSum (xs : List (Val × Val)) : Val :=
  match xs with
  | [] => .fin false 0 0
  | p :: ps => ps.foldl (fun (s : Val) q => (s.add false (q.1.mul q.2).val).val) (p.1.mul p.2).val

/-- (R252) The cell step of mma. -/
def cellMma (sq : Bool) (acc : Nat) (xs : List (Val × Val)) : Nat :=
  if sq then addCell acc (groupSum xs) else xs.foldl (fun a p => addCell a (p.1.mul p.2).val) acc

/-- (R256) Fields of a step. -/
def stOp (w : Nat) : Nat := w / 2 ^ 13 % 8
def stSrc1 (w : Nat) : Nat := w / 2 ^ 9 % 8
def stSrc2 (w : Nat) : Nat := w / 2 ^ 6 % 8

/-- (R256) Whether a step is one that the microprogram may hold. -/
def stepOk (w : Nat) : Bool :=
  if stOp w = 0 then w % 2 ^ 16 == 0
  else stOp w != 7 && stSrc1 w < 5 && (if stOp w = 6 then stSrc2 w == 0 else stSrc2 w < 5 && w % 64 == 0)

/-- (R256) The four steps of a microprogram. -/
def progSteps (t : W64) : List Nat := (List.range 4).map fun s => t.toNat / 2 ^ (16 * s) % 2 ^ 16

/-- (R257) s, x, y, t, c and P of a cell step. -/
structure RecSt where
  s : Nat
  x : Nat
  y : Nat
  t : Nat
  c : Nat
  p : Bool
  deriving DecidableEq, Repr

/-- (R256) The register that a source code names. -/
def RecSt.src (r : RecSt) (n : Nat) : Nat := if n = 0 then r.s else if n = 1 then r.x else if n = 2 then r.y else if n = 3 then r.t else r.c

/-- (R257) A result written to its DST, a NaN as the canonical one. -/
def RecSt.put (r : RecSt) (w v : Nat) : RecSt :=
  let z := if (Fmt.fp32.val v).isNan then Fmt.fp32.nan else v
  if w / 2 ^ 12 % 2 = 1 then { r with s := z } else { r with t := z }

/-- (R257) One step. -/
def RecSt.step (r : RecSt) (w : Nat) : RecSt :=
  let a := r.src (stSrc1 w)
  let b := r.src (stSrc2 w)
  let va := Fmt.fp32.val a
  let vb := Fmt.fp32.val b
  let pick (less : Bool) : RecSt :=
    let v := (Fmt.fp32.minMax less a b).bits
    { r.put w v with p := v == a }
  match stOp w with
  | 1 => r.put w ((va.add false vb).into .fp32 .rne).bits
  | 2 => r.put w ((va.mul vb).into .fp32 .rne).bits
  | 3 => pick true
  | 4 => pick false
  | 5 => r.put w (if r.p then a else b)
  | 6 =>
    let sh : Int := (BitVec.ofNat 6 w).toInt
    r.put w ((match va with
      | .fin n m e => Val.fin n m (e + sh)
      | v => v).into .fp32 .rne false).bits
  | _ => r

/-- (R257) The cell step of mrun. DESIGN CHOICE (log 14): an operand element that is a NaN is the canonical FP32 NaN before a step compares
it bit for bit. -/
def cellMrun (prog : W64) (c : W32) (acc : Nat) (xs : List (Val × Val)) : Nat :=
  xs.foldl (fun a p =>
    ((progSteps prog).foldl RecSt.step
      { s := a, x := toFp32 p.1, y := toFp32 p.2, t := 0, c := c.toNat, p := false }).s) acc

/-! ### Running -/

/-- (R254, R353) An operation faults after its start. -/
def State.faultMx (s : State) (o : MxOp) (code : Flt) (info : Nat) (f1 : W64) : State :=
  s.raiseLate o.who o.job
    { code := code, info := BitVec.ofNat 16 info, f1 := f1, f2 := o.t, word := o.word, slot := o.slot, rank := o.id,
      dbl := o.dbl, op := .mx o }

/-- An operation leaves the queue, its accumulator in a new state. -/
def Tile.leaveMx (t : Tile) (o : MxOp) (st : Option AccSt) : Tile :=
  { t.dropMx fun x => x.id == o.id with
    accs := match st with
      | some a => t.accs.set o.acc a
      | none => t.accs }

/-- An operation of a queue changed. -/
def Tile.updMx (t : Tile) (o : MxOp) : Tile := { t with mxq := updWhere (fun x => x.id == o.id) (fun _ => o) t.mxq }

/-- (R252) The operation after its chunk at (k0, i, j). -/
def MxOp.advance (o : MxOp) : MxOp :=
  if o.j + 1 < shN o.shape then { o with j := o.j + 1 }
  else if o.i + 1 < shM o.shape then { o with j := 0, i := o.i + 1 }
  else { o with j := 0, i := 0, k0 := o.k0 + chunkLen o.a }

/-- (R252, R260) The cells of the shape set to +0, with their checksums. -/
def Tile.clearShape (t : Tile) (o : MxOp) : Tile :=
  let has (k : Nat) : Bool := k / 4096 == o.acc && k / 64 % 64 < shM o.shape && k % 64 < shN o.shape
  let gone := t.cells.filter fun (e : Nat × W32) => has e.1
  let sum (p : Nat → Bool) : W32 := wsum ((gone.filter fun (e : Nat × W32) => p e.1).map (·.2))
  { t with
    cells := t.cells.filter fun (e : Nat × W32) => !has e.1
    csum := (List.range (shM o.shape)).foldl (fun (c : Sparse W32) i =>
      c.upd 0 (64 * o.acc + i) (· - sum fun k => k / 64 % 64 == i)) t.csum
    rsum := (List.range (shN o.shape)).foldl (fun (c : Sparse W32) j =>
      c.upd 0 (64 * o.acc + j) (· - sum fun k => k % 64 == j)) t.rsum }.markRows o.acc (shM o.shape)

/-- (R252) Displacement and bytes of the next chunk of an operation's A and B. -/
def MxOp.chunkA (o : MxOp) : Nat × Nat := chunkAt o.a o.as o.i o.k0 (min (o.k0 + chunkLen o.a) (shK o.shape))
def MxOp.chunkB (o : MxOp) : Nat × Nat := chunkAt o.b o.bs o.j o.k0 (min (o.k0 + chunkLen o.a) (shK o.shape))

/-- (R252) The virtual addresses of the bytes that the next chunk reads. -/
def MxOp.chunkVas (o : MxOp) : List Nat :=
  (List.range o.chunkA.2).map (vaOf o.a + o.chunkA.1 + ·) ++ (List.range o.chunkB.2).map (vaOf o.b + o.chunkB.1 + ·)

/-- (R252, R254, R261) The next chunk of an operation: the checksums of an mresume, the clear of an mmz, then the
operands and the cell. -/
def State.applyChunk (s : State) (tile : Nat) (o : MxOp) : State :=
  match (if o.verify then (s.tile tile).mismatch o.acc else none) with
  | some info =>
    let back : AccSt := match (s.tile tile).acc o.acc with
      | .busy _ (some p) => .stopped p
      | _ => .idle
    (s.updTile tile fun t => t.leaveMx o (some back)).faultMx o .checksum info (BitVec.ofNat 64 o.acc)
  | none =>
    let o1 := { o with verify := false, z := false }
    let s1 := (if o.z then s.updTile tile fun t => t.clearShape o else s).updTile tile fun t => t.updMx o1
    let ca := o.chunkA
    let cb := o.chunkB
    let stop (s : State) (c : Flt) (i va : Nat) : State :=
      (s.updTile tile fun t => t.leaveMx o1 (some (.stopped o1))).faultMx o1 c i (BitVec.ofNat 64 va)
    match s1.mxBytes o1 o1.a ca.1 ca.2 with
    | (s2, .bad c i va) => stop s2 c i va
    | (s2, .ok la ha) => match s2.mxBytes o1 o1.b cb.1 cb.2 with
      | (s3, .bad c i va) => stop s3 c i va
      | (s3, .ok lb hb) =>
        if !s3.engineOpen tile (ha ++ hb) then s
        else if !(s3.gathering (la ++ lb)).isEmpty then s3.holdOn (.matrix o.id) (s3.gathering (la ++ lb))
        else
          let xs := (chunkVals o.a (readLocs s3.mem la) ca.2).zip (chunkVals o.b (readLocs s3.mem lb) cb.2)
          let acc := ((s3.tile tile).cell o.acc o.i o.j).toNat
          let v := if o.kind.isRec then cellMrun o.prog o.const acc xs else cellMma (isSq (ptrFmt o.a)) acc xs
          (((s3.noteEntries tile (ha ++ hb)).demand (la ++ lb)).unhold (.matrix o.id)).updTile tile fun t =>
            (t.setCell o.acc o.i o.j (BitVec.ofNat 32 v)).updMx o1.advance

/-- (R146, R161, R328, R363) Whether the next chunk of an operation waits: for a walker, for lines that hold it, or for a link or a
router on its way. -/
def State.chunkWaits (s : State) (tile : Nat) (o : MxOp) : Bool :=
  !o.verify && (s.walkWaits tile (s.jobNo o.job).asid.toNat o.chunkVas || !(s.hlines.isEmpty && s.links.isEmpty && s.swIn.isEmpty)
    && match s.mxBytes o o.a o.chunkA.1 o.chunkA.2 with
    | (_, .bad _ _ _) => false
    | (s1, .ok la ha) => match s1.mxBytes o o.b o.chunkB.1 o.chunkB.2 with
      | (_, .bad _ _ _) => false
      | (_, .ok lb hb) => !s.engineOpen tile (ha ++ hb)
        || (!(s.gathering (la ++ lb)).isEmpty && s.heldBy (.matrix o.id) (s.gathering (la ++ lb))))

/-- (R253, R259) The region of an mfill or mdrain: its storage, or the first byte that faults. -/
def State.mxRegion (s : State) (o : MxOp) (rows : Nat) (writes : Bool) : MxRead := from' 0 (256 * rows)
where
  /-- From displacement `d` on, `n` bytes. -/
  from' (d : Nat) : Nat → MxRead
    | 0 => .ok [] []
    | n + 1 => match s.mxLocalByte o (vaOf o.o1) d writes with
      | .bad c i v => .bad c i v
      | .ok l _ => match from' (d + 1) n with
        | .bad c i v => .bad c i v
        | .ok ls _ => .ok (l ++ ls) []

/-- (R259) Rows 0 to `rows` − 1 of an accumulator as bytes. -/
def Tile.rowBytes (t : Tile) (m rows : Nat) : List Byte :=
  (List.range (64 * rows)).flatMap fun k => leBytes 4 (t.cells.get 0 (4096 * m + k)).toNat

/-- (R259) The row quarter that mrd delivers. -/
def Tile.quarter (t : Tile) (m row qtr : Nat) : W512 :=
  BitVec.ofNat 512 (packList 32 ((List.range 16).map fun l => (t.cell m row (16 * qtr + l)).toNat))

/-- (R249, R259, R261) An operation that performs as a whole. -/
def State.applyWhole (s : State) (tile : Nat) (o : MxOp) : State :=
  let idle := if o.kind.writes then some AccSt.idle else none
  let done (s : State) : State := s.updTile tile fun t => t.leaveMx o idle
  match o.kind with
  | .mclear v => done (s.updTile tile fun t => t.fillRows o.acc 64 fun _ _ => v)
  | .mfill row => match s.mxRegion o (row + 1) false with
    | .bad c i va => (done s).faultMx o c i (BitVec.ofNat 64 va)
    | .ok ls _ =>
      let f (i j : Nat) : W32 := BitVec.ofNat 32 (Memory.readLe s.mem (ls.headD 0 + 256 * i + 4 * j) 4)
      done (s.updTile tile fun t => t.fillRows o.acc (row + 1) f)
  | .mdrain row =>
    match (s.tile tile).mismatch o.acc with
    | some info => (done s).faultMx o .checksum info (BitVec.ofNat 64 o.acc)
    | none => match s.mxRegion o (row + 1) true with
      | .bad c i va => (done s).faultMx o c i (BitVec.ofNat 64 va)
      | .ok ls _ => done (s.storeBytes (ls.headD 0) ((s.tile tile).rowBytes o.acc (row + 1)))
  | .mrd row qtr =>
    (done s).landRec o.who 10 o.id { out := (s.tile tile).quarter o.acc row qtr, aux := 0, stat := 0 }
  | _ => if o.ended then done s else s

/-- (R254, R259, R354) A retried operation starts again: at its progress point under the descriptors that it copied,
or as a whole. DESIGN CHOICE (log 14): of an mresume that has passed its first chunk the checksums are not checked again. -/
def State.restartMx (s : State) (o : MxOp) (t : W64) : State :=
  let f := match o.kind with
    | .mma | .mmz => s.runFault o.who false t o.shape o.a o.b o.as o.bs
    | .mrun => s.runFault o.who true t o.shape o.a o.b o.as o.bs
    | .mresume _ => s.resumeFault o.who t o.shape o.a o.b o.as o.bs
    | _ => none
  let o1 := { o with dbl := false, t := if o.kind.runs then t else o.t }
  match f with
  | some f => s.faultMx o1 f.code f.info.toNat (f.f1.getD t)
  | none => s.updTile o.who.tile fun y => y.enterMx o1

/-! ### Waits -/

/-- (R262) Whether a fault of an operation that an mwait covers is still to be delivered. -/
def State.mxFaultWaits (s : State) (tile : Nat) (w : MxWait) : Bool :=
  (whosOf tile).any fun c => (s.ctx c).faults.any fun p => match p.op with
    | .mx o => w.mask.getLsbD o.acc || w.drains.contains o.id
    | _ => false

/-- (R262, R264) Whether the record of an mwait or msave can land. -/
def State.mxWaitDone (s : State) (tile : Nat) (w : MxWait) : Bool :=
  let t := s.tile tile
  (List.range 8).all (fun m => !(w.mask.getLsbD m && t.accBusy m)) && t.mxAll.all (fun o => !w.drains.contains o.id)
    && (w.save || !s.mxFaultWaits tile w)

/-- (R262, R264) The record of an mwait or msave. -/
def Tile.waitRec (t : Tile) (w : MxWait) : Rec :=
  let stopped (m : Nat) : Bool := match t.acc m with
    | .stopped _ => true
    | _ => false
  if w.save then w.res
  else rec64 (BitVec.ofNat 64 (w.mask.toNat
    + 256 * ((List.range 8).map fun m => if w.mask.getLsbD m && stopped m then 2 ^ m else 0).sum))

/-- (R264) The record of an msave that finds an accumulator in a state: the progress of a stopped operation, else VALID = 0. -/
def AccSt.saved (a : AccSt) : Rec :=
  match a with
  | .stopped o => rec64 o.progress
  | _ => Rec.zero

/-- (R262, R264) An mwait or msave starts to wait. -/
def State.startWait (s : State) (mask : BitVec 8) (save : Bool) (res : Rec) (drains : List Nat) : State :=
  ((s.expectRec 10).updSelfTile fun t =>
    { t with mxw := t.mxw ++ [{ id := s.fresh, who := s.who, mask := mask, save := save, res := res, drains := drains }] }).takeId

/-! ### Operations -/

/-- (R246) astr. -/
def execAstr (s : State) : Host.Outcome State Fault Refusal :=
  if s.opT64.toNat / 2 ^ 32 ≠ 0 then .next (s.faultTrigger .astr (FaultAt.at .xword s.opT64))
  else .next (s.updSelf fun x => x.updBank fun b => { b with mxA := s.opPort64 10 0, mxAs := s.opT64.setWidth 32 })

/-- (R246) bstr. -/
def execBstr (s : State) : Host.Outcome State Fault Refusal :=
  if s.opT64.toNat / 2 ^ 32 ≠ 0 then .next (s.faultTrigger .bstr (FaultAt.at .xword s.opT64))
  else .next (s.updSelf fun x => x.updBank fun b => { b with mxB := s.opPort64 10 0, mxBs := s.opT64.setWidth 32 })

/-- (R248) shape. -/
def execShape (s : State) : Host.Outcome State Fault Refusal :=
  if shapeBad s.opT64 then .next (s.faultTrigger .shape (FaultAt.at .xword s.opT64))
  else .next (s.updSelf fun x => x.updBank fun b => { b with mxShape := s.opT64 })

/-- (R256) mprog. -/
def execMprog (s : State) : Host.Outcome State Fault Refusal :=
  if !(progSteps s.opT64).all stepOk then .next (s.faultTrigger .mprog (FaultAt.at .xword s.opT64))
  else .next (s.updSelf fun x => x.updBank fun b =>
    { b with mxProg := s.opT64, mxConst := (s.opPort64 10 0).setWidth 32 })

/-- (R252, R253) An operation of the loop nest at its trigger. -/
def State.startRun (s : State) (i : Instr) (k : MxKind) : Host.Outcome State Fault Refusal :=
  let o := s.newMx k (shAcc s.self.bank.mxShape)
  s.mxSilent i (s.runFault s.who k.isRec s.opT64 o.shape o.a o.b o.as o.bs) o

/-- (R252) mma. -/
def execMma (s : State) : Host.Outcome State Fault Refusal := s.startRun .mma .mma

/-- (R252) mmz. -/
def execMmz (s : State) : Host.Outcome State Fault Refusal := s.startRun .mmz .mmz

/-- (R257) mrun. -/
def execMrun (s : State) : Host.Outcome State Fault Refusal := s.startRun .mrun .mrun

/-- (R265) mresume. -/
def execMresume (s : State) : Host.Outcome State Fault Refusal :=
  let t := s.opT64
  let o := s.newMx (.mresume (pgRec t)) (pgAcc t)
  s.mxSilent .mresume (s.resumeFault s.who t o.shape o.a o.b o.as o.bs)
    { o with k0 := pgK0 t, i := pgI t, j := pgJ t, z := pgZ t, verify := true }

/-- (R259) mclear. -/
def execMclear (s : State) : Host.Outcome State Fault Refusal :=
  s.mxSilent .mclear (s.accWordFault 0xFFFFFFFF00000007) (s.newMx (.mclear (s.opT64.extractLsb' 32 32)) (awAcc s.opT64))

/-- (R259) mfill. -/
def execMfill (s : State) : Host.Outcome State Fault Refusal :=
  s.mxSilent .mfill ((s.accWordFault 0x3F07).or (s.regionFault s.who (s.opPort64 10 0) (awRow s.opT64 + 1)))
    (s.newMx (.mfill (awRow s.opT64)) (awAcc s.opT64))

/-- (R259) mdrain. -/
def execMdrain (s : State) : Host.Outcome State Fault Refusal :=
  s.mxSilent .mdrain ((s.accWordFault 0x3F07).or (s.regionFault s.who (s.opPort64 10 0) (awRow s.opT64 + 1)))
    (s.newMx (.mdrain (awRow s.opT64)) (awAcc s.opT64))

/-- (R259) mrd. -/
def execMrd (s : State) : Host.Outcome State Fault Refusal :=
  match (s.accWordFault 0x33F07).or s.mxNinth with
  | some f => .next (s.faultTrigger .mrd f)
  | none =>
    .next ((s.expectRec 10).startMx (s.newMx (.mrd (awRow s.opT64) (awQtr s.opT64)) (awAcc s.opT64)))

/-- (R262) mwait. -/
def execMwait (s : State) : Host.Outcome State Fault Refusal :=
  let m : BitVec 8 := s.opT64.setWidth 8
  let bad := firstFault
    [if 256 ≤ s.opT64.toNat then some (FaultAt.at .xword s.opT64) else none,
     if (m &&& (s.jobFor s.who).accx) != 0 then some (FaultAt.engine 23 s.opT64) else none, s.mxNinth]
  match bad with
  | some f => .next (s.faultTrigger .mwait f)
  | none =>
    let drains := (s.selfTile.mxAll.filter fun o => o.who == s.who && (match o.kind with
      | .mdrain _ => true
      | _ => false)).map (·.id)
    .next (s.startWait m false Rec.zero drains)

/-- (R264) msave. -/
def execMsave (s : State) : Host.Outcome State Fault Refusal :=
  match (s.accWordFault 7).or s.mxNinth with
  | some f => .next (s.faultTrigger .msave f)
  | none =>
    let m := awAcc s.opT64
    let s1 := s.updSelfTile fun t => t.stopAcc m
    .next (s1.startWait (1#8 <<< m) true (s1.selfTile.acc m).saved [])

/-! ### The array -/

/-- (R252) MATRIX_CHUNK_APPLY: the next chunk of an operation. -/
def execMatrixChunkApply (tile : Nat) (id : Nat) (s : State) : Host.Outcome State Fault Refusal :=
  match (s.tile tile).mxq.find? fun o => o.id == id with
  | some o => .next (if o.kind.runs && !o.ended && s.mxFree tile o then s.applyChunk tile o else s)
  | none => .next s

/-- (R249, R259, R262, R264) MATRIX_OP_COMPLETE: an operation performs as a whole or has applied its last chunk, or
the record of an mwait or msave lands. -/
def execMatrixOpComplete (tile : Nat) (id : Nat) (s : State) : Host.Outcome State Fault Refusal :=
  match (s.tile tile).mxq.find? fun o => o.id == id with
  | some o => .next (if s.mxFree tile o then s.applyWhole tile o else s)
  | none => match (s.tile tile).mxw.find? fun w => w.id == id with
    | some w =>
      if s.mxWaitDone tile w then
        .next ((s.updTile tile fun t => { t with mxw := t.mxw.filter fun x => x.id != id }).landRec w.who 10 w.id
          ((s.tile tile).waitRec w))
      else .next s
    | none => .next s

end Sys2Proof.Machine
end

