-- ==== Sys2Proof/Machine/Net.lean ====
section
/-! DEFINITION. The network socket net (R303 to R311), and when a swatch is in use by an engine (R151). -/

namespace Sys2Proof.Machine

/-! ### Destination words and headers -/

/-- (R303) Fields of a destination word. -/
def dwRls (t : W64) : Bool := t.getLsbD 31
def dwXpkg (t : W64) : Bool := t.getLsbD 24
def dwPkg (t : W64) : Nat := (t.extractLsb' 16 8).toNat
def dwDie (t : W64) : Nat := (t.extractLsb' 12 2).toNat
def dwY (t : W64) : Nat := (t.extractLsb' 8 4).toNat
def dwX (t : W64) : Nat := (t.extractLsb' 4 4).toNat
def dwQ (t : W64) : Nat := t.toNat % 4

/-- (R303) A destination word that raises FLT_XWORD. -/
def dwBad (t : W64) : Bool := (t &&& ~~~0x81FF3FF3#64) != 0 || (!dwXpkg t && dwPkg t != 0)

/-- (R303, R332) The checks of a destination word at a start. -/
def State.sendFault (s : State) (c : Who) (t : W64) : Option FaultAt :=
  let j := s.jobFor c
  firstFault
    [if dwBad t then some (FaultAt.at .xword t) else none,
     if dwXpkg t && (j.group == 0 || j.gsize ≤ dwPkg t) then some (FaultAt.at .tilemap t) else none,
     if !dwXpkg t && (j.phys (dwDie t) (dwY t) (dwX t)).isNone then some (FaultAt.at .tilemap t) else none,
     if j.qx.getLsbD (dwQ t) then some (FaultAt.engine 23 t) else none]

/-- (R325, R349) Whether a destination is a tile of this package: of the job itself. -/
def Job.sendsHere (j : Job) (t : W64) : Bool := !dwXpkg t || dwPkg t == j.member

/-- (R304) The header of an entry that a context's message makes. -/
def State.header (s : State) (c : Who) (wide : Bool) (t : W64) : W64 :=
  let j := s.jobFor c
  let co := match j.logical c.tile with
    | some (d, y, x) => 4096 * d + 256 * y + 16 * x
    | none => 0
  let far := if j.sendsHere t then 0 else 2 ^ 24 + 2 ^ 16 * j.member
  BitVec.ofNat 64 ((if wide then 2 ^ 25 else 0) + far + 2 ^ 14 * c.ctx + co)

/-! ### Messages -/

/-- A message changed, and taken out. -/
def State.updMsg (s : State) (id : Nat) (f : Msg → Msg) : State := { s with msgs := updWhere (fun m => m.id == id) f s.msgs }
def State.dropMsg (s : State) (id : Nat) : State := { s with msgs := s.msgs.filter fun m => m.id != id }

/-- (R309, R353) A message faults after its start; it is no longer outstanding. -/
def State.faultMsg (s : State) (m : Msg) (code : Flt) (info : Nat) : State :=
  (s.dropMsg m.id).raiseLate m.who m.job
    { code := code, info := BitVec.ofNat 16 info, f1 := m.t, f2 := m.t, word := m.word, slot := m.slot, rank := m.id,
      dbl := m.dbl, op := .msg m }

/-- (R10, R327) The links that a message crosses: to a tile of the package, or to the peer port of the member that it names. -/
def State.msgLinks (s : State) (m : Msg) : List Nat :=
  let j := s.jobNo m.job
  if j.sendsHere m.t then (m.tile.map fun t => routeLinks m.who.tile t).getD []
  else peerLinks m.who.tile (memberPort j.group (dwPkg m.t))

/-- (R303, R305) What names the queue of a destination: here whether or not XPKG is set with this member's index. -/
def Job.queueKey (j : Job) (t : W64) : W64 := t &&& (if j.sendsHere t then 0x3FF3 else 0x1FFFFFF)

/-- (R305) The earlier messages of a message's context to its queue. -/
def State.msgsBefore (s : State) (m : Msg) : List Msg :=
  let j := s.jobNo m.job
  s.msgs.filter fun x => x.who == m.who && x.job == m.job && j.sendsHere x.t == j.sendsHere m.t && j.queueKey x.t == j.queueKey m.t
    && x.id < m.id

/-- (R305) Whether a message is the first of its context to its queue. -/
def State.msgFirst (s : State) (m : Msg) : Bool := (s.msgsBefore m).isEmpty

/-- (R305) Whether a message can leave its tile: one for another package stands behind the earlier ones to its queue that still
wait there. -/
def State.mayDepart (s : State) (m : Msg) : Bool :=
  (s.jobNo m.job).sendsHere m.t || (s.msgsBefore m).all fun x => x.st != .waiting

/-- (R305, R364) A message leaves its tile; one for another package leaves by a peer port, unless a link before it is down. -/
def State.depart (s : State) (m : Msg) : State :=
  let j := s.jobNo m.job
  let s1 := s.updMsg m.id fun x => { x with st := .moving }
  if j.sendsHere m.t then s1
  else match s.downOn (s.msgLinks m) with
    | some l => s.faultMsg m .link (downInfo l)
    | none => { s1 with
        peerOut := s1.peerOut ++ [(4, BitVec.ofNat 64 j.group :: m.t :: m.header ::
          (List.range 8).map fun i => m.value.extractLsb' (64 * i) 64)] }

/-- (R305) The messages that only others before them have kept in their tiles leave. -/
def State.departAll (s : State) : State :=
  s.msgs.foldl (fun (s : State) m => if m.st == .waiting && !m.rls && s.mayDepart m then s.depart m else s) s

/-- (R305, R307) A message starts out, in its place in trigger order: a release waits in its tile. -/
def State.launchMsg (s : State) (m : Msg) : State :=
  { s with msgs := (s.msgs.filter fun (x : Msg) => x.id < m.id) ++ m :: s.msgs.filter fun (x : Msg) => !(x.id < m.id) : State }.departAll

/-- (R303, R304) The message that a context's value makes. -/
def State.aimMsg (s : State) (m : Msg) (t : W64) : Msg :=
  { m with
    t := t, header := s.header m.who (m.header.getLsbD 25) t, q := dwQ t, rls := dwRls t, st := .waiting
    tile := (s.jobNo m.job).phys (dwDie t) (dwY t) (dwX t) }

/-- (R304) The trigger's message. -/
def State.newMsg (s : State) (wide : Bool) : Msg :=
  let v := s.opPort 13 0
  s.aimMsg { id := s.fresh, who := s.who, job := s.self.job, word := s.trig.word, slot := s.trig.slot, t := 0,
             value := if wide then v else (lo64 v).setWidth 512, header := if wide then 2 ^ 25 else 0, tile := none, q := 0,
             rls := false, st := .waiting, dbl := s.self.shadow.isSome } s.opT64

/-- (R36, R117) An effect that follows the word's earlier accesses: put behind those that stand later in the tile's order, or
that wait. -/
def State.afterLates (s : State) (i : Instr) (go : State → State) : State :=
  let rest := wordRest s.who s.agenda
  if !s.trig.late && rest.any Task.isLate then
    { s with
      agenda := insertAfterLast Task.isLate (.run { s.trig with late := true } i) rest
        ++ s.agenda.dropWhile (Task.inWord s.who) }
  else if s.self.cont.any fun k => k.slot < s.trig.slot then s.await i
  else go s

/-- (R303 to R305, R307) A send at its trigger. -/
def State.startSend (s : State) (i : Instr) (wide : Bool) : Host.Outcome State Fault Refusal :=
  match (if s.trig.late then none else s.sendFault s.who s.opT64) with
  | some f => .next (s.faultTrigger i f)
  | none => .next (s.afterLates i fun s => (s.launchMsg (s.newMsg wide)).takeId)

/-- (R309, R354) A retried message is sent again to T. -/
def State.restartMsg (s : State) (m : Msg) (t : W64) : State :=
  let m1 := s.aimMsg { m with dbl := false } t
  match s.sendFault m.who t with
  | some f => s.faultMsg m1 f.code f.info.toNat
  | none => s.launchMsg m1

/-- (R306) A receive queue. -/
def Tile.rq (t : Tile) (q : Nat) : RQueue := t.rqs.get RQueue.init q

/-- (R305, R308) A message reaches its queue. -/
def State.enterMsg (s : State) (m : Msg) : State :=
  match m.tile with
  | none => s.faultMsg m .tilemap 0
  | some t =>
    let r := (s.tile t).rq m.q
    if s.heldOn (s.msgLinks m) then s
    else if let some l := s.downOn (s.msgLinks m) then s.faultMsg m .link (downInfo l)
    else if !r.opened then s.faultMsg m .engine 21
    else if 16 ≤ r.entries.length then s.updMsg m.id fun x => { x with st := .held }
    else (s.dropMsg m.id).updTile t fun y =>
      y.setRq m.q { r with entries := r.entries ++ [(m.value, m.header)] }

/-! ### Other members of a phase group -/

/-- (R303, R305, R309) The answer to a visiting message leaves: it has entered its queue, or faults. -/
def State.answerMsg (s : State) (v : VisitMsg) (a : PeerAnswer) : State :=
  { s with peerOut := s.peerOut ++ [(8, [BitVec.ofNat 64 v.grp, v.header, v.t, BitVec.ofNat 64 (answerCode a), answerVal a])] }

/-- (R305, R308) A visiting message that has come to the head of its queue's line enters it, or finds it closed. -/
def State.enterInbound (s : State) (m : Inbound) : State :=
  let s1 := { s with inbound := s.inbound.erase m }
  let r := (s.tile m.tile).rq m.q
  if !r.opened then s1.answerMsg m.msg .closed
  else (s1.updTile m.tile fun y => y.setRq m.q { r with entries := r.entries ++ [(m.msg.value, m.msg.header)] }).answerMsg m.msg (.value 0)

/-- (R305) Whether a visiting message can enter its queue: none waits before it, and the queue has room or is closed. -/
def State.canEnter (s : State) (m : Inbound) : Bool :=
  let r := (s.tile m.tile).rq m.q
  s.inbound.find? (fun x => x.tile == m.tile && x.q == m.q && x.job == m.job) == some m && (r.entries.length < 16 || !r.opened)
    && s.jobs.any fun j => j.id == m.job && j.resident

/-- (R304) The member that a visiting message's header names. -/
def visitSource (v : VisitMsg) : Nat := (v.header.extractLsb' 16 8).toNat

/-- (R303, R305, R364) A message of another member comes to its queue here, as its way from the peer port lets it. -/
def State.visitMsg (s : State) (v : VisitMsg) (j : Job) : State :=
  match j.phys (dwDie v.t) (dwY v.t) (dwX v.t) with
  | none => s.answerMsg v .tilemap
  | some t => match s.visit v.grp (visitSource v) t with
    | .wait => s
    | .ended info => s.answerMsg v (.link info)
    | .comes =>
      if j.qx.getLsbD (dwQ v.t) then s.answerMsg v .closed
      else
        let m : Inbound := { job := j.id, tile := t, q := dwQ v.t, msg := v }
        let s1 := { s with inbound := s.inbound ++ [m] }
        if s1.canEnter m then s1.enterInbound m else s1

/-- (R303, R305, R309, R364) The answer to a message that went abroad: it has entered its queue there, or faults. -/
def State.msgAnswered (s : State) (m : Msg) (a : PeerAnswer) : State :=
  if s.heldOn (s.msgLinks m) then s
  else match s.downOn (s.msgLinks m), a with
    | some l, _ => s.faultMsg m .link (downInfo l)
    | none, .value _ => s.dropMsg m.id
    | none, .tilemap => s.faultMsg m .tilemap 0
    | none, .closed => s.faultMsg m .engine 21
    | none, .link info => s.faultMsg m .link info
    | none, _ => s

/-! ### Ring rotate -/

/-- (R13, R310) The ring of a tile in a job. -/
def Job.ring (j : Job) (tile : Nat) : List Nat :=
  ((List.range 8).map fun p => ringTile (clusterOf tile) p).filter fun t => (j.logical t).isSome

/-- (R310, R332) The checks of a rotate word at a start. -/
def State.rotFault (s : State) (c : Who) (t : W64) : Option FaultAt :=
  firstFault
    [if 512 ≤ t.toNat then some (FaultAt.at .xword t) else none,
     if (s.jobFor c).swcnt ≤ t.toNat % 256 then some (FaultAt.at .tilemap t) else none]

/-- (R310) Faults after start of a joined rot. -/
def State.faultRot (s : State) (e : Nat × Trig × Nat) (code : Flt) (info : Nat) (f1 : W64) : State :=
  s.raiseLate e.2.1.who (s.ctx e.2.1.who).job
    { code := code, info := BitVec.ofNat 16 info, f1 := f1, f2 := lo64 e.2.1.t, word := e.2.1.word, slot := e.2.1.slot,
      rank := e.2.2, dbl := e.2.1.again, op := .rot e.2.1.word e.2.1.slot e.2.2 }

/-- (R310) A context's rot joins the next round of its tile. -/
def State.joinRot (s : State) (tr : Trig) (rid : Nat) : State :=
  s.updTile tr.who.tile fun t => { t with rots := t.rots ++ [((s.jobFor tr.who).id, tr, rid)] }

/-- (R310, R354) A retried rot joins the next round with T. -/
def State.restartRot (s : State) (c : Who) (word slot rid : Nat) (t : W64) : State :=
  let tr : Trig := { who := c, word := word, slot := slot, t := t.setWidth 512, again := false, late := false }
  match s.rotFault c t with
  | some f => s.faultRot ((s.jobFor c).id, tr, rid) f.code f.info.toNat (f.f1.getD t)
  | none => s.joinRot tr rid

/-- (R310) The member's first joined rot of a job. -/
def Tile.rotOf (t : Tile) (job : Nat) : Option (Nat × Trig × Nat) := t.rots.find? fun e => e.1 == job

/-- (R310) The virtual address of a member's swatch. -/
def Job.swatchVa (j : Job) (tile sw : Nat) : W64 :=
  match j.logical tile with
  | some (d, y, x) => BitVec.ofNat 64 (0xFF * 2 ^ 40 + d * 2 ^ 38 + y * 2 ^ 34 + x * 2 ^ 30 + 4096 * sw)
  | none => BitVec.ofNat 64 (4096 * sw)

/-- What a swatch holds: its bytes, poison and trail codes, from its first location. -/
structure SwatchData where
  bytes : List Byte
  poison : List Nat
  trail : Sparse (BitVec 16)
  deriving DecidableEq, Repr

/-- (R310, R361) A swatch read. -/
def State.readSwatch (s : State) (loc : Nat) : SwatchData :=
  { bytes := Memory.readBytes s.mem loc 4096
    poison := (s.poison.filter fun d => loc / 8 ≤ d && d < loc / 8 + 512).map (· - loc / 8)
    trail := (s.trail.filter fun (e : Nat × BitVec 16) => loc / 64 ≤ e.1 && e.1 < loc / 64 + 64).map
      fun (e : Nat × BitVec 16) => (e.1 - loc / 64, e.2) }

/-- (R310, R361) A swatch written, its trail codes with it. -/
def State.writeSwatch (s : State) (loc : Nat) (d : SwatchData) : State :=
  let s1 := s.storeBytes loc d.bytes
  { s1 with trail := d.trail.foldl (fun (t : Sparse (BitVec 16)) (e : Nat × BitVec 16) => t.set (loc / 64 + e.1) e.2) s1.trail }

/-- (R310) The rotate word of a joined rot. -/
def rotWord (e : Nat × Trig × Nat) : W64 := lo64 e.2.1.t

/-- (R310) The joined rots of a round leave their tiles. -/
def State.takeRots (s : State) (es : List (Nat × Trig × Nat)) : State :=
  es.foldl (fun (s : State) e => s.updTile e.2.1.who.tile fun y => { y with rots := y.rots.erase e }) s

/-- (R310, R363) A round faults in every member: FREC1 is the rotate word, or the member's swatch. -/
def State.failRound (s : State) (j : Job) (es : List (Nat × Trig × Nat)) (code : Flt) (info : Nat) : State :=
  let sw := ((es.map rotWord).headD 0).toNat % 256
  es.foldl (fun (s : State) e =>
    s.faultRot e code info (if code = .engine then rotWord e else j.swatchVa e.2.1.who.tile sw)) (s.takeRots es)

/-- (R12, R13, R310) The links that the swatches of a round cross, both ways round. -/
def ringLinks (ring : List Nat) : List Nat :=
  (ring.zip (ring.drop 1 ++ ring.take 1)).flatMap fun (p : Nat × Nat) => routeLinks p.1 p.2 ++ routeLinks p.2 p.1

/-- (R310, R364) A round of a ring whose members have all joined. -/
def State.rotPerform (s : State) (j : Job) (ring : List Nat) (es : List (Nat × Trig × Nat)) : State :=
  let t := (es.map rotWord).headD 0
  let sw := t.toNat % 256
  let loc (tile : Nat) : Nat := sramLoc tile ((4096 * (j.swbase + sw)) % 2 ^ 20)
  let taken := s.takeRots es
  let failAll := s.failRound j es
  let n := ring.length
  if es.any fun e => rotWord e != t then failAll .engine 22
  else if let some l := s.downOn (ringLinks ring) then failAll .link (downInfo l)
  else if ring.any fun m => (s.tile m).ownerAt (loc m % 2 ^ 20) != 3 then failAll .owner 0
  else if 1 < n && ring.any fun m => s.poisoned (loc m) 4096 then failAll .poison 0
  else
    let olds := ring.map fun m => s.readSwatch (loc m)
    let src (i : Nat) : Nat := if t.getLsbD 8 then (i + 1) % n else (i + n - 1) % n
    let moved := if n ≤ 1 then taken
      else (List.range n).foldl (fun (s : State) i => match ring[i]?, olds[src i]? with
        | some m, some d => s.writeSwatch (loc m) d
        | _, _ => s) taken
    es.foldl (fun (s : State) e => s.landRec e.2.1.who 13 e.2.2 (rec64 (BitVec.ofNat 64 n))) moved

/-! ### Engines on swatches -/

/-- (R151) The physical swatches of a tile that a copy request accesses. -/
def State.copySwatches (s : State) (tile : Nat) (o : CopyReq) : List Nat :=
  let j := s.jobNo o.job
  let side (p : W64) (pitch n : Nat) : List Nat :=
    (List.range (cpCount o.shape)).flatMap fun r =>
      let va := rowVa p pitch r
      if isTileVa va && j.tileOf va == some tile then j.regionSwatches (BitVec.ofNat 64 va) n else []
  side o.src (cpSrcPitch o.shape) (cpLen o.shape) ++ side o.dst (cpDstPitch o.shape) (cpOut o.shape)

/-- (R151) The physical swatches that an sdot reads. -/
def State.sdotSwatches (s : State) (o : SxOp) : List Nat :=
  let j := s.jobNo o.job
  let one (p : W64) : List Nat :=
    j.regionSwatches p (s.yarnHeader (sramLoc o.who.tile (j.physOff (vaOf p)))).size
  match o.kind with
  | .sdot a b => one a ++ one b
  | _ => []

/-- (R151) Whether an engine operation of a tile has still to finish its accesses to a physical swatch. -/
def State.swatchBusy (s : State) (tile sw : Nat) : Bool :=
  let t := s.tile tile
  t.mxAll.any (fun o => (s.mxSwatches o).contains sw) || t.sxq.any (fun o => (s.sdotSwatches o).contains sw)
    || t.cpq.any (fun o => (match o.st with
        | .done _ _ => false
        | _ => true) && (s.copySwatches tile o).contains sw)
    || t.rots.any (fun e => ((s.jobFor e.2.1.who).swbase + (lo64 e.2.1.t).toNat % 256) % 256 == sw)

/-! ### Operations -/

/-- (R304) send. -/
def execSend (s : State) : Host.Outcome State Fault Refusal := s.startSend .send false

/-- (R304) sendv. -/
def execSendv (s : State) : Host.Outcome State Fault Refusal := s.startSend .sendv true

/-- (R55) The ninth record of net. -/
def State.netNinth (s : State) : Option FaultAt := if s.ninth 13 then some (FaultAt.engine 2 s.opT64) else none

/-- (R310) rot. -/
def execRot (s : State) : Host.Outcome State Fault Refusal :=
  match (s.rotFault s.who s.opT64).or s.netNinth with
  | some f => .next (s.faultTrigger .rot f)
  | none => .next (((s.expectRec 13).joinRot { s.trig with again := s.self.shadow.isSome } s.fresh).takeId)

/-- (R332) The fault of a receive queue outside the job's share. -/
def State.rqFault (s : State) : Option FaultAt :=
  if (s.jobFor s.who).qx.getLsbD (s.opT64.toNat % 4) then some (FaultAt.engine 23 s.opT64) else none

/-- (R308) qcfg. -/
def execQcfg (s : State) : Host.Outcome State Fault Refusal :=
  let t := s.opT64
  match firstFault [if (t &&& ~~~0x333#64) != 0 then some (FaultAt.at .xword t) else none, s.rqFault] with
  | some f => .next (s.faultTrigger .qcfg f)
  | none => .next (s.updSelfTile fun y =>
      let r := y.rq (t.toNat % 4)
      y.setRq (t.toNat % 4)
        { opened := t.getLsbD 8, reader := t.toNat / 16 % 4, entries := if t.getLsbD 9 then [] else r.entries })

/-- (R308) peek. -/
def execPeek (s : State) : Host.Outcome State Fault Refusal :=
  let t := s.opT64
  match firstFault [if 4 ≤ t.toNat then some (FaultAt.at .xword t) else none, s.rqFault, s.netNinth] with
  | some f => .next (s.faultTrigger .peek f)
  | none =>
    let r := s.selfTile.rq (t.toNat % 4)
    let head : W64 := match r.entries with
      | e :: _ => e.2
      | [] => 0
    .next (((s.expectRec 13).landRec s.who 13 s.fresh (slotRec (BitVec.ofNat 64 r.entries.length, head))).takeId)

/-! ### Events -/

/-- (R307) RELEASE_SEND_DEPART: every earlier access has performed at system scope. -/
def execReleaseSendDepart (id : Nat) (s : State) : Host.Outcome State Fault Refusal :=
  match s.msgs.find? fun m => m.id == id with
  | some m => .next (if m.rls && m.st == .waiting && s.mayDepart m && s.fenced m.who m.job id 5 m.dbl then (s.depart m).departAll else s)
  | none => .next s

/-- MESSAGE_ARRIVAL (R303, R305): a message reaches its queue, and enters it, is held or is discarded; one that went abroad is
answered from there, and one from abroad comes in. -/
def execMessageArrival (a : MsgAt) (s : State) : Host.Outcome State Fault Refusal :=
  match a with
  | .here id => match s.msgs.find? fun m => m.id == id with
    | some m => .next (if m.st == .waiting || !s.msgFirst m || !(s.jobNo m.job).sendsHere m.t then s else s.enterMsg m)
    | none => .next s
  | .abroad id ans => match s.msgs.find? fun m => m.id == id with
    | some m => .next (if m.st == .waiting || !s.msgFirst m || (s.jobNo m.job).sendsHere m.t then s else s.msgAnswered m ans)
    | none => .next s
  | .visit v => match s.memberJob v.grp v.member with
    | some j => .next (s.visitMsg v j)
    | none => .next s

/-- (R310) The round of the ring of a tile in a job, once every member has joined it: the ring and the joined rots. -/
def State.round? (s : State) (tile : Nat) (j : Job) : Option (List Nat × List (Nat × Trig × Nat)) :=
  let ring := j.ring tile
  let es := ring.filterMap fun m => (s.tile m).rotOf j.id
  if es.length = ring.length ∧ ring.contains tile then some (ring, es) else none

/-- (R310, R363) ROT_ROUND: a round of the ring of a tile in a job, once every member has joined it and no link of it retrains. -/
def execRotRound (tile : Nat) (job : Nat) (s : State) : Host.Outcome State Fault Refusal :=
  match (s.job? job).bind (s.round? tile) with
  | some (ring, es) => .next (if s.heldOn (ringLinks ring) then s else s.rotPerform (s.jobNo (some job)) ring es)
  | none => .next s

end Sys2Proof.Machine
end

