-- ==== Sys2Proof/Machine/Event.lean ====
section
/-! DEFINITION. The event unit evt: event lines (R176 to R188), wake comparators (R189 to R191), and the arrivals at a
phase (R192 to R194). -/

namespace Sys2Proof.Machine

/-! ### Lines -/

/-- (R176) The keys of the lines: a cluster's, a die's and the package's. -/
def clusterLine (cl n : Nat) : Nat := 32 * cl + n
def dieLine (d n : Nat) : Nat := 2304 + 32 * d + n
def packageLine (n : Nat) : Nat := 2432 + n

/-- (R177) The index of a cluster context. -/
def evIndex (c : Who) : Nat := 4 * ringPos c.tile + c.ctx

/-- A line. -/
def State.line (s : State) (k : Nat) : Line := s.lines.get Line.init k

/-- A line changed. -/
def State.updLine (s : State) (k : Nat) (f : Line → Line) : State := { s with lines := s.lines.upd Line.init k f }

/-- (R176) A line as a context sees it: one that its job does not hold reads as MODE 0. -/
def State.lineFor (s : State) (c : Who) (k : Nat) : Line :=
  if (s.line k).job.isSome && (s.line k).job == (s.ctx c).job then s.line k else Line.init

/-- (R176, R185) The line to which a line chains. -/
def upperLine (k : Nat) (l : Line) : Option Nat :=
  if l.clevel = 1 then some (dieLine (if k < 2304 then k / 32 / 18 else (k - 2304) / 32) l.cline.toNat)
  else if l.clevel = 2 then some (packageLine l.cline.toNat) else none

/-- (R188) The scope at which a line releases and acquires. -/
def State.lineScope (s : State) (k : Nat) : Nat :=
  match upperLine k (s.line k) with
  | none => 2
  | some u => if 2432 ≤ u then 4 else if (upperLine u (s.line u)).isSome then 4 else 3

/-- (R179) A blocked operation completes: its record lands, and its context is ready again from the next tile cycle on. -/
def State.endWait (s : State) (w : Who × Nat) (out : W64) : State :=
  (s.landRec w.1 14 w.2 (rec64 out)).updCtx w.1 fun x =>
    { x with block := x.block.filter (fun b => !b.isEvent w.2), woken := s.unselected w.1.tile }

/-- (R180) A message between lines sent. -/
def State.sendLine (s : State) (lower upper : Nat) (release : Bool) : State :=
  ({ s with lmsgs := s.lmsgs ++ [({ id := s.fresh, lower := lower, upper := upper, release := release } : LineMsg)] } : State).takeId

/-- (R180) The waits of a barrier that REL lets complete, each clearing its context's bit: those, and what is left. -/
def relWaits (rel : BitVec 32) : List (Who × Nat) → List (Who × Nat) × List (Who × Nat) × BitVec 32
  | [] => ([], [], rel)
  | w :: ws =>
    if rel.getLsbD (evIndex w.1) then
      let (a, b, r) := relWaits (setBit rel (evIndex w.1) false) ws
      (w :: a, b, r)
    else
      let (a, b, r) := relWaits rel ws
      (a, w :: b, r)

/-- (R180) release of a line, and RELEASE to every line that arrived at it. -/
def State.releaseLine (s : State) (k : Nat) : State :=
  let l := s.line k
  let (go, stay, rel) := relWaits (l.rel ||| l.pend) l.waiters
  let s1 := s.updLine k fun l => { l with gen := l.gen + 1, arr := 0, pend := 0, rel := rel, waiters := stay, arrived := [] }
  let s2 := go.foldl (fun s w => s.endWait w ((l.gen + 1).setWidth 64)) s1
  l.arrived.eraseDups.foldl (fun s d => s.sendLine d k true) s2

/-- (R180) An arrival counted, and complete_generation. -/
def State.countArrival (s : State) (k : Nat) : State :=
  let s1 := s.updLine k fun l => { l with arr := l.arr + 1 }
  if (s1.line k).arr = (s1.line k).count.toNat then
    match upperLine k (s1.line k) with
    | none => s1.releaseLine k
    | some u => s1.sendLine k u false
  else s1

/-- (R180) arrive(c). -/
def State.arriveLine (s : State) (c : Who) (k : Nat) : State :=
  (s.updLine k fun l => { l with rel := setBit l.rel (evIndex c) false, pend := setBit l.pend (evIndex c) true }).countArrival k

/-- A wait or lock joins the blocked ones of a line. -/
def State.joinLine (s : State) (k : Nat) (w : Who × Nat) : State := s.updLine k fun l => { l with waiters := l.waiters ++ [w] }

/-- (R180, R183) wait(c). -/
def State.waitLine (s : State) (k : Nat) (w : Who × Nat) : State :=
  let l := s.line k
  if l.mode = 3 then (if l.flag then s.endWait w 0 else s.joinLine k w)
  else if l.rel.getLsbD (evIndex w.1) then
    (s.updLine k fun l => { l with rel := setBit l.rel (evIndex w.1) false }).endWait w (l.gen.setWidth 64)
  else if l.pend.getLsbD (evIndex w.1) then s.joinLine k w
  else (s.joinLine k w).arriveLine w.1 k

/-- (R181) A mutex goes to a context, whose lock completes. -/
def State.giveLine (s : State) (k : Nat) (w : Who × Nat) : State :=
  ((s.updLine k fun l => { l with owner := some w.1, waiters := l.waiters.erase w }).updCtx w.1 fun x =>
    { x with mutex := x.mutex ++ [k] }).endWait w 0

/-- (R181) lock. -/
def State.lockLine (s : State) (k : Nat) (w : Who × Nat) : State :=
  if (s.line k).owner.isSome then s.joinLine k w else s.giveLine k w

/-- (R181) unlock. -/
def State.unlockLine (s : State) (k : Nat) : State :=
  match (s.line k).waiters with
  | w :: _ => s.giveLine k w
  | [] => s.updLine k fun l => { l with owner := none }

/-- (R183) set. -/
def State.setLine (s : State) (k : Nat) : State :=
  (s.line k).waiters.foldl (fun s w => s.endWait w 0) (s.updLine k fun l => { l with flag := true, waiters := [] })

/-- What a request does at its line. -/
def State.serveLine (s : State) (r : EvReq) : State :=
  match r.kind with
  | .arrive => s.arriveLine r.who r.line
  | .wait => s.waitLine r.line (r.who, r.rid)
  | .lock => s.lockLine r.line (r.who, r.rid)
  | .unlock => s.unlockLine r.line
  | .set => s.setLine r.line
  | .clear => s.updLine r.line fun l => { l with flag := false }

/-- (R184, R188) Whether a request releases: its context's earlier accesses come first. -/
def State.releases (s : State) (r : EvReq) : Bool :=
  match r.kind with
  | .arrive | .unlock | .set => true
  | .wait => (s.line r.line).mode == 1 && !(s.line r.line).rel.getLsbD (evIndex r.who)
      && !(s.line r.line).pend.getLsbD (evIndex r.who)
  | .lock | .clear => false

/-- (R176) The router at which a line stands: one of its cluster, die or package, the spec does not say which (log 22). -/
def lineRouter (k : Nat) : Nat :=
  let n := Config.lineTile k
  if k < 2304 then ringTile (k / 32) (n % 8) else if k < 2432 then 144 * ((k - 2304) / 32) + n % 144 else n % 576

/-- (R12, R363, R364) The links between a request's tile and its line. -/
def EvReq.links (r : EvReq) : List Nat := routeLinks r.who.tile (lineRouter r.line)

/-- (R178, R188, R363) Whether a request can reach its line: the context's earlier ones to that line have, its earlier
accesses are ordered, and no link on its way retrains. -/
def State.canReach (s : State) (r : EvReq) : Bool :=
  s.evreqs.all (fun x => !(x.who == r.who && x.line == r.line && x.id < r.id))
    && (!s.releases r || s.fenced r.who r.job r.id (s.lineScope r.line) r.dbl) && !s.heldOn r.links

/-- (R353, R363) A request that was lost faults; its context is no longer blocked. -/
def State.faultEvent (s : State) (r : EvReq) (code : Flt) (info : Nat) (f1 : W64) : State :=
  ({ s with evreqs := s.evreqs.filter fun x => x.id != r.id }.updCtx r.who fun x =>
      { x with block := x.block.filter fun b => !b.isEvent r.rid }).raiseLate r.who r.job
    { code := code, info := BitVec.ofNat 16 info, f1 := f1, f2 := r.t, word := r.word, slot := r.slot, rank := r.id,
      dbl := r.dbl, op := .event r }

/-- (R178, R363) A request is lost on its way: it faults. The context goes on holding a line that an unlock has not reached. -/
def State.loseEvent (s : State) (r : EvReq) (info : Nat) : State :=
  (s.updCtx r.who fun x => { x with mutex := if r.kind == .unlock then x.mutex ++ [r.line] else x.mutex }).faultEvent r .link info r.t

/-- LINE_REQUEST (R178 to R184): a request reaches its line, or ends before a link that is down (R364). A line that its job no longer
holds takes no notice. -/
def execLineRequest (id : Nat) (s : State) : Host.Outcome State Fault Refusal :=
  match s.evreqs.find? fun r => r.id == id with
  | some r =>
    if s.canReach r then match s.downOn r.links with
      | some l => .next (s.loseEvent r (downInfo l))
      | none =>
        let s1 := { s with evreqs := s.evreqs.filter fun x => x.id != id }
        .next (if (s.line r.line).job == r.job then s1.serveLine r else s1)
    else .next s
  | none => .next s

/-- (R9, R12) The links that a message between lines crosses. -/
def LineMsg.links (m : LineMsg) : List Nat :=
  if m.release then routeLinks (lineRouter m.upper) (lineRouter m.lower) else routeLinks (lineRouter m.lower) (lineRouter m.upper)

/-- (R363, R364) A message between lines arrives: a link that retrains holds it, and before one that is down it ends. -/
def State.lineTravel (s : State) (m : LineMsg) (go : State → State) : State :=
  let s1 := { s with lmsgs := s.lmsgs.filter fun x => x.id != m.id }
  if s.heldOn m.links then s else if (s.downOn m.links).isSome then s1 else go s1

/-- A line message taken out. -/
def State.dropLmsg (s : State) (id : Nat) : State := { s with lmsgs := s.lmsgs.filter fun m => m.id != id }

/-- Whether two lines belong to one job. -/
def State.sameJob (s : State) (a b : Nat) : Bool := (s.line a).job.isSome && (s.line a).job == (s.line b).job

/-- UPPER_ARRIVE (R180): an ARRIVE reaches the upper line. -/
def execUpperArrive (id : Nat) (s : State) : Host.Outcome State Fault Refusal :=
  match s.lmsgs.find? fun m => m.id == id with
  | some m =>
    .next (if m.release then s
      else s.lineTravel m fun s =>
        if s.sameJob m.lower m.upper then (s.updLine m.upper fun l => { l with arrived := l.arrived ++ [m.lower] }).countArrival m.upper
        else s)
  | none => .next s

/-- UPPER_RELEASE (R180): a RELEASE reaches the lower line. -/
def execUpperRelease (id : Nat) (s : State) : Host.Outcome State Fault Refusal :=
  match s.lmsgs.find? fun m => m.id == id with
  | some m =>
    .next (if !m.release then s
      else s.lineTravel m fun s => if s.sameJob m.lower m.upper then s.releaseLine m.lower else s)
  | none => .next s

/-! ### Requests at their trigger -/

/-- (R178) Whether an operation delivers a record in evt. -/
def evDelivers (i : Instr) : Bool := unitOf i == 14 && (match delivery i with
  | .queue => true
  | _ => false)

/-- (R55, R178) The ninth record of evt, counting those that the word has put off. -/
def State.evNinth (s : State) : Option FaultAt :=
  let put := (s.restOf s.who).filter fun k => match k with
    | .run tr i => tr.late && evDelivers i
    | _ => false
  if 8 ≤ s.self.bank.records 14 + put.length then some (FaultAt.engine 2 s.opT64) else none

/-- (R178) The line that a trigger names. -/
def State.trigLine (s : State) : Nat := clusterLine (clusterOf s.who.tile) (s.opT64.toNat % 32)

/-- (R178) The checks of a form that names a line of one of the modes `ms`. -/
def State.lineFault (s : State) (ms : List (BitVec 2)) : List (Option FaultAt) :=
  [if 32 ≤ s.opT64.toNat then some (FaultAt.at .xword s.opT64) else none,
   if ms.contains (s.lineFor s.who s.trigLine).mode then none else some (FaultAt.engine 3 s.opT64)]

/-- An operation at its trigger: its fault, or its effect after the word's earlier accesses. -/
def State.startEvt (s : State) (i : Instr) (bad : List (Option FaultAt)) (go : State → State) :
    Host.Outcome State Fault Refusal :=
  match (if s.trig.late then none else firstFault bad) with
  | some f => .next (s.faultTrigger i f)
  | none => .next (s.afterLates i go)

/-- (R179, R188) A request sets out for its line. -/
def State.request (s : State) (k : EvKind) : State :=
  ({ s with
    evreqs := s.evreqs ++ [({ id := s.fresh, who := s.who, job := s.self.job, line := s.trigLine, kind := k, rid := s.fresh,
                              word := s.trig.word, slot := s.trig.slot, t := s.opT64, dbl := s.self.shadow.isSome } : EvReq)]
    } : State).takeId

/-- (R179) A blocking request: its context is not ready until it completes. -/
def State.requestWait (s : State) (k : EvKind) : State :=
  ((s.expectRec 14).updSelf fun x => { x with block := x.block ++ [.event s.fresh s.trig.word s.trig.slot s.opT64] }).request k

/-- (R178) The modes of the lines that a request may name. -/
def EvKind.modes : EvKind → List (BitVec 2)
  | .arrive => [1]
  | .wait => [1, 3]
  | .lock | .unlock => [2]
  | .set | .clear => [3]

/-- (R178, R181) The check of a lock or unlock by what its context holds. -/
def EvKind.ownFault (k : EvKind) (held : List Nat) (line : Nat) (t : W64) : Option FaultAt :=
  match k with
  | .lock => if held.contains line then some (FaultAt.at .selflock (BitVec.ofNat 64 (t.toNat % 32))) else none
  | .unlock => if held.contains line then none else some (FaultAt.engine 5 t)
  | _ => none

/-- (R178, R354) A lost request sets out again with T, with every check of its start. -/
def State.restartEvent (s : State) (r : EvReq) (t : W64) : State :=
  let r1 := { r with t := t, line := clusterLine (clusterOf r.who.tile) (t.toNat % 32), dbl := false }
  if 32 ≤ t.toNat then s.faultEvent r1 .xword 0 t
  else if !r.kind.modes.contains (s.lineFor r.who r1.line).mode then s.faultEvent r1 .engine 3 t
  else match r.kind.ownFault (s.ctx r.who).mutex r1.line t with
    | some f => s.faultEvent r1 f.code f.info.toNat (f.f1.getD t)
    | none =>
      { s.updCtx r.who fun x =>
          { x with
            block := if r.kind.blocks then x.block ++ [.event r.rid r.word r.slot t] else x.block
            mutex := if r.kind == .unlock then x.mutex.erase r1.line else x.mutex } with
        evreqs := (s.evreqs.filter fun (x : EvReq) => x.id < r1.id) ++ r1 :: s.evreqs.filter fun (x : EvReq) => !(x.id < r1.id) }

/-- (R180) arrive. -/
def execEvtArrive (s : State) : Host.Outcome State Fault Refusal :=
  s.startEvt .evtArrive (s.lineFault [1]) fun s => s.request .arrive

/-- (R180, R183) wait. -/
def execEvtWait (s : State) : Host.Outcome State Fault Refusal :=
  s.startEvt .evtWait (s.lineFault [1, 3] ++ [s.evNinth]) fun s => s.requestWait .wait

/-- (R178, R181) lock. -/
def execEvtLock (s : State) : Host.Outcome State Fault Refusal :=
  let own := EvKind.lock.ownFault s.self.mutex s.trigLine s.opT64
  s.startEvt .evtLock (s.lineFault [2] ++ [own, s.evNinth]) fun s => s.requestWait .lock

/-- (R178, R181) unlock: from its trigger on the context counts as no longer holding the line. -/
def execEvtUnlock (s : State) : Host.Outcome State Fault Refusal :=
  let own := EvKind.unlock.ownFault s.self.mutex s.trigLine s.opT64
  match (if s.trig.late then none else firstFault (s.lineFault [2] ++ [own])) with
  | some f => .next (s.faultTrigger .evtUnlock f)
  | none => .next ((s.updSelf fun x => { x with mutex := x.mutex.erase s.trigLine }).afterLates .evtUnlock fun s => s.request .unlock)

/-- (R183) set. -/
def execEvtSet (s : State) : Host.Outcome State Fault Refusal :=
  s.startEvt .evtSet (s.lineFault [3]) fun s => s.request .set

/-- (R183) clear. -/
def execEvtClear (s : State) : Host.Outcome State Fault Refusal :=
  s.startEvt .evtClear (s.lineFault [3]) fun s => s.request .clear

/-- (R185) chain. -/
def execChain (s : State) : Host.Outcome State Fault Refusal :=
  let t := s.opT64
  let l := s.lineFor s.who s.trigLine
  let bad := firstFault
    [if t.toNat / 2 ^ 17 ≠ 0 ∨ t.toNat / 32 % 32 ≠ 0 ∨ t.extractLsb' 15 2 = 3 then some (FaultAt.at .xword t) else none,
     if l.mode ≠ 1 then some (FaultAt.engine 3 t) else none,
     if l.arr ≠ 0 ∨ !l.waiters.isEmpty then some (FaultAt.engine 4 t) else none]
  match bad with
  | some f => .next (s.faultTrigger .chain f)
  | none => .next (s.updLine s.trigLine fun l => { l with clevel := t.extractLsb' 15 2, cline := t.extractLsb' 10 5 })

/-! ### Comparators and the wake queue -/

/-- (R332) The fault of a comparator outside the job's share. -/
def State.cmpFault (s : State) : Option FaultAt :=
  if (s.jobFor s.who).cmpx.getLsbD (s.opT64.toNat % 8) then some (FaultAt.engine 23 s.opT64) else none

/-- (R114, R189, R332) The checks of watch. -/
def State.watchFault (s : State) : List (Option FaultAt) :=
  let t := s.opT64
  let p := s.opPort64 14 0
  let n := s.opPort64 14 1
  let off := vaOf p % 2 ^ 20
  [if t.toNat / 2 ^ 16 ≠ 0 ∨ t.toNat / 8 % 32 ≠ 0 then some (FaultAt.at .xword t) else none,
   s.cmpFault,
   if canonical p then none else some (FaultAt.at .noncanon p),
   if s.isLocal s.who p then none else some (FaultAt.at .nonlocal p),
   if n = 0 ∨ 2 ^ 20 < off + n.toNat then some (FaultAt.at .xword t) else none,
   if (s.jobFor s.who).swcnt ≤ (off + n.toNat - 1) / 4096 then some (FaultAt.at .tilemap p) else none]

/-- (R189) watch. -/
def execWatch (s : State) : Host.Outcome State Fault Refusal :=
  s.startEvt .watch s.watchFault fun s =>
    let j := s.jobFor s.who
    let i := s.opT64.toNat % 8
    s.updSelfTile fun t =>
      t.setCmp i { t.cmps.get Comparator.init i with
                   armed := true, base := j.physOff (vaOf (s.opPort64 14 0)), len := (s.opPort64 14 1).toNat
                   tag := s.opT64.extractLsb' 8 8, shift := 4096 * j.swbase }

/-- (R189) unwatch. -/
def execUnwatch (s : State) : Host.Outcome State Fault Refusal :=
  let t := s.opT64
  s.startEvt .unwatch [if 8 ≤ t.toNat then some (FaultAt.at .xword t) else none, s.cmpFault] fun s =>
    s.updSelfTile fun y => y.setCmp (t.toNat % 8) Comparator.init

/-- (R191) wpop. -/
def execWpop (s : State) : Host.Outcome State Fault Refusal :=
  s.startEvt .wpop [s.evNinth] fun s =>
    (((s.expectRec 14).updSelf fun x => { x with block := x.block ++ [.wpop s.fresh] }).updSelfTile fun t =>
      { t with wpops := t.wpops ++ [(s.who, s.fresh)] }).takeId.serveWake s.who.tile

/-! ### Phases -/

/-- (R193) The phase status of a job. -/
def Job.phaseStatus (j : Job) (opened : Bool) : W64 :=
  BitVec.ofNat 64 ((if opened then 2 ^ 33 else 0) + (if j.abort then 2 ^ 32 else 0) + j.phase.toNat)

/-- (R194) An arrival of the trigger's context in the present phase. -/
def State.arrivePhase (s : State) : State := s.updSelf fun x => { x with arriving := some ((s.jobFor s.who).phase, s.fresh) }

/-- (R194) A phase operation blocks. -/
def State.blockPhase (s : State) (p : BitVec 32) : State := s.updSelf fun x => { x with block := x.block ++ [.phase s.fresh p] }

/-- (R194) phase. -/
def execEvtPhase (s : State) : Host.Outcome State Fault Refusal :=
  s.startEvt .evtPhase [s.evNinth] fun s =>
    let j := s.jobFor s.who
    let s1 := s.expectRec 14
    match s.self.ptry with
    | some q =>
      let s2 := s1.updSelf fun x => { x with ptry := none }
      (if q = j.phase then s2.blockPhase q else s2.landRec s.who 14 s.fresh (rec64 (j.phaseStatus false))).takeId
    | none => (s1.arrivePhase.blockPhase j.phase).takeId

/-- (R194) ptry. -/
def execPtry (s : State) : Host.Outcome State Fault Refusal :=
  s.startEvt .ptry [s.evNinth] fun s =>
    let j := s.jobFor s.who
    let s1 := (s.expectRec 14).landRec s.who 14 s.fresh (rec64 (j.phaseStatus true))
    if s.self.ptry = some j.phase then s1.takeId
    else (s1.arrivePhase.updSelf fun x => { x with ptry := some j.phase }).takeId

/-- (R194) Whether the arrival of a context can be registered. -/
def State.canRegister (s : State) (c : Who) : Bool :=
  match (s.ctx c).arriving with
  | some (_, id) => s.drainedBefore c id true
  | none => false

/-- PHASE_ARRIVAL_REGISTER (R194). -/
def execPhaseArrivalRegister (c : Who) (s : State) : Host.Outcome State Fault Refusal :=
  .next (if s.canRegister c then s.updCtx c fun x => { x with arriving := none, arrived := x.arriving.map (·.1) } else s)

end Sys2Proof.Machine
end

