-- ==== Sys2Proof/Machine/Ctl.lean ====
section
/-! DEFINITION. The operations of ctl (R85 to R99, R104, R105). -/

namespace Sys2Proof.Machine

/-! ### Shared operations -/

/-- (R103) A fault of a ctl operation: FREC1 holds T. -/
def State.ctlFault (s : State) (i : Instr) (code : Flt) (info : Nat) : Host.Outcome State Fault Refusal :=
  .next (s.faultTrigger i { code := code, info := BitVec.ofNat 16 info, f1 := some s.opT64 })

/-- (R65, R85, R89) A control transfer: pending for two delay words, and the end of an active loop. -/
def State.transfer (s : State) (port : BitVec 6) (target : W64) : State :=
  s.updSelf fun x =>
    { x with
      xfer := x.xfer ++ [{ left := 3, target := target, word := s.trig.word, slot := s.trig.slot, port := port, t := s.opT64 }]
      loop := LoopSt.init }

/-- The address of the triggering word. -/
def State.here (s : State) : W64 := BitVec.ofNat 64 s.trig.word

/-- (R86) g1 := W + 3. -/
def State.saveLink (s : State) : State := s.updSelf fun x => x.writeG 1 (s.here + 3)

/-- A write that takes effect after the word. -/
def State.later (s : State) (w : LateWrite) : State := s.updSelf fun x => { x with later := x.later ++ [w] }

/-- (R97) GCOUNT as the earlier operations of the word leave it. -/
def Ctx.gcountNow (x : Ctx) : Nat :=
  x.later.foldl (fun n w => match w with | .gcount m => m | _ => n) x.gcount

/-- (R97) VCOUNT as the earlier operations of the word leave it. -/
def Ctx.vcountNow (x : Ctx) : Nat :=
  x.later.foldl (fun n w => match w with | .vcount m => m | _ => n) x.vcount

/-- (R70, R97) The free physical scalar registers of a tile. -/
def Tile.freeG (t : Tile) : Nat :=
  256 - ([0, 1, 2, 3].map fun k => (t.ctxs.get Ctx.init k).gcountNow).sum

/-- (R70, R97) The free physical vector registers of a tile. -/
def Tile.freeV (t : Tile) : Nat :=
  768 - ([0, 1, 2, 3].map fun k => (t.ctxs.get Ctx.init k).vcountNow).sum

/-- (R97) The count after a change by T names, where that is allowed. -/
def allot (now free step lo hi : Nat) (t : Int) (grow : Bool) : Option Nat :=
  let n : Int := if grow then now + t else now - t
  if t < 0 ∨ t % step ≠ 0 ∨ n < lo ∨ (hi : Int) < n ∨ (grow ∧ (free : Int) < t) then none else some n.toNat

/-- (R97) An allotment operation of scalar names. -/
def State.allotG (s : State) (i : Instr) (grow : Bool) : Host.Outcome State Fault Refusal :=
  let t := s.opT64.toInt
  let free := s.selfTile.freeG
  if t = 0 then .next s
  else match allot s.self.gcountNow free 8 8 64 t grow with
    | some n => .next (s.later (.gcount n))
    | none => .next (s.faultTrigger i (FaultAt.at .regbound (BitVec.ofNat 64 free)))

/-- (R97) An allotment operation of vector names. -/
def State.allotV (s : State) (i : Instr) (grow : Bool) : Host.Outcome State Fault Refusal :=
  let t := s.opT64.toInt
  let free := s.selfTile.freeV
  if t = 0 then .next s
  else match allot s.self.vcountNow free 32 0 768 t grow with
    | some n => .next (s.later (.vcount n))
    | none => .next (s.faultTrigger i (FaultAt.at .regbound (BitVec.ofNat 64 free)))

/-- (R104, R105) `ctl.rfe`: FLT_XWORD for a bad mode or an empty trap shadow; else the handler ends with its word, whose
later triggers still start (R105). A `sys.wr` of the word does not change what it returns with (R121). -/
def State.rfe (s : State) (i : Instr) (mode : Nat) : Host.Outcome State Fault Refusal :=
  if 3 ≤ s.opT64.toNat ∨ s.self.shadow.isNone then s.ctlFault i .xword 0
  else .next (s.updSelf fun x => { x with rfeReq := some (mode, x.frec2, x.frec3) })

/-! ### Control transfers and loops -/

/-- (R85) jump. -/
def execCtlJump (s : State) : Host.Outcome State Fault Refusal := .next (s.transfer 3 s.opT64)

/-- (R85) jumpr. -/
def execCtlJumpr (s : State) : Host.Outcome State Fault Refusal := .next (s.transfer 4 (s.here + s.opT64))

/-- (R85, R86) call. -/
def execCtlCall (s : State) : Host.Outcome State Fault Refusal := .next (s.transfer 5 s.opT64).saveLink

/-- (R85, R86) callr. -/
def execCtlCallr (s : State) : Host.Outcome State Fault Refusal := .next (s.transfer 6 (s.here + s.opT64)).saveLink

/-- (R85) ret. -/
def execCtlRet (s : State) : Host.Outcome State Fault Refusal := .next (s.transfer 7 s.opT64)

/-- (R88) loop: it starts at the end of its word. -/
def execCtlLoop (s : State) : Host.Outcome State Fault Refusal :=
  let t := s.opT64.toNat
  let p := t % 2 ^ 16
  let n := t / 2 ^ 16 % 2 ^ 7
  if n = 0 ∨ 64 < n ∨ 2 ^ 23 ≤ t ∨ 8191 < s.trig.word + n then s.ctlFault .ctlLoop .xword 0
  else .next (s.updSelf fun x => { x with loopReq := some (s.trig.word, n, p) })

/-! ### Issue controls -/

/-- (R91) yield. -/
def execCtlYield (s : State) : Host.Outcome State Fault Refusal :=
  .next (s.updSelfTile fun t => { t with yielded := some s.who.ctx })

/-- (R92) halt: after the word. -/
def execCtlHalt (s : State) : Host.Outcome State Fault Refusal :=
  .next (s.updSelf fun x => { x with halting := some (s.opT64.setWidth 16) })

/-- (R93) idle. -/
def execCtlIdle (s : State) : Host.Outcome State Fault Refusal :=
  .next (s.updSelf fun x => { x with idle := (s.opT64.setWidth 32).toNat })

/-- (R94) prio. -/
def execCtlPrio (s : State) : Host.Outcome State Fault Refusal :=
  if 4 ≤ s.opT64.toNat ∨ (s.jobFor s.who).prio.toNat < s.opT64.toNat then s.ctlFault .ctlPrio .priv 0
  else .next (s.later (.prio (s.opT64.setWidth 2)))

/-- (R95, R379) lock: FLT_PRIV where it would clear a lock bit that the image's RELEASE does not hold. -/
def execCtlLock (s : State) : Host.Outcome State Fault Refusal :=
  let m := s.opT64.setWidth 16 ||| 0x7C01
  if s.self.lock &&& ~~~m &&& ~~~s.self.release ≠ 0 then s.ctlFault .ctlLock .priv 0 else .next (s.later (.lock m))

/-- (R96) check. -/
def execCtlCheck (s : State) : Host.Outcome State Fault Refusal := .next (s.later (.check (s.opT64.getLsbD 0)))

/-! ### Allotment -/

/-- (R97) grow.g. DESIGN CHOICE (log 26): two moves of one word to this port are an illegal word by R31 unless their guards
exclude each other, so R97's example of two in one word never starts. -/
def execCtlGrowG (s : State) : Host.Outcome State Fault Refusal := s.allotG .ctlGrowG true

/-- (R97) shrink.g. -/
def execCtlShrinkG (s : State) : Host.Outcome State Fault Refusal := s.allotG .ctlShrinkG false

/-- (R97) grow.v. -/
def execCtlGrowV (s : State) : Host.Outcome State Fault Refusal := s.allotV .ctlGrowV true

/-- (R97) shrink.v. -/
def execCtlShrinkV (s : State) : Host.Outcome State Fault Refusal := s.allotV .ctlShrinkV false

/-! ### Traps, breakpoints and the return -/

/-- (R98) trap. -/
def execCtlTrap (s : State) : Host.Outcome State Fault Refusal :=
  s.ctlFault .ctlTrap .swtrap (s.opT64.setWidth 16).toNat

/-- (R99, R347, R348) brk: a breakpoint fault, or a debug halt after the word when the job's DEBUG is 1. -/
def execCtlBrk (s : State) : Host.Outcome State Fault Refusal :=
  if (s.jobFor s.who).debug then .next (s.updSelf fun x => { x with dbgHalt := true })
  else s.ctlFault .ctlBrk .brk (s.opT64.setWidth 16).toNat

/-- (R104) rfe, resume. -/
def execRfeResume (s : State) : Host.Outcome State Fault Refusal := s.rfe .rfeResume 0

/-- (R104) rfe, retry. -/
def execRfeRetry (s : State) : Host.Outcome State Fault Refusal := s.rfe .rfeRetry 1

/-- (R104) rfe, skip. -/
def execRfeSkip (s : State) : Host.Outcome State Fault Refusal := s.rfe .rfeSkip 2

end Sys2Proof.Machine
end

