-- ==== Sys2Proof/Machine/Layout.lean ====
section
/-! DEFINITION. The words in which a save slot holds a context, a bank and the parts of a tile (R341, R342): one codec for each
piece of state, which gives its words and reads them back over a value that supplies what the words do not hold. The places
of R341 are the manual's, and so is the result record; the order of words within a region that R341 only names is a
DESIGN CHOICE (log 9). -/

namespace Sys2Proof.Machine

/-- How a slot holds a value: its words, and the value that words stand for, with the words left over. `dec` changes a value:
what the words do not hold, and what a slot cut short does not reach, stays. -/
structure Codec (α : Type) where
  enc : α → List W64
  dec : α → List W64 → α × List W64

/-! ### Plain values -/

/-- A doubleword. -/
def Codec.word : Codec W64 :=
  { enc := fun x => [x]
    dec := fun b ws => match ws with
      | [] => (b, [])
      | w :: r => (w, r) }

/-- A number, modulo 2^64. -/
def Codec.nat : Codec Nat :=
  { enc := fun x => [BitVec.ofNat 64 x]
    dec := fun b ws => match ws with
      | [] => (b, [])
      | w :: r => (w.toNat, r) }

/-- A value of at most 64 bits. -/
def Codec.bits {w : Nat} : Codec (BitVec w) :=
  { enc := fun x => [x.setWidth 64]
    dec := fun b ws => match ws with
      | [] => (b, [])
      | v :: r => (v.setWidth w, r) }

/-- A truth value. -/
def Codec.flag : Codec Bool :=
  { enc := fun x => [if x then 1 else 0]
    dec := fun b ws => match ws with
      | [] => (b, [])
      | w :: r => (w.getLsbD 0, r) }

/-- The value whose `n` doublewords are given, lowest first. -/
def wideOf {w : Nat} (ws : List W64) : BitVec w := BitVec.ofNat w (ws.foldr (fun x a => x.toNat + 2 ^ 64 * a) 0)

/-- A value of `n` doublewords, lowest first. -/
def Codec.wide {w : Nat} (n : Nat) : Codec (BitVec w) :=
  { enc := fun x => (List.range n).map fun i => x.extractLsb' (64 * i) 64
    dec := fun b ws => if ws.length < n then (b, []) else (wideOf (ws.take n), ws.drop n) }

/-! ### Composition -/

/-- A part of a value. -/
def Codec.part {α β : Type} (c : Codec β) (get : α → β) (set : α → β → α) : Codec α :=
  { enc := fun x => c.enc (get x)
    dec := fun b ws => let r := c.dec (get b) ws; (set b r.1, r.2) }

/-- Parts one after another. -/
def Codec.all {α : Type} : List (Codec α) → Codec α
  | [] => { enc := fun _ => [], dec := fun b ws => (b, ws) }
  | c :: cs =>
    { enc := fun x => c.enc x ++ (Codec.all cs).enc x
      dec := fun b ws => let r := c.dec b ws; (Codec.all cs).dec r.1 r.2 }

/-- A part in exactly `n` words. -/
def Codec.sized {α : Type} (n : Nat) (c : Codec α) : Codec α :=
  { enc := fun x => (c.enc x ++ List.replicate n 0).take n
    dec := fun b ws => ((c.dec b (ws.take n)).1, ws.drop n) }

/-- The decoding of `n` values that follow one another, over the values of a list. -/
def Codec.run {α : Type} (c : Codec α) (d : α) : Nat → List α → List W64 → List α × List W64
  | 0, _, ws => ([], ws)
  | n + 1, bs, ws =>
    let r := c.dec (bs.headD d) ws
    let t := Codec.run c d n bs.tail r.2
    (r.1 :: t.1, t.2)

/-- A list of at most `n` values under its length. -/
def Codec.list {α : Type} (n : Nat) (d : α) (c : Codec α) : Codec (List α) :=
  { enc := fun xs => BitVec.ofNat 64 xs.length :: xs.flatMap c.enc
    dec := fun b ws => match ws with
      | [] => (b, [])
      | w :: r => c.run d (min w.toNat n) b r }

/-- A list of values of which the words hold a part: a count that is lower than theirs drops the last of them, and a higher one
adds none, since nothing says what is behind it. -/
def Codec.each {α : Type} (n : Nat) (c : Codec α) : Codec (List α) :=
  { enc := fun xs => BitVec.ofNat 64 xs.length :: (xs.take n).flatMap c.enc
    dec := fun b ws => match ws, b with
      | w :: r, d :: _ =>
        let m := b.take w.toNat
        let t := c.run d (min m.length n) m r
        (t.1 ++ m.drop n, t.2)
      | _, _ => (b, ws.drop 1) }

/-- What may be absent, under a mark. -/
def Codec.opt {α : Type} (d : α) (c : Codec α) : Codec (Option α) :=
  { enc := fun x => match x with
      | none => [0]
      | some y => 1 :: c.enc y
    dec := fun b ws => match ws with
      | [] => (b, [])
      | w :: r => if w.getLsbD 0 then let t := c.dec (b.getD d) r; (some t.1, t.2) else (none, r) }

/-- The entries of keys `k` on, `n` of them. -/
def Codec.rows {α : Type} [DecidableEq α] (d : α) (c : Codec α) : Nat → Nat → Codec (Sparse α)
  | _, 0 => Codec.all []
  | k, n + 1 => Codec.all [c.part (fun m => m.get d k) (fun m v => if v = m.get d k then m else m.set k v), Codec.rows d c (k + 1) n]

/-! ### A context -/

/-- (R88) The loop state. -/
def loopCodec : Codec LoopSt := .all [
  Codec.nat.part (·.start) fun x v => { x with start := v },
  Codec.nat.part (·.stop) fun x v => { x with stop := v },
  Codec.nat.part (·.left) fun x v => { x with left := v },
  Codec.flag.part (·.active) fun x v => { x with active := v }]

/-- (R65, R66) A pending transfer. -/
def xferCodec : Codec Transfer := .all [
  Codec.nat.part (·.left) fun x v => { x with left := v },
  Codec.word.part (·.target) fun x v => { x with target := v },
  Codec.nat.part (·.word) fun x v => { x with word := v },
  Codec.nat.part (·.slot) fun x v => { x with slot := v },
  Codec.bits.part (·.port) fun x v => { x with port := v },
  Codec.word.part (·.t) fun x v => { x with t := v }]

/-- (R65, R66) Up to four pending transfers. -/
def xfersCodec : Codec (List Transfer) :=
  (Codec.list 4 { left := 0, target := 0, word := 0, slot := 0, port := 0, t := 0 } xferCodec).sized 25

/-- (R271) A spindle. -/
def spindleCodec : Codec Spindle := .all [
  Codec.bits.part (·.key) fun x v => { x with key := v },
  Codec.flag.part (·.mode) fun x v => { x with mode := v },
  Codec.bits.part (·.epoch) fun x v => { x with epoch := v },
  Codec.bits.part (·.state) fun x v => { x with state := v }]

/-- (R353) A pending fault; the operation behind it is not in its words. -/
def faultCodec : Codec PendFault := .all [
  Codec.nat.part (·.code.num) fun x v => { x with code := (Flt.ofNum v).getD x.code },
  Codec.bits.part (·.info) fun x v => { x with info := v },
  Codec.word.part (·.f1) fun x v => { x with f1 := v },
  Codec.word.part (·.f2) fun x v => { x with f2 := v },
  Codec.nat.part (·.word) fun x v => { x with word := v },
  Codec.nat.part (·.slot) fun x v => { x with slot := v }]

/-- (R194) A phase, and its place in trigger order. -/
def arrivalCodec : Codec (BitVec 32 × Nat) := .all [
  Codec.bits.part (·.1) fun x v => (v, x.2),
  Codec.nat.part (·.2) fun x v => (x.1, v)]

/-- (R194) What a context is blocked on: its kind, and the phase of a phase operation. -/
def blockCodec : Codec Block :=
  { enc := fun x => match x with
      | .event _ _ _ _ => [0, 0]
      | .wpop _ => [1, 0]
      | .phase _ p => [2, p.setWidth 64]
      | .drain => [3, 0]
      | .copy _ => [4, 0]
    dec := fun b ws => match b, ws with
      | .phase rid _, _ :: p :: r => (.phase rid (p.setWidth 32), r)
      | b, ws => (b, ws.drop 2) }

/-- (R52) A lock mask read back: the bits of units that are always data-locked read 1. -/
def lockOf (v : BitVec 16) : BitVec 16 := v ||| 0x7C01

/-- (R69, R97) GCOUNT and VCOUNT read back: a number out of R97's range changes nothing (DESIGN CHOICE, log 9). -/
def Ctx.putGcount (x : Ctx) (n : Nat) : Ctx := if 8 ≤ n ∧ n ≤ 64 ∧ n % 8 = 0 then x.setGcount n else x
def Ctx.putVcount (x : Ctx) (n : Nat) : Ctx := if n ≤ 768 ∧ n % 32 = 0 then x.setVcount n else x

/-- (R122) The system registers of a context. -/
def sysCodec : Codec Ctx := .all [
  Codec.bits.part (·.prio) fun x v => { x with prio := v },
  Codec.nat.part (·.gcount) Ctx.putGcount,
  Codec.nat.part (·.vcount) Ctx.putVcount,
  Codec.bits.part (·.lock) fun x v => { x with lock := lockOf v },
  Codec.flag.part (·.check) fun x v => { x with check := v },
  Codec.bits.part (·.frm) fun x v => { x with frm := v },
  Codec.bits.part (·.fflags) fun x v => { x with fflags := v },
  Codec.bits.part (·.trapbase) fun x v => { x with trapbase := v },
  Codec.bits.part (·.slim) fun x v => { x with slim := v },
  Codec.word.part (·.frec0) fun x v => { x with frec0 := v },
  Codec.word.part (·.frec1) fun x v => { x with frec1 := v },
  Codec.word.part (·.frec2) fun x v => { x with frec2 := v },
  Codec.word.part (·.frec3) fun x v => { x with frec3 := v },
  Codec.word.part (·.disc) fun x v => { x with disc := v }]

/-- (R273) The yarn settings. -/
def yarnSetCodec : Codec Ctx := .all [
  Codec.bits.part (·.bank.ylen) fun x v => { x with bank := { x.bank with ylen := v } },
  Codec.bits.part (·.bank.dsp) fun x v => { x with bank := { x.bank with dsp := v } },
  Codec.bits.part (·.bank.dk) fun x v => { x with bank := { x.bank with dk := v } }]

/-- (R341) A context's entry behind its g registers: f, a, walk descriptors, system registers, where its stream stands, loop
state, pending transfers and faults, phase state, yarn settings and spindles. The flag that is f0 stays 1. -/
def entryCodec : Codec Ctx := .all [
  Codec.bits.part (·.f) fun x v => { x with f := v },
  (Codec.rows 0 Codec.word 0 16).part (·.a) fun x v => { x with a := v },
  (Codec.rows 0 Codec.word 0 16).part (·.wd) fun x v => { x with wd := v },
  sysCodec.sized 16,
  loopCodec.part (·.loop) fun x v => { x with loop := v },
  Codec.nat.part (·.pc) fun x v => { x with pc := v },
  Codec.nat.part (·.stall) fun x v => { x with stall := v },
  Codec.nat.part (·.idle) fun x v => { x with idle := v },
  yarnSetCodec,
  (Codec.rows Spindle.init spindleCodec 0 4).part (·.spindles) fun x v => { x with spindles := v },
  ((Codec.opt 0 Codec.bits).part (·.exit) fun x v => { x with exit := v }).sized 2,
  ((Codec.opt 0 Codec.bits).part (·.ptry) fun x v => { x with ptry := v }).sized 2,
  ((Codec.opt 0 Codec.bits).part (·.arrived) fun x v => { x with arrived := v }).sized 2,
  ((Codec.opt (0, 0) arrivalCodec).part (·.arriving) fun x v => { x with arriving := v }).sized 3,
  xfersCodec.part (·.xfer) fun x v => { x with xfer := v },
  ((Codec.each 16 blockCodec).part (·.block) fun x v => { x with block := v }).sized 33,
  (Codec.each 64 faultCodec).part (·.faults) fun x v => { x with faults := v }]

/-! ### A bank -/

/-- (R41) A record: stat, out, aux, as R341 orders them. -/
def recCodec : Codec Rec := .all [
  Codec.word.part (·.stat) fun x v => { x with stat := v },
  (Codec.wide 8).part (·.out) fun x v => { x with out := v },
  (Codec.wide 8).part (·.aux) fun x v => { x with aux := v }]

/-- (R341) The first doubleword of a result record: unit, context, queued, cycles left, in a trap shadow. Bit 17 marks the
queue of ldq, which shares its unit's number. -/
def recHead (key c : Nat) (queued : Bool) (left : Nat) (shadow : Bool) : W64 :=
  BitVec.ofNat 64 (key % 16 + 16 * (c % 4) + (if queued then 64 else 0) + 256 * (left % 256) + (if shadow then 65536 else 0)
    + (if key < 16 then 0 else 131072))

/-- (R341) The result records of a bank: those in flight, then those queued, queue by queue. -/
def Bank.saved (b : Bank) (c : Nat) (shadow : Bool) : List (W64 × Rec) :=
  b.fly.map (fun f => (recHead f.unit c false f.left shadow, f.res))
    ++ b.queues.flatMap fun (e : Nat × List Rec) => e.2.map fun r => (recHead e.1 c true 0 shadow, r)

/-- The record that a doubleword and its record stand for put back into a bank: a result in flight over the one that the bank
held at its place, or at the end of its queue. Unit 0 has no results: such a place holds none. -/
def Bank.putRecord (old b : Bank) (h : W64) (r : Rec) : Bank :=
  let u := (h.setWidth 4).toNat
  if u = 0 then b
  else if h.getLsbD 6 then
    let key := if h.getLsbD 17 then 16 + u else u
    b.setQueue key (b.queue key ++ [r])
  else
    let f := old.fly.getD b.fly.length { unit := u, id := 0, left := 0, cyc := 0, div := false, res := r, eff := Effects.none }
    { b with fly := b.fly ++ [{ f with unit := u, left := (h.extractLsb' 8 8).toNat, res := r }] }

/-- (R341) The places of result records in a bank's part of a slot. -/
def recordPlaces : Nat := 184

/-- (R341) The result records of a bank as words, 184 places of 144 bytes. -/
def recordsCodec (c : Nat) (shadow : Bool) : Codec Bank :=
  { enc := fun b => (b.saved c shadow).flatMap fun e => e.1 :: recCodec.enc e.2
    dec := fun b ws =>
      let n := recordPlaces
      if (b.saved c shadow).length ≤ n then
        ((List.range n).foldl (fun (a : Bank) i =>
          let w := ws.drop (18 * i)
          a.putRecord b (w.headD 0) (recCodec.dec Rec.zero (w.drop 1)).1) { b with fly := [], queues := [] }, ws.drop (18 * n))
      else (b, ws.drop (18 * n)) }

/-- (R219, R244) The lane formats and the matrix descriptors. -/
def settingsCodec : Codec Bank := .all [
  Codec.bits.part (·.marks) fun x v => { x with marks := v },
  Codec.bits.part (·.lfA) fun x v => { x with lfA := v },
  Codec.bits.part (·.lfB) fun x v => { x with lfB := v },
  Codec.word.part (·.mxA) fun x v => { x with mxA := v },
  Codec.bits.part (·.mxAs) fun x v => { x with mxAs := v },
  Codec.word.part (·.mxB) fun x v => { x with mxB := v },
  Codec.bits.part (·.mxBs) fun x v => { x with mxBs := v },
  Codec.word.part (·.mxShape) fun x v => { x with mxShape := v },
  Codec.word.part (·.mxProg) fun x v => { x with mxProg := v },
  Codec.bits.part (·.mxConst) fun x v => { x with mxConst := v }]

/-- (R40) The three operand ports of each unit. -/
def portsCodec : Codec Bank := .all ((List.range 16).flatMap fun u => (List.range 3).map fun p =>
  (Codec.wide 8).part (·.port u p) fun b v => if v = b.port u p then b else b.setPort u p v)

/-- (R341) The words of a bank ahead of its result records: operand ports, result slots, read marks and settings. -/
def unitsCodec : Codec Bank := .all [
  portsCodec,
  (Codec.rows Rec.zero recCodec 0 16).part (·.slots) fun x v => { x with slots := v },
  settingsCodec.sized 17]

/-- (R341) A bank's 32 KiB: operand ports, result slots, read marks and settings, and the result records in the last
184 × 144 bytes. -/
def bankCodec (c : Nat) (shadow : Bool) : Codec Bank := .all [unitsCodec.sized 784, (recordsCodec c shadow).sized (18 * recordPlaces)]

/-- (R60, R89, R104) What a trap shadow holds beside its bank. -/
def streamCodec : Codec Shadow := .all [
  Codec.bits.part (·.lock) fun x v => { x with lock := lockOf v },
  loopCodec.part (·.loop) fun x v => { x with loop := v },
  Codec.nat.part (·.pc) fun x v => { x with pc := v },
  Codec.nat.part (·.word) fun x v => { x with word := v },
  Codec.nat.part (·.sc) fun x v => { x with sc := v },
  Codec.nat.part (·.stall) fun x v => { x with stall := v },
  Codec.nat.part (·.idle) fun x v => { x with idle := v },
  Codec.flag.part (·.same) fun x v => { x with same := v },
  ((Codec.opt 0 Codec.bits).part (·.halting) fun x v => { x with halting := v }).sized 2,
  xfersCodec.part (·.xfer) fun x v => { x with xfer := v }]

/-- (R341) A trap shadow in the layout of the bank, with the stream's part of it between the settings and the records. -/
def heldCodec (c : Nat) : Codec Shadow := .all [
  (unitsCodec.sized 673).part (·.bank) fun x v => { x with bank := v },
  streamCodec.sized 111,
  ((recordsCodec c true).sized (18 * recordPlaces)).part (·.bank) fun x v => { x with bank := v }]

/-- (R341) The trap shadow of a context: zeros while it is empty. -/
def shadowCodec (c : Nat) : Codec Ctx :=
  { enc := fun x => match x.shadow with
      | some h => (heldCodec c).enc h
      | none => []
    dec := fun x ws => match x.shadow with
      | some h => let r := (heldCodec c).dec h ws; ({ x with shadow := some r.1 }, r.2)
      | none => (x, []) }

/-! ### A tile's parts -/

/-- A form of the matrix queue with its operand as a word, and back. -/
def MxKind.word : MxKind → W64
  | .mma => 0
  | .mmz => 1
  | .mrun => 2
  | .mclear v => 3 + BitVec.ofNat 64 (2 ^ 32 * v.toNat)
  | .mfill r => 4 + BitVec.ofNat 64 (256 * r)
  | .mdrain r => 5 + BitVec.ofNat 64 (256 * r)
  | .mrd r q => 6 + BitVec.ofNat 64 (256 * r + 65536 * q)
  | .mresume b => 7 + (if b then 256 else 0)
def MxKind.ofWord (w : W64) : MxKind :=
  let r := w.toNat / 256 % 64
  match w.toNat % 8 with
  | 0 => .mma
  | 1 => .mmz
  | 2 => .mrun
  | 3 => .mclear (w.extractLsb' 32 32)
  | 4 => .mfill r
  | 5 => .mdrain r
  | 6 => .mrd r (w.toNat / 65536 % 4)
  | _ => .mresume (w.getLsbD 8)

/-- (R252, R263) A matrix operation: its form, accumulator, copied descriptors and progress. -/
def mxCodec : Codec MxOp := .all [
  Codec.word.part (·.kind.word) fun x v => { x with kind := MxKind.ofWord v },
  Codec.nat.part (·.acc) fun x v => { x with acc := v % 8 },
  Codec.word.part (·.t) fun x v => { x with t := v },
  Codec.word.part (·.o1) fun x v => { x with o1 := v },
  Codec.word.part (·.a) fun x v => { x with a := v },
  Codec.bits.part (·.as) fun x v => { x with as := v },
  Codec.word.part (·.b) fun x v => { x with b := v },
  Codec.bits.part (·.bs) fun x v => { x with bs := v },
  Codec.word.part (·.shape) fun x v => { x with shape := v },
  Codec.word.part (·.prog) fun x v => { x with prog := v },
  Codec.bits.part (·.const) fun x v => { x with const := v },
  Codec.nat.part (·.k0) fun x v => { x with k0 := v },
  Codec.nat.part (·.i) fun x v => { x with i := v },
  Codec.nat.part (·.j) fun x v => { x with j := v },
  Codec.flag.part (·.z) fun x v => { x with z := v }]

/-- (R249) The progress of a stopped accumulator. -/
def accCodec : Codec AccSt :=
  { enc := fun x => match x with
      | .stopped o => 2 :: mxCodec.enc o
      | .busy _ _ => [1]
      | .idle => [0]
    dec := fun b ws => match b with
      | .stopped o => (.stopped (mxCodec.dec o (ws.drop 1)).1, [])
      | _ => (b, []) }

/-- (R260) Doubleword `i` of an accumulator's checksums, which hold 64 columns, then 64 rows. -/
def pair32 (lo hi : W32) : W64 := (hi ++ lo : BitVec 64)

/-- (R260) Word `i` of an accumulator's checksums: the column, then the row. -/
def Tile.sumAt (t : Tile) (m i : Nat) : W32 := if i < 64 then t.csum.get 0 (64 * m + i) else t.rsum.get 0 (64 * m + i - 64)

/-- (R260) A checksum word put in place. -/
def Tile.putSum (t : Tile) (m i : Nat) (v : W32) : Tile :=
  if i < 64 then { t with csum := t.csum.set (64 * m + i) v } else { t with rsum := t.rsum.set (64 * m + i - 64) v }

/-- (R260, R341) The checksums of the accumulators of a job's share, 512 bytes each. -/
def sumsCodec (within : Nat → Bool) : Codec Tile := .all ((List.range 8).flatMap fun m => (List.range 64).map fun i =>
  if within m then
    Codec.word.part (fun t => pair32 (t.sumAt m (2 * i)) (t.sumAt m (2 * i + 1)))
      fun t v => (t.putSum m (2 * i) (v.setWidth 32)).putSum m (2 * i + 1) (v.extractLsb' 32 32)
  else (Codec.all []).sized 1)

/-- (R341) The matrix section: checksums, matrix queue, progress and copied descriptors. -/
def matrixCodec (within : Nat → Bool) : Codec Tile := .all [
  sumsCodec within,
  ((Codec.each 16 mxCodec).part (·.mxq) fun t v => { t with mxq := v }).sized 256,
  ((Codec.rows AccSt.idle (accCodec.sized 16) 0 8).part (·.accs) fun t v => { t with accs := v }).sized 128]

/-- (R296, R341) The slots of a reel: pointer or address, and stat. -/
def slotCodec : Codec (W64 × W64) := .all [
  Codec.word.part (·.1) fun x v => (v, x.2),
  Codec.word.part (·.2) fun x v => (x.1, v)]

/-- (R341) The reel slots of a job's share: 16 reels of 64 slots. -/
def reelSlotsCodec (within : Nat → Bool) : Codec Tile := .all ((List.range 16).map fun n =>
  if within n then
    ((Codec.rows (0, 0) slotCodec 0 64).part (fun t : Tile => (t.reels.get Reel.init n).slots)
      fun t v => if v = (t.reels.get Reel.init n).slots then t else
        { t with reels := t.reels.set n { t.reels.get Reel.init n with slots := v } }).sized 128
  else (Codec.all []).sized 128)

/-- (R297) The claims of a reel: how many, and their contexts in two bits each, oldest lowest. The record of a claim stays. -/
def claimsCodec : Codec (List (Who × Nat)) :=
  { enc := fun x => [BitVec.ofNat 64 x.length, BitVec.ofNat 64 (x.foldr (fun e a => e.1.ctx % 4 + 4 * a) 0)]
    dec := fun b ws => match ws with
      | n :: w :: r => (((b.take n.toNat).zipIdx).map fun (e, i) => ({ e.1 with ctx := w.toNat / 4 ^ i % 4 }, e.2), r)
      | _ => (b, []) }

/-- (R296, R297) A reel's counters, SIZE and claims. -/
def reelCodec : Codec Reel := .all [
  Codec.nat.part (·.size) fun x v => { x with size := v },
  Codec.bits.part (·.pushed) fun x v => { x with pushed := v },
  Codec.bits.part (·.filled) fun x v => { x with filled := v },
  Codec.bits.part (·.awaited) fun x v => { x with awaited := v },
  Codec.bits.part (·.released) fun x v => { x with released := v },
  Codec.nat.part (·.pushAt) fun x v => { x with pushAt := v },
  Codec.nat.part (·.fillAt) fun x v => { x with fillAt := v },
  Codec.nat.part (·.awaitAt) fun x v => { x with awaitAt := v },
  Codec.nat.part (·.relAt) fun x v => { x with relAt := v },
  claimsCodec.part (·.claims) fun x v => { x with claims := v }]

/-- (R306) An entry of a receive queue: the value, then the header. -/
def entryPairCodec : Codec (W512 × W64) := .all [
  (Codec.wide 8).part (·.1) fun x v => (v, x.2),
  Codec.word.part (·.2) fun x v => (x.1, v)]

/-- (R306, R308) A receive queue. -/
def rqCodec : Codec RQueue := .all [
  Codec.flag.part (·.opened) fun x v => { x with opened := v },
  Codec.nat.part (·.reader) fun x v => { x with reader := v },
  (Codec.list 16 (0, 0) entryPairCodec).part (·.entries) fun x v => { x with entries := v }]

/-- (R189) A comparator. -/
def cmpCodec : Codec Comparator := .all [
  Codec.flag.part (·.armed) fun x v => { x with armed := v },
  Codec.nat.part (·.base) fun x v => { x with base := v },
  Codec.nat.part (·.len) fun x v => { x with len := v },
  Codec.bits.part (·.tag) fun x v => { x with tag := v },
  (Codec.opt (0, 0) (Codec.all [
    Codec.nat.part (·.1) fun (x : Nat × W64) v => (v, x.2),
    Codec.word.part (·.2) fun x v => (x.1, v)])).part (·.pending) fun x v => { x with pending := v }]

/-- The words of a part that is a share's, and as many zeros for one that is not. -/
def Codec.share {α : Type} (within : Bool) (n : Nat) (c : Codec α) : Codec α := (if within then c else Codec.all []).sized n

/-- (R310) A joined rotate: its context, slot and word, and its rotate word. -/
def rotCodec : Codec (Nat × Trig × Nat) := .all [
  Codec.nat.part (fun e => e.2.1.who.ctx + 4 * e.2.1.slot + 64 * e.2.1.word) fun e v =>
    (e.1, { e.2.1 with who := { e.2.1.who with ctx := v % 4 }, slot := v / 4 % 16, word := v / 64 % 8192 }, e.2.2),
  Codec.word.part (fun e => lo64 e.2.1.t) fun e v => (e.1, { e.2.1 with t := v.setWidth 512 }, e.2.2)]

/-- (R341) The queue section: 16 reels of 12 words, 4 receive queues of 160 words, 8 comparators of 8 words, the wake queue in
17 words, and up to 32 joined rotates. -/
def queuesCodec (reelIn rqIn cmpIn : Nat → Bool) : Codec Tile := .all [
  Codec.all ((List.range 16).map fun n => (reelCodec.part (fun t : Tile => t.reels.get Reel.init n)
    fun t v => if v = t.reels.get Reel.init n then t else { t with reels := t.reels.set n v }).share (reelIn n) 12),
  Codec.all ((List.range 4).map fun n => (rqCodec.part (fun t : Tile => t.rqs.get RQueue.init n)
    fun t v => if v = t.rqs.get RQueue.init n then t else { t with rqs := t.rqs.set n v }).share (rqIn n) 160),
  Codec.all ((List.range 8).map fun n => (cmpCodec.part (fun t : Tile => t.cmps.get Comparator.init n)
    fun t v => if v = t.cmps.get Comparator.init n then t else { t with cmps := t.cmps.set n v }).share (cmpIn n) 8),
  ((Codec.list 16 0 Codec.word).part (·.wakeq) fun t v => { t with wakeq := v }).sized 17,
  ((Codec.each 32 rotCodec).part (·.rots) fun t v => { t with rots := v }).sized 65]

/-! ### The groups of registers -/

/-- (R342) Group `k` of a context's scalar registers: eight of them. -/
def gCodec (k : Nat) : Codec Ctx := .all ((List.range 8).map fun i =>
  Codec.word.part (fun x => x.readG (8 * k + i)) fun x v => if v = x.readG (8 * k + i) then x else x.writeG (8 * k + i) v)

/-- (R342) Group `k` of a context's vector registers: 32 of them. -/
def vCodec (k : Nat) : Codec Ctx := .all ((List.range 32).map fun i =>
  (Codec.wide 8).part (fun x => x.readV (32 * k + i)) fun x v => if v = x.readV (32 * k + i) then x else x.writeV (32 * k + i) v)

/-- (R275, R341) The yarns: their bits, then their descriptors. -/
def yarnsCodec : Codec Ctx := .all
  (((List.range 8).map fun y => (Codec.wide 64).part (fun x : Ctx => (x.yarn y).bits)
      fun x v => if v = (x.yarn y).bits then x else x.setYarn y { x.yarn y with bits := v })
    ++ (List.range 8).map fun y => Codec.word.part (fun x : Ctx => descriptor (x.yarn y).k (x.yarn y).lin)
      fun x v => if v = descriptor (x.yarn y).k (x.yarn y).lin then x else
        x.setYarn y { x.yarn y with k := (v.extractLsb' 44 4).toNat, lin := lineageOf v })

end Sys2Proof.Machine
end

