-- ==== Sys2Proof/Machine/Crypto.lean ====
section
/-! DEFINITION. SHA-384 and the making and checking of an ECDSA signature over brainpoolP384r1, which R374, R390 and R393 name by their
standards (log 6). -/

namespace Sys2Proof.Machine

/-! ### SHA-384 -/

/-- The round constants: the first 64 bits of the fractional parts of the cube roots of the first eighty primes. -/
def shaK : List W64 :=
  ([0x428A2F98D728AE22, 0x7137449123EF65CD, 0xB5C0FBCFEC4D3B2F, 0xE9B5DBA58189DBBC, 0x3956C25BF348B538, 0x59F111F1B605D019,
     0x923F82A4AF194F9B, 0xAB1C5ED5DA6D8118, 0xD807AA98A3030242, 0x12835B0145706FBE, 0x243185BE4EE4B28C, 0x550C7DC3D5FFB4E2,
     0x72BE5D74F27B896F, 0x80DEB1FE3B1696B1, 0x9BDC06A725C71235, 0xC19BF174CF692694, 0xE49B69C19EF14AD2, 0xEFBE4786384F25E3,
     0x0FC19DC68B8CD5B5, 0x240CA1CC77AC9C65]
    ++ [0x2DE92C6F592B0275, 0x4A7484AA6EA6E483, 0x5CB0A9DCBD41FBD4, 0x76F988DA831153B5, 0x983E5152EE66DFAB, 0xA831C66D2DB43210,
     0xB00327C898FB213F, 0xBF597FC7BEEF0EE4, 0xC6E00BF33DA88FC2, 0xD5A79147930AA725, 0x06CA6351E003826F, 0x142929670A0E6E70,
     0x27B70A8546D22FFC, 0x2E1B21385C26C926, 0x4D2C6DFC5AC42AED, 0x53380D139D95B3DF, 0x650A73548BAF63DE, 0x766A0ABB3C77B2A8,
     0x81C2C92E47EDAEE6, 0x92722C851482353B]
    ++ [0xA2BFE8A14CF10364, 0xA81A664BBC423001, 0xC24B8B70D0F89791, 0xC76C51A30654BE30, 0xD192E819D6EF5218, 0xD69906245565A910,
     0xF40E35855771202A, 0x106AA07032BBD1B8, 0x19A4C116B8D2D0C8, 0x1E376C085141AB53, 0x2748774CDF8EEB99, 0x34B0BCB5E19B48A8,
     0x391C0CB3C5C95A63, 0x4ED8AA4AE3418ACB, 0x5B9CCA4F7763E373, 0x682E6FF3D6B2B8A3, 0x748F82EE5DEFB2FC, 0x78A5636F43172F60,
     0x84C87814A1F0AB72, 0x8CC702081A6439EC]
    ++ [0x90BEFFFA23631E28, 0xA4506CEBDE82BDE9, 0xBEF9A3F7B2C67915, 0xC67178F2E372532B, 0xCA273ECEEA26619C, 0xD186B8C721C0C207,
     0xEADA7DD6CDE0EB1E, 0xF57D4F7FEE6ED178, 0x06F067AA72176FBA, 0x0A637DC5A2C898A6, 0x113F9804BEF90DAE, 0x1B710B35131C471B,
     0x28DB77F523047D84, 0x32CAAB7B40C72493, 0x3C9EBE0A15C9BEBC, 0x431D67C49C100D4C, 0x4CC5D4BECB3E42B6, 0x597F299CFC657E2A,
     0x5FCB6FAB3AD6FAEC, 0x6C44198C4A475817]).map (BitVec.ofNat 64)

/-- The initial hash value: the same bits of the square roots of the ninth to the sixteenth prime. -/
def shaH : List W64 :=
  [0xCBBB9D5DC1059ED8, 0x629A292A367CD507, 0x9159015A3070DD17, 0x152FECD8F70E5939,
   0x67332667FFC00B31, 0x8EB44A8768581511, 0xDB0C2E0D64F98FA7, 0x47B5481DBEFA4FA4]

/-- A number of big-endian bytes, and its last `n` bytes. -/
def beNat (bs : List Byte) : Nat := bs.foldl (fun n b => 256 * n + b.toNat) 0
def beBytes (n v : Nat) : List Byte := ((List.range n).map fun i => BitVec.ofNat 8 (v / 256 ^ i)).reverse

/-- A message padded to a multiple of 128 bytes: a one bit, zeros, and its length in bits. -/
def shaPad (bs : List Byte) : List Byte :=
  bs ++ 0x80 :: List.replicate ((239 - bs.length % 128) % 128) 0 ++ beBytes 16 (8 * bs.length)

/-- The message schedule of a block of 16 words, newest first. -/
def shaSchedule (ws : List W64) : List W64 :=
  (List.range 64).foldl (fun (w : List W64) _ =>
    let a := w.getD 14 0
    let b := w.getD 1 0
    ((b.rotateRight 19 ^^^ b.rotateRight 61 ^^^ (b >>> 6)) + w.getD 6 0
      + (a.rotateRight 1 ^^^ a.rotateRight 8 ^^^ (a >>> 7)) + w.getD 15 0) :: w) ws.reverse

/-- One round, of a state of eight words, with its constant and its word. -/
def shaRound (h : List W64) (kw : W64 × W64) : List W64 :=
  match h with
  | [a, b, c, d, e, f, g, x] =>
    let t1 := x + (e.rotateRight 14 ^^^ e.rotateRight 18 ^^^ e.rotateRight 41) + ((e &&& f) ^^^ (~~~e &&& g)) + kw.1 + kw.2
    let t2 := (a.rotateRight 28 ^^^ a.rotateRight 34 ^^^ a.rotateRight 39) + ((a &&& b) ^^^ (a &&& c) ^^^ (b &&& c))
    [t1 + t2, a, b, c, d + t1, e, f, g]
  | _ => h

/-- A block of 128 bytes taken into the hash value. -/
def shaBlock (h : List W64) (bs : List Byte) : List W64 :=
  let ws := (List.range 16).map fun i => BitVec.ofNat 64 (beNat ((bs.drop (8 * i)).take 8))
  let r := (shaK.zip (shaSchedule ws).reverse).foldl shaRound h
  (h.zip r).map fun p => p.1 + p.2

/-- The SHA-384 digest of a message. -/
def sha384 (bs : List Byte) : List Byte :=
  let m := shaPad bs
  let h := (List.range (m.length / 128)).foldl (fun h i => shaBlock h ((m.drop (128 * i)).take 128)) shaH
  (h.take 6).flatMap fun w => beBytes 8 w.toNat

/-! ### ECDSA over brainpoolP384r1 -/

/-- The curve y² = x³ + A x + B over the prime field of P, its base point and the order of that (RFC 5639). -/
def curveP : Nat := 0x8cb91e82a3386d280f5d6f7e50e641df152f7109ed5456b412b1da197fb71123acd3a729901d1a71874700133107ec53
def curveA : Nat := 0x7bc382c63d8c150c3c72080ace05afa0c2bea28e4fb22787139165efba91f90f8aa5814a503ad4eb04a8c7dd22ce2826
def curveB : Nat := 0x4a8c7dd22ce28268b39b55416f0447c2fb77de107dcd2a62e880ea53eeb62d57cb4390295dbc9943ab78696fa504c11
def curveGx : Nat := 0x1d1c64f068cf45ffa2a63a81b7c13f6b8847a3e77ef14fe3db7fcafe0cbd10e8e826e03436d646aaef87b2e247d4af1e
def curveGy : Nat := 0x8abe1d7520f9c2a45cb1eb8e95cfd55262b70b29feec5864e19c054ff99129280e4646217791811142820341263c5315
def curveN : Nat := 0x8cb91e82a3386d280f5d6f7e50e641df152f7109ed5456b31f166e6cac0425a7cf3ab6af6b7fc3103b883202e9046565

/-- b^e mod m, for an exponent of 384 bits. -/
def powMod (b e m : Nat) : Nat :=
  (List.range 384).foldl (fun r i => let q := r * r % m
    if e.testBit (383 - i) then q * b % m else q) 1

/-- A difference in the field. -/
def subP (a b : Nat) : Nat := (a + (curveP - b % curveP)) % curveP

/-- A point in Jacobian coordinates; at infinity with z = 0. -/
structure Point where
  x : Nat
  y : Nat
  z : Nat
  deriving DecidableEq, Repr

def pointInfinity : Point := { x := 1, y := 1, z := 0 }

/-- A point doubled. -/
def doublePoint (a : Point) : Point :=
  let yy := a.y * a.y % curveP
  let s := 4 * a.x * yy % curveP
  let zz := a.z * a.z % curveP
  let m := (3 * a.x * a.x + curveA * (zz * zz % curveP)) % curveP
  let x := subP (m * m) (2 * s)
  { x := x, y := subP (m * subP s x) (8 * yy * yy), z := 2 * a.y * a.z % curveP }

/-- The sum of two points. -/
def addPoint (a b : Point) : Point :=
  if a.z = 0 then b
  else if b.z = 0 then a
  else
    let az := a.z * a.z % curveP
    let bz := b.z * b.z % curveP
    let u := a.x * bz % curveP
    let s := a.y * bz % curveP * b.z % curveP
    let h := subP (b.x * az) u
    let r := subP (b.y * az % curveP * a.z) s
    if h = 0 then if r = 0 then doublePoint a else pointInfinity
    else
      let hh := h * h % curveP
      let hhh := h * hh % curveP
      let v := u * hh % curveP
      let x := subP (r * r) (hhh + 2 * v)
      { x := x, y := subP (r * subP v x) (s * hhh), z := h * a.z % curveP * b.z % curveP }

/-- A multiple of a point, for a factor of 384 bits. -/
def mulPoint (k : Nat) (a : Point) : Point :=
  (List.range 384).foldl (fun r i => let q := doublePoint r
    if k.testBit (383 - i) then addPoint q a else q) pointInfinity

/-- The x coordinate of a point that is not at infinity. -/
def Point.affineX (a : Point) : Nat := a.x * powMod (a.z * a.z % curveP) (curveP - 2) curveP % curveP

/-- (R374, R389, R390) Whether r and s, 48 big-endian bytes each, are an ECDSA signature with SHA-384 of a message by the
holder of a key, an uncompressed point of 97 bytes. -/
def ecdsaVerify (key msg sig : List Byte) : Bool :=
  let x := beNat ((key.drop 1).take 48)
  let y := beNat (key.drop 49)
  let r := beNat (sig.take 48)
  let s := beNat (sig.drop 48)
  let w := powMod s (curveN - 2) curveN
  let p := addPoint (mulPoint (beNat (sha384 msg) * w % curveN) { x := curveGx, y := curveGy, z := 1 })
    (mulPoint (r * w % curveN) { x := x, y := y, z := 1 })
  key.length == 97 && key.head? == some 4 && sig.length == 96 && x < curveP && y < curveP
    && y * y % curveP == (x * x % curveP * x + curveA * x + curveB) % curveP
    && 0 < r && r < curveN && 0 < s && s < curveN && p.z != 0 && p.affineX % curveN == r

/-- (R393) The ECDSA signature with SHA-384 that a private key makes of a message with a secret number, both taken into 1 to
n − 1: r and s, 48 big-endian bytes each. -/
def ecdsaSign (key nonce : Nat) (msg : List Byte) : List Byte :=
  let d := 1 + key % (curveN - 1)
  let k := 1 + nonce % (curveN - 1)
  let r := (mulPoint k { x := curveGx, y := curveGy, z := 1 }).affineX % curveN
  beBytes 48 r ++ beBytes 48 (powMod k (curveN - 2) curveN * (beNat (sha384 msg) + r * d) % curveN)

end Sys2Proof.Machine
end

