-- ==== Sys2Proof/Machine/Objects.lean ====
section
/-! DEFINITION. Code objects: their layout (R368 to R374), the checks of loading (R375, R378), and the roles that a
placement takes from them (R371, R377). -/

namespace Sys2Proof.Machine

/-! ### Bytes -/

/-- `n` bytes of a string from offset `o`. -/
def sub (bs : List Byte) (o n : Nat) : List Byte := (bs.drop o).take n

/-- (R368) A little-endian field of `n` bytes at offset `o`. -/
def fieldAt (bs : List Byte) (o n : Nat) : Nat := leNat (sub bs o n)

/-- (R368) An entry of the section table with its section's bytes. -/
structure Section where
  ty : Nat
  reserved : Nat
  off : Nat
  size : Nat
  bytes : List Byte
  deriving DecidableEq, Repr

/-- (R368) Entry `i` of the section table. -/
def sectionAt (bs : List Byte) (i : Nat) : Section :=
  let e := 0x40 + 16 * i
  { ty := fieldAt bs e 2, reserved := fieldAt bs (e + 2) 6, off := fieldAt bs (e + 8) 4, size := fieldAt bs (e + 12) 4
    bytes := sub bs (fieldAt bs (e + 8) 4) (fieldAt bs (e + 12) 4) }

/-- (R368) The sections of an object. -/
def sectionsOf (bs : List Byte) : List Section := (List.range (fieldAt bs 6 2)).map (sectionAt bs)

/-! ### Check 1 -/

/-- (R368) An ASCII name padded with zero bytes. -/
def nameOk (bs : List Byte) : Bool :=
  let rest := bs.dropWhile fun b => b != 0
  bs.all (fun b => b.toNat < 128) && rest.all fun b => b == 0

/-- (R368) The header of an object of `n` bytes. -/
def headerOk (bs : List Byte) : Bool :=
  fieldAt bs 0 4 == 0x4F434B5A && fieldAt bs 4 2 == 1 && 5 ≤ fieldAt bs 6 2 && fieldAt bs 6 2 ≤ 64
    && fieldAt bs 8 8 ≤ 2 ^ 26 && 0x40 + 16 * fieldAt bs 6 2 ≤ fieldAt bs 8 8
    && nameOk (sub bs 0x10 32) && fieldAt bs 0x30 16 == 0

/-- (R368) How many sections of each type an object has. -/
def countsOk (ss : List Section) : Bool :=
  let n (t : Nat) : Nat := (ss.filter fun s => s.ty == t).length
  n 1 == 1 && 1 ≤ n 2 && n 2 ≤ 16 && n 3 == 1 && n 4 == 1 && n 5 ≤ 1 && n 6 ≤ 1 && n 15 == 1

/-- (R369) A version note. -/
def noteOk (bs : List Byte) : Bool :=
  let n := fieldAt bs 6 2
  n ≤ 255 && 0x10 + 8 * n ≤ bs.length && fieldAt bs 5 1 == 0 && fieldAt bs 8 8 == 0
    && (List.range n).all fun e => fieldAt bs (0x14 + 8 * e) 4 == 0

/-- (R370) A role image. -/
def imageOk (bs : List Byte) : Bool :=
  let n := fieldAt bs 2 2
  let o := fieldAt bs 4 2
  let inside (a : Nat) : Bool := o ≤ a && a < o + n
  let g := fieldAt bs 0x0E 1
  let v := fieldAt bs 0x10 2
  fieldAt bs 0 2 ≤ 15 && 1 ≤ n && n ≤ 8192 && o + n ≤ 8192 && 0x80 + 32 * n ≤ bs.length
    && inside (fieldAt bs 6 2) && inside (fieldAt bs 8 2) && (fieldAt bs 0x0A 2 == 0xFFFF || inside (fieldAt bs 0x0A 2))
    && (BitVec.ofNat 16 (fieldAt bs 0x0C 2) &&& 0x7C01) == 0 && g % 8 == 0 && 8 ≤ g && g ≤ 64 && fieldAt bs 0x0F 1 ≤ g
    && v % 32 == 0 && v ≤ 768 && fieldAt bs 0x12 2 ≤ v && fieldAt bs 0x18 8 == 0

/-- (R371) The entries of a placement table: die, ylo, yhi, xlo, xhi, role. -/
def placeEntries (bs : List Byte) : List (Nat × Nat × Nat × Nat × Nat × Nat) :=
  (List.range (fieldAt bs 0 2)).map fun i =>
    let f (k : Nat) : Nat := fieldAt bs (8 + 8 * i + k) 1
    (f 0, f 1, f 2, f 3, f 4, f 5)

/-- (R371) A placement table of an object with images of the roles `roles`. -/
def placeOk (bs : List Byte) (roles : List Nat) : Bool :=
  let n := fieldAt bs 0 2
  1 ≤ n && n ≤ 64 && 8 + 8 * n ≤ bs.length && fieldAt bs 2 6 == 0
    && (List.range n).all (fun i => fieldAt bs (8 + 8 * i + 6) 2 == 0)
    && (placeEntries bs).all fun (d, yl, yh, xl, xh, r) =>
      d ≤ 3 && yl ≤ yh && xl ≤ xh && yh ≤ 11 && xh ≤ 11 && roles.contains r

/-- (R372) A boot tree: one doubleword. -/
def treeOk (bs : List Byte) : Bool := bs.length == 8 && (BitVec.ofNat 64 (fieldAt bs 0 8) &&& ~~~0x103#64) == 0

/-- (R373) A data section. -/
def dataOk (bs : List Byte) : Bool :=
  16 ≤ bs.length && fieldAt bs 3 1 == 0 && fieldAt bs 4 2 ≤ 4095 && fieldAt bs 6 2 == 0 && fieldAt bs 12 4 == 0
    && 16 + fieldAt bs 8 4 ≤ bs.length && fieldAt bs 2 1 * 4096 + fieldAt bs 4 2 + fieldAt bs 8 4 ≤ 2 ^ 20

/-- (R374, R375) A signature whose fields are as they must be, which is part of check 2. -/
def signOk (bs : List Byte) : Bool := bs.length == 104 && fieldAt bs 4 4 == 0

/-- (R368 to R374) Whether section `i` breaks no rule. -/
def sectionOk (ss : List Section) (len : Nat) (i : Nat) (s : Section) : Bool :=
  let before := ss.take i
  let roles := (ss.filter fun x => x.ty == 2).map fun x => fieldAt x.bytes 0 2
  s.reserved == 0 && s.off % 8 == 0 && s.off + s.size ≤ len
    && before.all (fun x => x.off + x.size ≤ s.off || s.off + s.size ≤ x.off)
    && match s.ty with
      | 1 => noteOk s.bytes
      | 2 => imageOk s.bytes && !(before.any fun x => x.ty == 2 && fieldAt x.bytes 0 2 == fieldAt s.bytes 0 2)
      | 3 => placeOk s.bytes roles
      | 4 => treeOk s.bytes
      | 5 | 6 => true
      | 7 => dataOk s.bytes
      | 15 => i + 1 == ss.length && s.off + s.size == len
      | _ => false

/-- The first index from `i` on whose element fails a test. -/
def firstBad {α : Type} (ok : Nat → α → Bool) : Nat → List α → Option Nat
  | _, [] => none
  | i, x :: xs => if ok i x then firstBad ok (i + 1) xs else some i

/-- LIDX where no section is to blame (R375). -/
def noSection : Nat := 0xFFFFFFFF

/-- (R375) Check 1: the LIDX of its failure. -/
def layoutBad (bs : List Byte) : Option Nat :=
  if !headerOk bs then some noSection
  else
    let ss := sectionsOf bs
    if !countsOk ss then some ((firstBad (fun _ s => [1, 2, 3, 4, 5, 6, 7, 15].contains s.ty) 0 ss).getD noSection)
    else firstBad (sectionOk ss (fieldAt bs 8 8)) 0 ss

/-! ### What an object holds -/

/-- The bytes of the section of a type. -/
def sectionOf (bs : List Byte) (t : Nat) : List Byte := (((sectionsOf bs).find? fun s => s.ty == t).map (·.bytes)).getD []

/-- (R370) A role image read. -/
def parseRole (bs : List Byte) : Role :=
  { role := fieldAt bs 0 2, origin := fieldAt bs 4 2, entry := fieldAt bs 6 2, trapEntry := fieldAt bs 8 2
    rejoin := if fieldAt bs 0x0A 2 = 0xFFFF then none else some (fieldAt bs 0x0A 2)
    release := BitVec.ofNat 16 (fieldAt bs 0x0C 2), gmin := fieldAt bs 0x0E 1, gkeep := fieldAt bs 0x0F 1
    vmin := fieldAt bs 0x10 2, vkeep := fieldAt bs 0x12 2, fkeep := BitVec.ofNat 16 (fieldAt bs 0x14 2)
    akeep := BitVec.ofNat 16 (fieldAt bs 0x16 2)
    own := (List.range 256).map fun s => BitVec.ofNat 2 (fieldAt bs (0x20 + s / 4) 1 / 4 ^ (s % 4))
    disc := (List.range 256).map fun s => (fieldAt bs (0x60 + s / 8) 1).testBit (s % 8)
    words := (List.range (fieldAt bs 2 2)).map fun i => BitVec.ofNat 256 (fieldAt bs (0x80 + 32 * i) 32) }

/-- (R373) A data section read: role, offset in the job's window, bytes. -/
def parseData (bs : List Byte) : Nat × Nat × List Byte :=
  (fieldAt bs 0 2, fieldAt bs 2 1 * 4096 + fieldAt bs 4 2, sub bs 16 (fieldAt bs 8 4))

/-- (R368) An object read. -/
def parseObj (queue ref : Nat) (bs : List Byte) : Obj :=
  let of (t : Nat) : List (List Byte) := ((sectionsOf bs).filter fun s => s.ty == t).map (·.bytes)
  { queue := queue, ref := ref, timing := fieldAt (sectionOf bs 1) 4 1, roles := (of 2).map parseRole
    place := placeEntries (sectionOf bs 3), data := (of 7).map parseData, bytes := bs }

/-! ### Checks 2 to 7 -/

/-- (R374) Whether the signature is well formed and holds, by an enrolled key. -/
def State.signed (s : State) (bs : List Byte) : Bool :=
  let sg := sectionOf bs 15
  match s.keys.get? (fieldAt sg 0 4) with
  | some key => signOk sg && ecdsaVerify key (bs.take (bs.length - 104)) (sg.drop 8)
  | none => false

/-- (R378) Whether the device honours an errata entry. -/
def erratumOk (n : Nat) : Bool := n != 907 && Config.erratum n

/-- (R375) The first check that fails: LERR and LIDX. -/
def State.loadError (s : State) (queue ref : Nat) (bs : List Byte) : Option (Nat × Nat) :=
  match layoutBad bs with
  | some i => some (1, i)
  | none =>
    let ss := sectionsOf bs
    let note := sectionOf bs 1
    let nidx := (ss.findIdx? fun x => x.ty == 1).getD noSection
    let timing := fieldAt note 4 1
    let free := ss.any fun x => x.ty == 2 && fieldAt x.bytes 0x0C 2 != 0
    let errata := (List.range (fieldAt note 6 2)).map fun e => fieldAt note (0x10 + 8 * e) 2
    if !s.signed bs then some (2, (ss.findIdx? fun x => x.ty == 15).getD noSection)
    else if 1 < fieldAt note 0 2 then some (3, nidx)
    else if timing ≠ 0 ∧ timing ≠ 1 ∧ free then some (4, nidx)
    else match errata.find? fun e => !erratumOk e with
      | some e => some (5, e)
      | none =>
        if timing = 0 ∧ free then some (6, nidx)
        else if 256 ≤ s.objs.length || s.objs.any (fun o => o.queue == queue && o.ref == ref) then some (7, noSection)
        else none

/-- (R375) The bytes of an object in DRAM: as many as its header says, where DRAM holds them. -/
def State.objectBytes (s : State) (pa : Nat) : List Byte :=
  let at' (i : Nat) : Byte := Memory.read s.mem (paLoc (pa + i))
  let len := leNat ((List.range 8).map fun i => at' (8 + i))
  if dramTop < pa + 64 ∨ 2 ^ 26 < len ∨ dramTop < pa + len then []
  else (List.range len).map at'

/-- (R376) A loaded object by its queue and reference. -/
def State.obj? (s : State) (queue ref : Nat) : Option Obj := s.objs.find? fun o => o.queue == queue && o.ref == ref

/-! ### Roles on tiles -/

/-- (R371) The role number of a logical coordinate: that of the last entry whose box holds it. -/
def Obj.roleNo (o : Obj) (d y x : Nat) : Option Nat :=
  o.place.foldl (fun r (pd, yl, yh, xl, xh, n) =>
    if d = pd ∧ yl ≤ y ∧ y ≤ yh ∧ xl ≤ x ∧ x ≤ xh then some n else r) none

/-- (R371) The role image of a tile of a job. -/
def Job.roleAt (j : Job) (tile : Nat) : Option Role :=
  match j.logical tile with
  | some (d, y, x) => (j.obj.roleNo d y x).bind fun n => j.obj.roles.find? fun r => r.role == n
  | none => none

/-- (R377) Whether two objects are the same object. -/
def Obj.same (a b : Obj) : Bool := a.bytes == b.bytes && a.roles == b.roles

end Sys2Proof.Machine
end

