-- ==== Sys2Proof/Machine/Image.lean ====
section
/-! DEFINITION. A job's share of a tile (R332), the tile image that a save makes and a restore reads (R340), and the save
groups, header and slots of the save area (R341 to R344). -/

namespace Sys2Proof.Machine

/-! ### The share -/

/-- (R332) Whether an accumulator, reel, receive queue, comparator or physical swatch is in a job's share. -/
def Job.accIn (j : Job) (m : Nat) : Bool := !j.accx.getLsbD m
def Job.reelIn (j : Job) (n : Nat) : Bool := !j.reelx.getLsbD n
def Job.rqIn (j : Job) (n : Nat) : Bool := !j.qx.getLsbD n
def Job.cmpIn (j : Job) (n : Nat) : Bool := !j.cmpx.getLsbD n
def Job.swatchIn (j : Job) (p : Nat) : Bool := j.swbase ≤ p && p < j.swbase + j.swcnt

/-- (R14, R333) The contexts of a job on a tile. -/
def Job.ctxsOn (j : Job) (tile : Nat) : List Nat :=
  match j.rects.find? fun r => r.holds tile with
  | some r => (r.whos tile).map (·.ctx)
  | none => []

/-- The keys of a map that satisfy `p`. -/
def Sparse.only {α : Type} (m : Sparse α) (p : Nat → Bool) : Sparse α := m.filter fun (e : Nat × α) => p e.1

/-- A map with the entries of another written over it. -/
def Sparse.over {α : Type} (m n : Sparse α) : Sparse α := n.foldl (fun (a : Sparse α) (e : Nat × α) => a.set e.1 e.2) m

/-- (R332, R343) Whether a written part of a tile's save groups is in a job's share. -/
def Job.markIn (j : Job) (g : Nat) : Bool :=
  if g < 512 then j.accIn (g / 64)
  else if g < 540 then j.reelIn (g - 520)
  else if g < 550 then j.rqIn (g - 540)
  else if g < 580 then j.cmpIn (g - 550)
  else if g < 600 then j.reelIn (g - 580)
  else j.accIn (g - 600)

/-- (R332) A tile's part that is in a job's share (`out` false) or outside it. The wake queue's tokens go with their
comparators; what is the whole tile's stays outside. -/
def Tile.part (t : Tile) (j : Job) (tile : Nat) (out : Bool) : Tile :=
  let cs := j.ctxsOn tile
  let mine (w : Who) : Bool := (w.tile == tile && cs.contains w.ctx) != out
  let base := if out then t else Tile.init
  { base with
    ctxs := t.ctxs.only fun c => cs.contains c != out
    owner := t.owner.only fun p => j.swatchIn p != out
    cells := t.cells.only fun k => j.accIn (k / 4096) != out
    csum := t.csum.only fun k => j.accIn (k / 64) != out
    rsum := t.rsum.only fun k => j.accIn (k / 64) != out
    accs := t.accs.only fun m => j.accIn m != out
    mxq := (if out then t.mxq else t.mxAll).filter fun o => (o.job == some j.id) != out
    mxLate := if out then t.mxLate.filter fun o => o.job != some j.id else []
    mxw := t.mxw.filter fun w => mine w.who
    reels := t.reels.only fun n => j.reelIn n != out
    rqs := t.rqs.only fun n => j.rqIn n != out
    cmps := t.cmps.only fun n => j.cmpIn n != out
    wakeq := t.wakeq.filter fun w => j.mayPop w != out
    wakeLate := t.wakeLate.filter fun w => j.mayPop w != out
    wpops := t.wpops.filter fun w => mine w.1
    rots := t.rots.filter fun e => (e.1 == j.id) != out
    dirty := t.dirty.filter fun g => j.markIn g != out }

/-- (R190, R338) A tile that a job's share has left; the tokens of other jobs enter the freed entries of the wake queue. -/
def Tile.leave (t : Tile) (j : Job) (tile : Nat) : Tile := ((t.part j tile true).refillAll 16).pullMx

/-- (R190, R251, R340) A tile with the share of a job put in place. Tokens beyond the 16 entries of the wake queue, and operations
beyond the 16 of the matrix queue, stay at hand until entries free (DESIGN CHOICE, log 9). -/
def Tile.putPart (t : Tile) (j : Job) (tile : Nat) (x : Tile) : Tile :=
  let o := t.part j tile true
  { o with
    ctxs := o.ctxs.over x.ctxs, owner := o.owner.over x.owner, cells := o.cells.over x.cells, csum := o.csum.over x.csum
    rsum := o.rsum.over x.rsum, accs := o.accs.over x.accs, mxLate := o.mxLate ++ x.mxAll, mxw := o.mxw ++ x.mxw
    reels := o.reels.over x.reels, rqs := o.rqs.over x.rqs, cmps := o.cmps.over x.cmps
    wakeLate := o.wakeLate ++ x.wakeq ++ x.wakeLate
    wpops := o.wpops ++ x.wpops, rots := o.rots ++ x.rots }.refillAll 16 |>.pullMx

/-- The first storage location of a job's window on a tile, and its size. -/
def Job.windowLoc (j : Job) (tile : Nat) : Nat := sramLoc tile (4096 * j.swbase)
def Job.windowSize (j : Job) : Nat := 4096 * j.swcnt

/-- (R341) The image of a tile's share as it stands. -/
def State.imageOf (s : State) (j : Job) (tile : Nat) : Image :=
  let a := j.windowLoc tile
  { tile := (s.tile tile).part j tile false, sram := Memory.block s.mem a j.windowSize
    poison := (s.poison.filter fun d => a / 8 ≤ d && d < (a + j.windowSize) / 8).map (· - a / 8)
    msgs := [], restarts := [], ops := [], valid := [] }

/-- Values put in place of the keys [a, a + n). -/
def putRange {α : Type} (m : Sparse α) (a n : Nat) (x : Sparse α) : Sparse α :=
  (m.filter fun (e : Nat × α) => e.1 < a) ++ (x.map fun (e : Nat × α) => (a + e.1, e.2))
    ++ m.filter fun (e : Nat × α) => a + n ≤ e.1

/-- The bytes of a window of `n` bytes at location `a`, as entries of memory in canonical form from offset `lo` on. -/
def Memory.window (a n : Nat) : Nat → Sparse Byte → List Host.Cell
  | _, [] => []
  | lo, (k, v) :: m =>
    if lo ≤ k ∧ k < n ∧ v ≠ unlisted then (a + k, v) :: Memory.window a n (k + 1) m else Memory.window a n lo m

/-- The memory with the bytes of a window put in place of those at [a, a + n). -/
def Memory.putWindow (m : List Host.Cell) (a n : Nat) (x : Sparse Byte) : List Host.Cell :=
  (m.filter fun (e : Host.Cell) => e.1 < a) ++ Memory.window a n 0 x ++ m.filter fun (e : Host.Cell) => a + n ≤ e.1

/-- (R340, R361) An image put in place on a tile: its share, its window's bytes and poison. -/
def State.putImage (s : State) (j : Job) (tile : Nat) (im : Image) : State :=
  let a := j.windowLoc tile
  let n := j.windowSize
  { s.updTile tile fun t => t.putPart j tile im.tile with
    mem := Memory.putWindow s.mem a n im.sram
    poison := (s.poison.filter fun d => d < a / 8) ++ im.poison.map (a / 8 + ·) ++ s.poison.filter fun d => (a + n) / 8 ≤ d
    trail := untrail s.trail a n }

/-! ### Save groups -/

/-- (R342) The save groups: of a context, of the tile, an accumulator row, a swatch of the window. -/
inductive Grp where
  | g (c k : Nat)
  | v (c k : Nat)
  | entry (c : Nat)
  | bank (c : Nat)
  | shadow (c : Nat)
  | yarns (c : Nat)
  | matrix
  | reels
  | queues
  | row (m i : Nat)
  | swatch (k : Nat)
  deriving DecidableEq, Repr

/-- A context of an image. -/
def Image.ctx (im : Image) (c : Nat) : Ctx := im.tile.ctxs.get Ctx.init c

/-- A context of an image changed. -/
def Image.updCtx (im : Image) (c : Nat) (f : Ctx → Ctx) : Image :=
  { im with tile := { im.tile with ctxs := im.tile.ctxs.upd Ctx.init c f } }

/-- (R341) The place of a context's first vector register among those of the contexts `cs`. -/
def Image.vbase (im : Image) (cs : List Nat) (c : Nat) : Nat :=
  ((cs.takeWhile fun d => d != c).map fun d => (im.ctx d).vcount).sum

/-- (R342) The save groups of a job on a tile. -/
def Image.groups (im : Image) (j : Job) (cs : List Nat) : List Grp :=
  (cs.flatMap fun c => ((List.range ((im.ctx c).gcount / 8)).map fun k => Grp.g c k)
      ++ ((List.range ((im.ctx c).vcount / 32)).map fun k => Grp.v c k) ++ [.entry c, .bank c, .shadow c, .yarns c])
    ++ [.matrix, .reels, .queues]
    ++ ((List.range 8).filter j.accIn).flatMap (fun m => (List.range 64).map fun i => Grp.row m i)
    ++ (List.range j.swcnt).map fun k => .swatch k

/-- (R341, R342) Where a group stands in its slot, and its bytes. -/
def Image.span (im : Image) (cs : List Nat) : Grp → Nat × Nat
  | .g c k => (0x1000 + 0x2000 * c + 64 * k, 64)
  | .entry c => (0x1200 + 0x2000 * c, 7680)
  | .bank c => (0x9000 + 0x8000 * c, 0x8000)
  | .shadow c => (0x29000 + 0x8000 * c, 0x8000)
  | .yarns c => (0x49000 + 0x2000 * c, 0x2000)
  | .v c k => (0x51000 + 64 * im.vbase cs c + 2048 * k, 2048)
  | .matrix => (0x5D000, 0x2000)
  | .reels => (0x5F000, 0x4000)
  | .queues => (0x63000, 0x2000)
  | .row m i => (0x80000 + 0x4000 * m + 256 * i, 256)
  | .swatch k => (0x100000 + 4096 * k, 4096)

/-- (R342) A group's bit in the valid map: g groups 0 to 31, v groups 32 to 55 in the order of their places, swatches from 64,
accumulator rows from 320, then what has one group for each context or tile. The order is a DESIGN CHOICE (log 9). -/
def Image.bit (im : Image) (cs : List Nat) : Grp → Nat
  | .g c k => 8 * c + k
  | .v c k => 32 + im.vbase cs c / 32 + k
  | .swatch k => 64 + k
  | .row m i => 320 + 64 * m + i
  | .entry c => 832 + c
  | .bank c => 836 + c
  | .shadow c => 840 + c
  | .yarns c => 844 + c
  | .matrix => 848
  | .reels => 849
  | .queues => 850

/-- (R341) A codec of a context in an image. -/
def Codec.ofCtx (c : Nat) (k : Codec Ctx) : Codec Image := k.part (fun im => im.ctx c) fun im x => im.updCtx c fun _ => x

/-- (R341) A codec of a tile in an image. -/
def Codec.ofTile (k : Codec Tile) : Codec Image := k.part (·.tile) fun im t => { im with tile := t }

/-- (R341, R350) An outstanding message: destination word, header, value. -/
def msgCodec : Codec Msg := .all [
  Codec.word.part (·.t) fun x v => { x with t := v },
  Codec.word.part (·.header) fun x v => { x with header := v },
  (Codec.wide 8).part (·.value) fun x v => { x with value := v }]

/-- (R178) The number of a form of evt, and back. -/
def EvKind.num : EvKind → Nat
  | .arrive => 0 | .wait => 1 | .lock => 2 | .unlock => 3 | .set => 4 | .clear => 5
def EvKind.ofNum (n : Nat) : EvKind :=
  match n with
  | 0 => .arrive | 1 => .wait | 2 => .lock | 3 => .unlock | 4 => .set | _ => .clear

/-- (R186, R341) A withdrawn event request: its form, slot and word, its line in the cluster, and its operand T. -/
def lineCodec : Codec EvReq := .all [
  Codec.nat.part (fun r => r.kind.num + 8 * r.slot + 128 * r.word) fun r v =>
    { r with kind := EvKind.ofNum (v % 8), slot := v / 8 % 16, word := v / 128 % 8192 },
  Codec.nat.part (·.line % 32) fun r v => { r with line := 32 * (r.line / 32) + v % 32 },
  Codec.word.part (·.t) fun r v => { r with t := v }]

/-- (R341) How a slot holds a group of registers or of a tile's parts. -/
def Image.codec (j : Job) : Grp → Codec Image
  | .g c k => (gCodec k).ofCtx c
  | .v c k => (vCodec k).ofCtx c
  | .entry c => .all [
      (entryCodec.ofCtx c).sized 800,
      ((Codec.each 8 msgCodec).part (fun im : Image => im.msgs.filter fun m => m.who.ctx == c)
        fun im l => { im with msgs := (im.msgs.filter fun m => m.who.ctx != c) ++ l }).sized 96,
      (((Codec.each 8 lineCodec).part (fun x : Ctx => x.withdrawn) fun x l => { x with withdrawn := l }).ofCtx c).sized 64]
  | .bank c => (((bankCodec c false).part (·.bank) fun x b => { x with bank := b }).ofCtx c)
  | .shadow c => (shadowCodec c).ofCtx c
  | .yarns c => yarnsCodec.ofCtx c
  | .matrix => (matrixCodec j.accIn).ofTile
  | .reels => (reelSlotsCodec j.reelIn).ofTile
  | .queues => (queuesCodec j.reelIn j.rqIn j.cmpIn).ofTile
  | .row _ _ | .swatch _ => .all []

/-- (R341) The bytes of a group. -/
def Image.groupBytes (im : Image) (j : Job) (cs : List Nat) (g : Grp) : List Byte :=
  match g with
  | .swatch k => Sparse.dense 0 (4096 * k) 4096 im.sram
  | .row m i => (Sparse.dense 0 (4096 * m + 64 * i) 64 im.tile.cells).flatMap fun w => leBytes 4 w.toNat
  | _ => (((Image.codec j g).sized ((im.span cs g).2 / 8)).enc im).flatMap fun w => leBytes 8 w.toNat

/-- The doublewords of bytes. -/
def dwordsOf : Nat → List Byte → List W64
  | 0, _ => []
  | n + 1, bs => BitVec.ofNat 64 (leNat (bs.take 8)) :: dwordsOf n (bs.drop 8)

/-- (R340, R341) The bytes of a group put in place. -/
def Image.putGroup (im : Image) (j : Job) (g : Grp) (bs : List Byte) : Image :=
  match g with
  | .swatch k =>
    let l := ((List.range 4096).zip bs).filter fun (e : Nat × Byte) => e.2 != 0
    { im with sram := putRange im.sram (4096 * k) 4096 l }
  | .row m i =>
    let ws := (List.range 64).map fun n => (n, BitVec.ofNat 32 (leNat ((bs.drop (4 * n)).take 4)))
    { im with tile := { im.tile with cells := putRange im.tile.cells (4096 * m + 64 * i) 64 (ws.filter fun (e : Nat × W32) => e.2 != 0) } }
  | _ => ((Image.codec j g).dec im (dwordsOf (bs.length / 8) bs)).1

/-- (R343) Whether a group has been written since the last save, by the marks of the state. -/
def Image.written (im : Image) (j : Job) (swatches : List Nat) : Grp → Bool
  | .g c k => (im.ctx c).dirty.getLsbD k
  | .v c k => (im.ctx c).dirty.getLsbD (8 + k)
  | .entry c => (im.ctx c).dirty.getLsbD 32
  | .bank c => (im.ctx c).dirty.getLsbD 33
  | .shadow c => (im.ctx c).dirty.getLsbD 34
  | .yarns c => (im.ctx c).dirty.getLsbD 35
  | .matrix => im.tile.dirty.any fun n => n < 512 || 600 ≤ n
  | .reels => im.tile.dirty.any fun n => 580 ≤ n && n < 600
  | .queues => im.tile.dirty.any fun n => 512 ≤ n && n < 580
  | .row m i => im.tile.dirty.contains (64 * m + i)
  | .swatch k => swatches.contains (j.swbase + k)

/-- (R343) An image with no mark set. -/
def Image.clean (im : Image) : Image :=
  { im with tile := { im.tile with
      dirty := []
      ctxs := im.tile.ctxs.map fun (e : Nat × Ctx) => (e.1, { e.2 with dirty := 0 }) } }

/-! ### The save area -/

/-- Bytes cut at the boundaries of 4 KiB granules of physical address. -/
def granules : Nat → Nat → List Byte → List (Nat × List Byte)
  | 0, _, _ => []
  | n + 1, pa, bs =>
    if bs.isEmpty then []
    else
      let k := 4096 - pa % 4096
      (pa, bs.take k) :: granules n (pa + k) (bs.drop k)

/-- (R341) Bytes written at a physical address. -/
def State.storePa (s : State) (pa : Nat) (bs : List Byte) : State :=
  (granules (bs.length / 4096 + 2) pa bs).foldl (fun (s : State) (g : Nat × List Byte) => s.storeBytes (paLoc g.1) g.2) s

/-- `n` bytes read at a physical address, a granule of 4 KiB at a time. -/
def State.readPa (s : State) (pa n : Nat) : List Byte :=
  let base := pa / 4096
  ((List.range ((pa + n - 1) / 4096 + 1 - base)).flatMap fun k =>
    Sparse.dense unlisted 0 4096 (Memory.block s.mem (paLoc (4096 * (base + k))) 4096)).drop (pa % 4096) |>.take n

/-- (R341) The physical address of the slot of the n-th tile of an area. -/
def slotPa (area n : Nat) : Nat := area + n * 0x200000

/-- (R342) The doublewords of a slot's header: FORMAT, the save count, the job word, VCOUNT and GCOUNT of the four contexts,
from doubleword 8 on the valid map. Their places within the header are a DESIGN CHOICE (log 9). -/
def Image.header (im : Image) (j : Job) (cs : List Nat) (saves : Nat) : List W64 :=
  let bits := (im.groups j cs).map (im.bit cs)
  [if j.compat then 2 else 1, BitVec.ofNat 64 saves, BitVec.ofNat 64 (j.queue * 2 ^ 32 + j.pseq.toNat)]
    ++ (List.range 4).map (fun c => if cs.contains c then BitVec.ofNat 64 ((im.ctx c).gcount * 65536 + (im.ctx c).vcount) else 0)
    ++ [0] ++ (List.range 14).map (fun i =>
      if j.compat then BitVec.allOnes 64
      else BitVec.ofNat 64 (((bits.filter fun b => b / 64 == i).map fun b => 2 ^ (b % 64)).sum))
    ++ List.replicate 490 0

/-- (R342) The valid map that a header's bytes hold. -/
def mapValid (bs : List Byte) (b : Nat) : Bool := (bs.getD (64 + b / 8) 0).getLsbD (b % 8)

/-- (R343) The groups that a save writes: in the native format those that have been written since the last save, whose image
is `old`, that differ from it or stand elsewhere, or whose valid bit is clear; else all. -/
def Image.toWrite (im : Image) (j : Job) (cs : List Nat) (swatches : List Nat) (old : Option Image) : List Grp :=
  (im.groups j cs).filter fun g => match old with
    | none => true
    | some o => im.written j swatches g || !o.valid.contains (im.bit cs g) || o.span cs g != im.span cs g
        || o.groupBytes j cs g != im.groupBytes j cs g

/-- (R341 to R344) A tile image written to a slot: the header and the groups that are to be written. Poison goes with the
swatches (log 9). -/
def State.saveImage (s : State) (j : Job) (cs : List Nat) (tile pa saves : Nat) (im : Image) (old : Option Image) : State :=
  let sw := (s.dirty.filter fun n => n / 256 == tile).map fun n => n % 256
  let gs := im.toWrite j cs sw old
  let s1 := s.storePa pa ((im.header j cs saves).flatMap fun w => leBytes 8 w.toNat)
  let s2 := gs.foldl (fun (s : State) g => s.storePa (pa + (im.span cs g).1) (im.groupBytes j cs g)) s1
  { s2 with
    poison := (im.poison.filter fun d => gs.contains (.swatch (d / 512))).foldl (fun (l : List Nat) d =>
      insertNat (paLoc (pa + 0x100000 + 8 * d) / 8) l) s2.poison }

/-- (R342, R343) An image as the last save of a job leaves it: every group is valid, none is dirty. -/
def Image.saved (im : Image) (j : Job) (cs : List Nat) : Image := { im.clean with valid := (im.groups j cs).map (im.bit cs) }

/-- (R343) The swatches of a job on a tile are no longer dirty. -/
def State.cleanSwatches (s : State) (j : Job) (tile : Nat) : State :=
  { s with dirty := s.dirty.filter fun n => !(n / 256 == tile && j.swatchIn (n % 256)) }

/-- (R70) The scalar and vector registers that jobs other than `gone` hold on a tile. -/
def State.used (s : State) (t : Nat) (gone : List Nat) : Nat × Nat :=
  (s.tile t).ctxs.foldl (fun (n : Nat × Nat) (e : Nat × Ctx) => match e.2.job with
    | some k => if gone.contains k then n else (n.1 + e.2.gcount, n.2 + e.2.vcount)
    | none => n) (0, 0)

/-- (R70) The scalar and vector registers of an image's contexts. -/
def Image.regs (im : Image) : Nat × Nat :=
  im.tile.ctxs.foldl (fun (n : Nat × Nat) (e : Nat × Ctx) => (n.1 + e.2.gcount, n.2 + e.2.vcount)) (0, 0)

/-- (R70) An image whose allotments have been read back: those that a tile does not have beside `used` are as they were
(DESIGN CHOICE, log 9). -/
def Image.allotted (im old : Image) (used : Nat × Nat) : Image :=
  if used.1 + im.regs.1 ≤ 256 ∧ used.2 + im.regs.2 ≤ 768 then im
  else { im with
    tile := { im.tile with
      ctxs := im.tile.ctxs.map fun (e : Nat × Ctx) => (e.1, (e.2.setGcount (old.ctx e.1).gcount).setVcount (old.ctx e.1).vcount) } }

/-- Whether a group is a context's entry. -/
def Grp.isEntry : Grp → Bool
  | .entry _ => true
  | _ => false

/-- (R340, R343) An image as a restore on a tile where other jobs hold `used` reads it: every valid group from the slot, the entries
first, since they give the allotments; the rest as it was saved. -/
def State.loadImage (s : State) (j : Job) (cs : List Nat) (pa : Nat) (used : Nat × Nat) (im : Image) : Image :=
  let map := s.readPa pa 4096
  let put (m : Image) (g : Grp) : Image := match g with
    | .swatch k =>
      { m with sram := putRange m.sram (4096 * k) 4096 (Memory.block s.mem (paLoc (pa + 0x100000 + 4096 * k)) 4096) }
    | _ => m.putGroup j g (s.readPa (pa + (m.span cs g).1) (m.span cs g).2)
  let valid (m : Image) : List Grp := (m.groups j cs).filter fun g => mapValid map (m.bit cs g)
  let im0 := (((valid im).filter Grp.isEntry).foldl put im).allotted im used
  let gs := valid im0
  let im1 := (gs.filter fun g => !g.isEntry).foldl put im0
  { im1 with
    poison := (List.range j.swcnt).flatMap fun k =>
      if gs.contains (.swatch k) then
        let a := paLoc (pa + 0x100000 + 4096 * k) / 8
        (s.poison.filter fun d => a ≤ d && d < a + 512).map fun d => 512 * k + (d - a)
      else im.poison.filter fun d => d / 512 == k }

/-- (R340) The discardable swatches of an image zeroed, and DISC of its contexts. -/
def Image.discard (im : Image) (j : Job) (disc : List Bool) : Image :=
  let gone (k : Nat) : Bool := disc.getD k false && k < j.swcnt
  let grp : W64 := (List.range 64).foldl (fun (v : W64) i =>
    if (List.range 4).any fun k => gone (4 * i + k) then setBit v i true else v) 0
  { im with
    sram := im.sram.filter fun (e : Nat × Byte) => !gone (e.1 / 4096)
    poison := im.poison.filter fun d => !gone (d / 512)
    tile := { im.tile with
      owner := im.tile.owner.filter fun (e : Nat × BitVec 2) => !gone (e.1 - j.swbase)
      ctxs := im.tile.ctxs.map fun (e : Nat × Ctx) => (e.1, { e.2 with disc := grp }) } }

end Sys2Proof.Machine
end

