-- ==== Sys2Proof/Machine/MemEvents.lean ====
section
/-! DEFINITION. The events of the memory system: translation (R138 to R147), arrivals at homes (R134, R148, R149), replies (R48),
fences and drains (R165, R166), gathering (R160, R161), staging (R163) and prefetch (R149). -/

namespace Sys2Proof.Machine

/-! ### Translation -/

/-- How far the translation of an operation's bytes has come. -/
structure TrAcc where
  s : State
  locs : List Nat
  leaf : Option Nat
  pas : List Nat
  last : Nat
  bad : Option (Flt × Nat × Nat)
  cow : Option Nat

/-- (R132, R138) One more byte translated: a tile-space byte is not translated, and a byte of the granule of the
byte before it stands next to that byte. -/
def TrAcc.byte (a : TrAcc) (j : Job) (tile : Nat) (acc : Acc) (useTlb late : Bool) (va : Nat) : TrAcc :=
  if a.bad.isSome ∨ a.cow.isSome then a
  else if isTileVa va then { a with locs := a.locs ++ [j.tileLoc va], pas := a.pas ++ [0], last := va }
  else if a.last + 1 = va ∧ va % 4096 ≠ 0 ∧ !isTileVa a.last then
    { a with locs := a.locs ++ [a.locs.getLastD 0 + 1], pas := a.pas ++ [a.pas.getLastD 0 + 1], last := va }
  else match a.s.translate tile j.asid.toNat va acc useTlb late with
    | (s1, .ok loc leaf pa) =>
      { a with s := s1, locs := a.locs ++ [loc], leaf := some leaf, pas := a.pas ++ [pa], last := va }
    | (s1, .bad c l) => { a with s := s1, bad := some (c, l, va) }
    | (s1, .cow) => { a with s := s1, cow := some va }

/-- (R138) The bytes of an operation translated. -/
def State.translateOp (s : State) (o : MemOp) (useTlb : Bool) : TrAcc :=
  (o.kind.vas o.addr).foldl (fun a va => a.byte (s.jobNo o.job) o.who.tile o.kind.acc useTlb (o.kind == .stp) va)
    { s := s, locs := [], leaf := none, pas := [], last := 2 ^ 48, bad := none, cow := none }

/-- (R145) An access counted when it leaves its tile: each physical line once, by its home die. -/
def State.countRq (s : State) (tile : Nat) (locs : List Nat) : State :=
  (linesOf (locs.filter fun l => !isSram l)).foldl (fun (s : State) l =>
    s.updTile tile fun t => t.count (if homeDie (64 * l) = dieOf tile then 0 else 1)) s

/-- (R142) Whether an address stands in a region whose copy-on-write is being resolved. -/
def State.cowBusy (s : State) (o : MemOp) : Bool :=
  s.ops.any fun x => x.st == .cow && x.id != o.id && (s.jobNo x.job).asid == (s.jobNo o.job).asid
    && vaOf x.addr / 2 ^ 29 == vaOf o.addr / 2 ^ 29

/-- (R138) Whether an operation is ready to translate. -/
def State.canTranslate (s : State) (o : MemOp) : Bool :=
  o.st == .waiting && !o.inTiles && s.mayGo o && !s.cowBusy o && (match o.kind with
    | .fence _ => false
    | _ => true)

/-- (R138 to R146, R153) The translation of a paged access, with which it leaves its tile. DESIGN CHOICE (log 13): it is counted here
(R145), and stays counted where its home answers with a fault; one that faults in its translation is not counted. -/
def State.walkOp (s : State) (o : MemOp) (useTlb : Bool) : State :=
  let a := s.translateOp o useTlb
  match a.bad, a.cow with
  | some (c, l, va), _ =>
    if o.kind.suppresses then a.s.suppressed o c else a.s.faultOp o c l (BitVec.ofNat 64 va)
  | none, some _ => a.s.updOp o.id fun x => { x with st := .cow }
  | none, none =>
    let o' := { o with st := .translated, locs := a.locs, leaf := a.leaf, pas := a.pas, hold := none }
    let s1 := a.s.updOp o.id fun _ => o'
    match o.kind with
    | .touch => s1.dropOp o.id
    | .red op => (s1.countRq o.who.tile a.locs).gather o' op
    | _ => s1.countRq o.who.tile a.locs

/-- (R146) The pages that an operation's translation misses in the TLBs. -/
def State.missed (s : State) (o : MemOp) (useTlb : Bool) : List Miss :=
  let asid := (s.jobNo o.job).asid.toNat
  (((o.kind.vas o.addr).filter fun va => !isTileVa va && !(useTlb && (s.tlbHit o.who.tile asid va).isSome)).map
    (s.missOf (dieOf o.who.tile) asid)).eraseDups

/-- (R146) A miss enters its die's table, where it is not there and the table has room; entries that nothing waits for are gone. -/
def State.enterMiss (s : State) (m : Miss) : State :=
  if s.misses.contains m || !s.missRoom m.die then s else { s with misses := s.misses.filter s.missLive ++ [m] }

/-- (R138, R146) TRANSLATION_WALK: an access translates, where the TLBs serve it or its misses are walked; else its misses enter
the die's miss table. A walk that ends frees the entry. -/
def execTranslationWalk (id : Nat) (useTlb : Bool) (s : State) : Host.Outcome State Fault Refusal :=
  match s.op? id with
  | some o =>
    let ms := s.missed o useTlb
    .next (if !s.canTranslate o then s
      else if ms.all s.walking then { s with misses := s.misses.filter fun m => !ms.contains m }.walkOp o useTlb
      else ms.foldl State.enterMiss s)
  | none => .next s

/-- (R146) Whether TRANSLATION_WALK brings an access on. -/
def State.canWalk (s : State) (o : MemOp) : Bool :=
  s.canTranslate o && (let ms := s.missed o true
    ms.all s.walking || ms.any fun m => !s.misses.contains m && s.missRoom m.die)

/-- (R142) COPY_ON_WRITE_RESOLVE: the access goes on to the new page, or faults. -/
def execCopyOnWriteResolve (id : Nat) (s : State) : Host.Outcome State Fault Refusal :=
  match s.op? id with
  | some o =>
    if o.st == .cow then
      let va := ((s.translateOp o false).cow).getD (vaOf o.addr)
      let r := s.resolveCow (s.jobNo o.job).asid.toNat va
      .next (if r.2 then r.1.updOp id fun x => { x with st := .waiting }
        else r.1.faultOp o .cow 0 (BitVec.ofNat 64 va))
    else .next s
  | none => .next s

/-! ### Arrivals -/

/-- (R9, R327) The links that an operation's requests and its replies cross. -/
def MemOp.outLinks (o : MemOp) : List Nat := o.homes.flatMap fun h => routeLinks o.who.tile h
def MemOp.backLinks (o : MemOp) : List Nat := o.homes.flatMap fun h => routeLinks h o.who.tile

/-- (R363, R364) An access or its reply travels on links: one that retrains holds it, and one that is down ends it. -/
def State.travel (s : State) (o : MemOp) (ls : List Nat) (go : State → State) : State :=
  if s.heldOn ls then s
  else match s.downOn ls with
    | some l => s.faultOp o .link (downInfo l) o.addr
    | none => go s

/-- The operation with its storage known. -/
def State.located (s : State) (o : MemOp) : MemOp :=
  { o with locs := if o.inTiles then (o.kind.vas o.addr).map (s.jobNo o.job).tileLoc else o.locs, hold := none }

/-- (R315, R328) Whether a remote access can reach its home at once: no switch on its way queues an older access to its doubleword,
and none has come there by a higher port in this tile cycle. -/
def State.mayLand (s : State) (o : MemOp) : Bool :=
  !s.wayQueued o o.locs && s.portsFree o.who.tile o.homes && !s.heldOn o.outLinks

/-- (R134, R148, R162) A remote access arrives at its home: out of the switches that took it in, or straight from its tile. -/
def State.arriveOp (s : State) (o : MemOp) : State :=
  match s.areq? o.id with
  | some r => if r.path.length ≤ 1 ∧ o.st = .moving then s.hop r o else s
  | none =>
    let o' := s.located o
    if s.canDepart o && s.mayLand o' then s.travel o' o'.outLinks fun s =>
      let s1 := (s.updOp o.id fun _ => o').noteEntries o.who.tile o'.homes
      if o.kind == .stp then s1.perform o' else s1.arrive o' fun s => s.performHome o'
    else s

/-- PAGED_ACCESS_ARRIVAL (R148). -/
def execPagedAccessArrival (id : Nat) (s : State) : Host.Outcome State Fault Refusal :=
  match s.op? id with
  | some o => .next (if o.inTiles || o.kind.isAmo || o.kind == .stp then s else s.arriveOp o)
  | none => .next s

/-- (R117, R134, R328) A local access that has waited in its tile performs in its turn, after the remote accesses of this tile cycle. -/
def State.localTurn (s : State) (o : MemOp) : State :=
  let s1 := s.tryLocal o
  { s1 with swIn := s1.swIn.set o.who.tile 5 }

/-- REMOTE_ACCESS_ARRIVAL (R134); also the turn of a local access that has waited in its tile. -/
def execRemoteAccessArrival (id : Nat) (s : State) : Host.Outcome State Fault Refusal :=
  match s.op? id with
  | some o =>
    .next (if o.kind.isFence then s
      else if s.opLocal o then s.localTurn o
      else if !o.inTiles || o.kind.isAmo || o.kind == .stp then s
      else s.arriveOp o)
  | none => .next s

/-- PROVISIONAL_STAGE (R162, R163): an st.p arrives at its home. -/
def execProvisionalStage (id : Nat) (s : State) : Host.Outcome State Fault Refusal :=
  match s.op? id with
  | some o => .next (if o.kind != .stp then s else if s.opLocal o then s.localTurn o else s.arriveOp o)
  | none => .next s

/-! ### Replies, fences and drains -/

/-- (R48, R323) QUEUED_REPLY: the reply of a queued operation lands in its place, or delivers a status. -/
def execQueuedReply (id : Nat) (s : State) : Host.Outcome State Fault Refusal :=
  match s.op? id with
  | some o =>
    if o.st == .performed then
      match o.status with
      | some (c, info) => .next (s.faultOp o c info.toNat o.addr)
      | none =>
        let land (s : State) : State := (s.dropOp id).landRec o.who (16 + o.unit) id o.res
        match o.kind with
        | .amo _ _ _ => .next (land s)
        | _ => .next (s.travel o o.backLinks land)
    else .next s
  | none => .next s

/-- (R165) FENCE_COMPLETE. -/
def execFenceComplete (id : Nat) (s : State) : Host.Outcome State Fault Refusal :=
  match s.op? id with
  | some o => match o.kind with
    | .fence scope => .next (if s.fenced o.who o.job id scope o.dbl then s.dropOp id else s)
    | _ => .next s
  | none => .next s

/-- (R166) DRAIN_COMPLETE. -/
def execDrainComplete (c : Who) (s : State) : Host.Outcome State Fault Refusal :=
  .next (if (s.ctx c).block.contains .drain && s.drained c then s.updCtx c fun x => { x with block := x.block.erase .drain } else s)

/-! ### Gathering -/

/-- A gather message by its identifier. -/
def State.gmsg? (s : State) (id : Nat) : Option GMsg := s.gmsgs.find? fun m => m.id == id

/-- A gather message taken out. -/
def State.dropGmsg (s : State) (id : Nat) : State := { s with gmsgs := s.gmsgs.filter fun m => m.id != id }

/-- Whether a message goes from a gather buffer to a home. -/
def GKind.outward : GKind → Bool
  | .join | .flush _ _ _ => true
  | _ => false

/-- (R160) Whether a message is the first one outstanding from its cluster to its home. -/
def State.gfirst (s : State) (m : GMsg) : Bool :=
  match s.gmsgs.find? fun x => x.kind.outward && x.cluster == m.cluster && homeDie (64 * x.line) == homeDie (64 * m.line) with
  | some x => x.id == m.id
  | none => false

/-- (R160, R161) An answer of a home to a cluster. -/
def State.answer (s : State) (m : GMsg) (k : GKind) : State :=
  ({ s with gmsgs := s.gmsgs ++ [({ id := s.fresh, cluster := m.cluster, line := m.line, pa := m.pa, kind := k } : GMsg)] } : State).takeId

/-- The router behind which a cluster's gather buffer stands: one of its tiles', the spec does not say which (log 22). -/
def gatherRouter (cluster : Nat) : Nat := ringTile cluster (Config.gatherTile cluster % 8)

/-- (R12, R148, R327) The links of a gather message, between its cluster's gather buffer and the home switch of the line. -/
def GMsg.links (m : GMsg) : List Nat :=
  let near := gatherRouter m.cluster
  let far := memPort (64 * m.line) m.pa
  if m.kind.outward then routeLinks near far else routeLinks far near

/-- (R161, R167, R364) GATHER_JOIN at the home, which refuses while it holds an access for the line, and keeps in mind for which
cluster it has done so. The switch before a down link refuses. -/
def execGatherJoin (id : Nat) (s : State) : Host.Outcome State Fault Refusal :=
  match s.gmsg? id with
  | some m =>
    if m.kind == .join && s.gfirst m && !s.heldOn m.links then
      let s1 := s.dropGmsg id
      .next (if (s.downOn m.links).isSome then s1.answer m .refuse
        else if s.lineHolds m.line then (s1.updHolders m.line fun h => { h with refused := h.refused ++ [m.cluster] }).answer m .refuse
        else if s.holders m.line != 0 || s.pinRoom m.line then
          ((s1.updHolders m.line fun h => { h with mask := setBit h.mask m.cluster true, pa := m.pa }).cacheLine (m.line / 4)).answer m .accept
        else s1.answer m .refuse)
    else .next s
  | none => .next s

/-- (R160) GATHER_ACCEPT: the line goes on gathering. -/
def execGatherAccept (id : Nat) (s : State) : Host.Outcome State Fault Refusal :=
  match s.gmsg? id with
  | some m => .next (if m.kind == .accept && !s.heldOn m.links then s.dropGmsg id else s)
  | none => .next s

/-- (R161) A cluster's bit is cleared; with the last, the accesses that the line held perform. -/
def State.freeHolder (s : State) (m : GMsg) : State :=
  let s1 := s.updHolders m.line fun h => { h with mask := setBit h.mask m.cluster false }
  match s1.hlines.find? fun h => h.line == m.line with
  | some h => if h.mask = 0 then s1.releaseHeld h.held State.performHeld else s1
  | none => s1

/-- (R160) A message that makes the line flush. Before a down link a REFUSE is lost, and with a RECALL what it would have
brought back (R364). -/
def State.flushOn (s : State) (id : Nat) (k : GKind) : State :=
  match s.gmsg? id with
  | some m =>
    if m.kind == k && !s.heldOn m.links then
      let s1 := s.dropGmsg id
      match s.downOn m.links, s.gline? m.cluster m.line with
      | some _, _ => if k == .recall then s1.freeHolder m else s1
      | none, some g => s1.flushLine g
      | none, none => s1
    else s
  | none => s

/-- (R160) GATHER_REFUSE. -/
def execGatherRefuse (id : Nat) (s : State) : Host.Outcome State Fault Refusal := .next (s.flushOn id .refuse)

/-- (R160, R167) GATHER_RECALL. -/
def execGatherRecall (id : Nat) (s : State) : Host.Outcome State Fault Refusal := .next (s.flushOn id .recall)

/-- (R363) The reductions of a lost FLUSH fault. -/
def State.loseOps (s : State) (ids : List Nat) (info : Nat) : State :=
  ids.foldl (fun (s : State) id => match s.op? id with
    | some o => s.faultOp o .link info o.addr
    | none => s) s

/-- (R167) Whether a FLUSH follows a REFUSE that the line gave for an access which it held: it waits while one is held, or another
such FLUSH waits. -/
def HLine.follows (h : HLine) (m : GMsg) : Bool := h.line == m.line && h.refused.contains m.cluster
def State.flushWaits (s : State) (m : GMsg) : Bool :=
  s.hlines.any fun h => h.follows m && (s.lineHolds m.line || h.late != [])

/-- (R167) The REFUSE that a FLUSH follows is done with. -/
def State.endRefusal (s : State) (m : GMsg) : State :=
  if s.hlines.any fun h => h.follows m then s.updHolders m.line fun h => { h with refused := h.refused.erase m.cluster } else s

/-- (R161) GATHER_FLUSH at the home: the elements are applied, and the accesses that the line held perform. -/
def execGatherFlush (id : Nat) (s : State) : Host.Outcome State Fault Refusal :=
  match s.gmsg? id with
  | some m => match m.kind with
    | .flush op elems ops =>
      .next (if s.gfirst m && !s.heldOn m.links then match s.downOn m.links with
          | some l => (((s.dropGmsg id).loseOps ops (downInfo l)).endRefusal m).freeHolder m
          | none =>
            let s1 := (s.dropGmsg id).endRefusal m
            if s.flushWaits m then s1.updHolders m.line fun h => { h with late := h.late ++ [m] }
            else (s1.applyFlush m.line op elems ops).freeHolder m
        else s)
    | _ => .next s
  | none => .next s

/-- (R167) A line whose held accesses have performed and for which a FLUSH waits. -/
def State.lateDue (s : State) : Option HLine := s.hlines.find? fun h => h.late != [] && !s.lineHolds h.line

/-- (R167) The first FLUSH that waits for a line is applied. -/
def State.applyLate (s : State) (h : HLine) : State :=
  match h.late with
  | [] => s
  | m :: rest =>
    let s1 := s.updHolders h.line fun x => { x with late := rest }
    match m.kind with
    | .flush op elems ops => s1.applyFlush h.line op elems ops
    | _ => s1

/-! ### Prefetch -/

/-- PREFETCH_LINE_FILL (R149): a prefetch on its way fills its line; a line ahead of a stream, that the prefetcher of a die
chooses, sets out. -/
def execPrefetchLineFill (die : Nat) (line : Nat) (s : State) : Host.Outcome State Fault Refusal :=
  if s.pfFly.contains (die, line, true) then
    .next ({ s with pfFly := s.pfFly.erase (die, line, true), pfIn := s.pfIn ++ [(die, line)] }.cacheLine line)
  else if s.mayPrefetch die line then
    .next ({ s with pfFly := s.pfFly ++ [(die, line, true)] }.countDie die 2)
  else .next s

end Sys2Proof.Machine
end

