-- ==== Sys2Proof/Machine/Links.lean ====
section
/-! DEFINITION. Links (R321, R322, R363, R364), machine checks (R359) and soft errors (R357 to R362). -/

namespace Sys2Proof.Machine

/-! ### What a link fault touches -/

/-- (R349, R363) A link fault touches a job, and through its phase group every member. -/
def State.touch (s : State) (jid : Option Nat) : State :=
  match jid.bind s.job? with
  | none => s
  | some j =>
    let out := if j.group = 0 then []
      else [(5, [BitVec.ofNat 64 j.group, BitVec.ofNat 64 j.member, j.phase.setWidth 64])]
    { s.updJob j.id fun x => { x with touched := true } with peerOut := s.peerOut ++ out }

/-- (R317) The requests into which the reply to a request splits, over at most `n` levels. -/
def State.splitIds (s : State) : Nat → Nat → List Nat
  | 0, id => [id]
  | n + 1, id => id :: (s.bridles.filter fun b => b.early == id).flatMap fun b => s.splitIds n b.late

/-- The jobs of operations touched. -/
def State.touchOps (s : State) (ids : List Nat) : State :=
  ids.foldl (fun (s : State) id => s.touch ((s.op? id).bind (·.job))) s

/-- Whether an operation has a flit that a link can lose; an atomic in its own package has a request and a reply instead. -/
def State.inFlit (s : State) (o : MemOp) : Bool :=
  !s.opLocal o && (match o.kind with
    | .amo _ _ _ => s.opAbroad o && o.st == .moving
    | .fence _ | .touch => false
    | _ => o.st == .translated || o.st == .moving || o.st == .performed || (o.st == .waiting && o.inTiles))

/-- (R322, R323) The reply to an atomic that went abroad is lost. -/
def State.loseAnswer (s : State) (id : Nat) : State :=
  match s.op? id with
  | some o =>
    if o.st == .moving && s.opAbroad o then
      (s.touch o.job).updOp id fun x => { x with st := .performed, status := some (.amoApplied, 0) }
    else s
  | none => s

/-- (R363) The address at which a matrix operation loses a flit: any of its chunk's. -/
def State.lostMxVa (s : State) (o : MxOp) : W64 :=
  BitVec.ofNat 64 (o.chunkVas.getD (s.freeVal.toNat % o.chunkVas.length) (vaOf o.a))

/-- (R363) The address at which a copy loses a flit: any of its own. -/
def State.lostVa (s : State) (o : CopyReq) : W64 :=
  let vas := o.srcVas ++ o.dstVas
  BitVec.ofNat 64 (vas.getD (s.freeVal.toNat % vas.length) (vaOf o.src))

/-- (R322, R323, R363) A flit is lost: what carried it faults, and its job is touched. -/
def State.loseFlit (s : State) (info : Nat) (v : Victim) : State :=
  match v with
  | .access id => match s.op? id with
    | some o => if s.inFlit o then ((s.touch o.job).dropAreq id).faultOp o .link info o.addr else s
    | none => s
  | .request id => match s.areq? id with
    | some r => match s.op? id with
      | some o => if o.kind.isAmo then (s.touchOps (s.splitIds 64 id)).endRequest r o info else s
      | none => s
    | none => s
  | .reply id =>
    if s.areplies.any fun r => r.id == id then
      let s1 := s.touchOps (s.splitIds 64 id)
      { s1 with areplies := updWhere (fun r => r.id == id) (fun r => { r with status := some (.amoApplied, 0) }) s1.areplies }
    else s.loseAnswer id
  | .message id => match s.msgs.find? fun m => m.id == id with
    | some m => if m.st == .moving then (s.touch m.job).faultMsg m .link info else s
    | none => s
  | .copy id => match s.copyReq? id with
    | some (tile, o) => match o.st with
      | .engine _ => (s.touch o.job).takeFree.stopCopy tile o .link info (s.lostVa o)
      | _ => s
    | none => s
  | .matrix tile id => match (s.tile tile).mxq.find? fun o => o.id == id with
    | some o =>
      if o.kind.runs then
        ((s.touch o.job).takeFree.updTile tile fun t => t.leaveMx o (some (.stopped o))).faultMx o .link info (s.lostMxVa o)
      else s
    | none => s
  | .gather id => match s.gmsg? id with
    | some m => match m.kind with
      | .flush _ _ ops => ((((s.touchOps ops).dropGmsg id).loseOps ops info).endRefusal m).freeHolder m
      | .recall => (s.dropGmsg id).freeHolder m
      | _ => s.dropGmsg id
    | none => s
  | .eventRequest id => match s.evreqs.find? fun r => r.id == id with
    | some r => (s.touch r.job).loseEvent r info
    | none => s
  | .event id => match s.lmsgs.find? fun m => m.id == id with
    | some m => (s.touch (s.line m.lower).job).dropLmsg id
    | none => s
  | .rot tile j => match (s.job? j).bind (s.round? tile) with
    | some (_, es) => (s.touch (some j)).failRound (s.jobNo (some j)) es .link info
    | none => s
  | .staged j | .phase j => s.touch (some j)
  | .ownerless => s

/-! ### Links -/

/-- (R9, R10, R12, R363) Whether a number names a link: one of R363's codes, or a mesh link. -/
def isLink (l : Nat) : Bool := l < 24 || (64 ≤ l && l < 64 + 1152)

/-- (R8, R124, R363) The compute dies on which a link ends. -/
def linkDies (l : Nat) : List Nat :=
  if l = 0 then [0, 1] else if l = 1 then [2, 3] else if l = 2 then [0, 2] else if l = 3 then [1, 3]
  else if l < 8 then [l - 4] else if 64 ≤ l then [dieOf ((l - 64) / 2)] else []

/-- (R363) A link retrains; a flit that it held is lost. -/
def State.retrain (s : State) (link : Nat) (victim : Victim) : State :=
  { s with links := s.links.set link (.retraining 120000), replays := s.replays.erase link }.loseFlit (linkCode link) victim

/-- LINK_REPLAY (R124, R321, R363): a flit is sent again: it arrives, it fails, for the sixteenth time so that the link retrains,
or its replay copy cannot be corrected and it is lost. -/
def execLinkReplay (link : Nat) (e : ReplayEnd) (s : State) : Host.Outcome State Fault Refusal :=
  if s.link link != .up || !isLink link then .next s
  else
    let s1 := (linkDies link).foldl (fun (s : State) d => s.countDie d 8) s
    let n := s.replays.get 0 link + 1
    .next (match e with
      | .arrived => { s1 with replays := s1.replays.erase link }
      | .failed victim => if n < 16 then { s1 with replays := s1.replays.set link n } else s1.retrain link victim
      | .uncorrectable victim => { s1 with replays := s1.replays.erase link }.loseFlit (linkCode link) victim)

/-- LINK_RETRAIN (R363). -/
def execLinkRetrain (link : Nat) (victim : Victim) (s : State) : Host.Outcome State Fault Refusal :=
  .next (if s.link link == .up && isLink link then s.retrain link victim else s)

/-- RETRAINING_COMPLETE (R363). -/
def execRetrainingComplete (link : Nat) (s : State) : Host.Outcome State Fault Refusal :=
  match s.link link with
  | .retraining _ => .next { s with links := s.links.erase link }
  | _ => .next s

/-- (R10, R349) Whether a job's traffic with the other members of its phase group crosses a link. -/
def Job.groupSpans (j : Job) (l : Nat) : Bool :=
  j.group != 0 && (List.range j.gsize).any fun m =>
    m != j.member && j.tiles.any fun t => (peerLinks t (memberPort j.group m)).contains l

/-- (R9, R364) Whether a job's placement or its phase group spans a link: the way between two of its tiles or to a member. -/
def Job.spans (j : Job) (l : Nat) : Bool :=
  let dies := j.rects.map (·.pdie)
  (if l < 64 then dies.any fun d => dies.any fun e => (dieLinks d e).contains l
    else j.tiles.any fun t => j.tiles.any fun u => (routeLinks t u).contains l) || j.groupSpans l

/-- Whether a job has been placed and has not ended. -/
def Job.placed (j : Job) : Bool := !(j.st == .waiting || j.st == .completed || j.st == .failed)

/-- (R336) The placed jobs of a list of numbers fail. -/
def State.failJobs (s : State) (ids : List Nat) (reason : BitVec 16) : State :=
  ids.foldl (fun (s : State) id => match s.job? id with
    | some j => if j.placed then s.failJob id reason else s
    | none => s) s

/-- LINK_DOWN (R364): a link has not come back in time. -/
def execLinkDown (link : Nat) (s : State) : Host.Outcome State Fault Refusal :=
  match s.link link with
  | .retraining 0 =>
    let s1 := { s with links := s.links.set link .down }
    .next (s1.failJobs ((s1.jobs.filter fun j => j.spans link).map (·.id)) 7)
  | _ => .next s

/-! ### Machine checks -/

/-- MACHINE_CHECK (R359). -/
def execMachineCheck (scope : McScope) (s : State) : Host.Outcome State Fault Refusal :=
  match scope with
  | .jobs ids loc => .next ((s.logFw 1 loc).failJobs ids 8)
  | .die d loc =>
    let ids := (s.jobs.filter fun j => j.whos.any fun c => dieOf c.tile == d && (s.ctx c).job == some j.id).map (·.id)
    .next ((s.logFw 1 loc).failJobs ids 8)

/-! ### Soft errors -/

/-- SOFT_ERROR (R357 to R362). -/
def execSoftError (e : SoftErr) (s : State) : Host.Outcome State Fault Refusal :=
  match e with
  | .single loc _ => .next (s.logFw 2 loc)
  | .double loc => .next { s with poison := insertNat (loc / 8) s.poison }
  | .cell tile acc row col bit =>
    .next (s.updTile tile fun t =>
      { t with
        cells := t.cells.upd 0 (4096 * (acc % 8) + 64 * (row % 64) + col % 64) (· ^^^ (1#32 <<< (bit % 32))) })
  | .istore tile word => .next (s.updTile tile fun t => { t with badWords := insertNat (word % 8192) t.badWords })
  | .transient _ => .next { s with parity := s.parity ++ [e] }
  | .greg _ _ | .vreg _ _ | .aptr _ _ | .freg _ _ | .record _ _ | .operand _ _ _ | .rqEntry _ _ =>
    .next { s with parity := if s.parity.contains e then s.parity else s.parity ++ [e] }
  | .tlb cluster idx => .next { s with tlbs := s.tlbs.upd [] cluster fun l => l.eraseIdx idx }
  | .utlb tile idx => .next { s with utlbs := s.utlbs.upd [] tile fun l => l.eraseIdx idx }
  | .walk die idx => .next { s with walks := s.walks.upd [] die fun l => l.eraseIdx idx }
  | .undetected loc v => .next { s with mem := Memory.write s.mem loc v }

end Sys2Proof.Machine
end

