-- ==== Sys2Proof/Machine/Launch.lean ====
section
/-! DEFINITION. Launches: the descriptor (R333), the refusals and the placement of R334 and R377, and the start of
a job. -/

namespace Sys2Proof.Machine

/-! ### The launch descriptor -/

/-- A field of a word. -/
def bitsAt (w : W64) (lo n : Nat) : Nat := w.toNat / 2 ^ lo % 2 ^ n

/-- (R333) D, and the words that a descriptor has. -/
def descDies (ws : List W64) : Nat := bitsAt (ws.getD 0 0) 24 2 + 1
def descLen (ws : List W64) : Nat := 34 + bitsAt (ws.getD 33 0) 0 16

/-- (R333, R366) A set reserved bit, or a length other than the descriptor's own. -/
def descReserved (ws : List W64) : Bool :=
  let w (i : Nat) : W64 := ws.getD i 0
  ws.length != descLen ws || bitsAt (w 0) 0 22 != 0
    || (List.range 4).any (fun d => if d < descDies ws then bitsAt (w (2 + d)) 56 8 != 0 || bitsAt (w (2 + d)) 0 15 != 0
        else w (2 + d) != 0)
    || bitsAt (w 6) 52 12 != 0 || bitsAt (w 6) 0 12 != 0 || bitsAt (w 8) 0 4 != 0
    || (List.range 16).any (fun i => bitsAt (w (17 + i)) 23 41 != 0) || bitsAt (w 33) 16 48 != 0
    || (ws.drop 34).any fun e => bitsAt e 17 33 != 0

/-- (R333) Word 2 + d. -/
def descRect (w : W64) : Rect :=
  { pdie := bitsAt w 54 2, oy := bitsAt w 50 4, ox := bitsAt w 46 4, h := bitsAt w 42 4 + 1, w := bitsAt w 38 4 + 1
    ctx := w.extractLsb' 34 4, gc := bitsAt w 27 7, vc := bitsAt w 17 10, cprio := w.extractLsb' 15 2 }

/-- (R333) The job that a descriptor describes. -/
def descJob (id queue : Nat) (pseq : W32) (ws : List W64) (o : Obj) : Job :=
  let w (i : Nat) : W64 := ws.getD i 0
  { Job.bare with
    id := id, queue := queue, pseq := pseq, st := .waiting, desc := ws, admitted := false, obj := o
    asid := (w 0).extractLsb' 32 16, prio := (w 0).extractLsb' 30 2, cw := (w 0).extractLsb' 26 4
    debug := (w 0).getLsbD 23, compat := (w 0).getLsbD 22, wdog := bitsAt (w 1) 32 32, cto := bitsAt (w 1) 0 32
    rects := (List.range (descDies ws)).map fun d => descRect (w (2 + d))
    save := 4096 * bitsAt (w 6) 12 40, accx := (w 7).extractLsb' 56 8
    swcnt := if bitsAt (w 7) 48 8 = 0 then 256 else bitsAt (w 7) 48 8
    swbase := bitsAt (w 7) 40 8, stop := (w 7).extractLsb' 20 20, slo := (w 7).extractLsb' 0 20
    group := bitsAt (w 8) 48 16, member := bitsAt (w 8) 40 8, gsize := bitsAt (w 8) 32 8 + 1
    reelx := (w 8).extractLsb' 16 16, cmpx := (w 8).extractLsb' 8 8, qx := (w 8).extractLsb' 4 4
    args := (List.range 8).map fun i => w (9 + i), stages := (List.range 16).map fun i => (w (17 + i)).setWidth 23
    events := ws.drop 34 }

/-- (R333) OBJ of a descriptor. -/
def descObj (ws : List W64) : Nat := bitsAt (ws.getD 0 0) 48 16

/-! ### Event words -/

/-- (R176, R333) The line that an event word names. -/
def eventKey (e : W64) : Nat :=
  let n := bitsAt e 57 5
  if bitsAt e 62 2 = 0 then clusterLine (18 * bitsAt e 50 2 + bitsAt e 52 5) n
  else if bitsAt e 62 2 = 1 then dieLine (bitsAt e 50 2) n else packageLine n

/-- (R176) The line that an event word configures. -/
def eventLine (j : Nat) (e : W64) : Line :=
  { Line.init with
    mode := e.extractLsb' 0 2, count := e.extractLsb' 2 8, cline := e.extractLsb' 10 5, clevel := e.extractLsb' 15 2, job := some j }

/-- (R176, R334) Whether an event word is legal in a placement. -/
def Job.eventOk (j : Job) (e : W64) : Bool :=
  let mode := bitsAt e 0 2
  let count := bitsAt e 2 8
  let clevel := bitsAt e 15 2
  let die := bitsAt e 50 2
  let level := bitsAt e 62 2
  clevel != 3 && (if level = 0 then
      bitsAt e 52 5 < 18 && j.tiles.any (fun t => clusterOf t == 18 * die + bitsAt e 52 5) && (mode != 1 || (1 ≤ count && count ≤ 32))
    else if level = 1 then j.rects.any (fun r => r.pdie == die) && mode == 1 && 1 ≤ count && clevel != 1
    else level == 2 && mode == 1 && 1 ≤ count && clevel == 0)

/-! ### The refusals of R334 -/

/-- Whether a list names nothing twice. -/
def noTwice (l : List Nat) : Bool := l.eraseDups.length == l.length

/-- (R14, R333, R334) A rectangle in range. -/
def Rect.ok (r : Rect) (prio : BitVec 2) : Bool :=
  let n := ((List.range 4).filter r.ctx.getLsbD).length
  r.oy + r.h ≤ 12 && r.ox + r.w ≤ 12 && r.ctx != 0 && r.gc % 8 == 0 && 8 ≤ r.gc && r.gc ≤ 64 && r.vc % 32 == 0 && r.vc ≤ 768
    && r.cprio.toNat ≤ prio.toNat && n * r.gc ≤ 256 && n * r.vc ≤ 768

/-- (R377) The role of a tile, and the allotment that it needs. -/
def Job.roleOk (j : Job) (r : Rect) (tile : Nat) : Bool :=
  match j.roleAt tile with
  | some o => o.gmin ≤ r.gc && o.vmin ≤ r.vc
  | none => false

/-- (R334, R377) Whether a launch of a loaded object is refused. -/
def Job.refused (j : Job) : Bool :=
  let size := 4096 * j.swcnt
  !(j.rects.all fun r => r.ok j.prio) || !noTwice j.tiles
    || j.stages.any (fun e => !e.getLsbD 22 && e != 0)
    || !j.events.all j.eventOk || !noTwice (j.events.map eventKey)
    || (j.group != 0 && j.gsize ≤ j.member)
    || 256 < j.swbase + j.swcnt || size ≤ j.stop.toNat || size ≤ j.slo.toNat
    || j.obj.data.any (fun (_, o, bs) => size < o + bs.length)
    || dramTop < j.save + 0x200000 * j.tiles.length
    || !(j.rects.all fun r => r.tiles.all fun t => j.roleOk r t)

/-! ### Placement -/

/-- (R332) Whether the shares of two jobs overlap. -/
def Job.shareMeets (j k : Job) : Bool :=
  (~~~j.accx &&& ~~~k.accx) != 0 || (~~~j.reelx &&& ~~~k.reelx) != 0 || (~~~j.cmpx &&& ~~~k.cmpx) != 0
    || (~~~j.qx &&& ~~~k.qx) != 0 || (j.swbase < k.swbase + k.swcnt && k.swbase < j.swbase + j.swcnt)

/-- (R377) Whether the image of a job on a tile overlaps that of another job, and is not that one. -/
def Job.imageMeets (j k : Job) (tile : Nat) : Bool :=
  match j.roleAt tile, k.roleAt tile with
  | some a, some b =>
    a.origin < b.origin + b.words.length && b.origin < a.origin + a.words.length && !(j.obj.same k.obj && a.role == b.role)
  | _, _ => false

/-- (R334, R377) Whether a resident job holds a slot, a share or an image range that another needs. -/
def Job.clashes (j k : Job) : Bool :=
  j.tiles.any fun t => (k.logical t).isSome
    && (j.shareMeets k || j.imageMeets k t || (j.ctxsOn t).any (k.ctxsOn t).contains)

/-- (R334) The other resident jobs that share a tile with a job. -/
def State.rivals (s : State) (j : Job) : List Job :=
  s.jobs.filter fun k => k.resident && k.id != j.id && k.tiles.any fun t => (j.logical t).isSome

/-- (R70, R333, R340) The registers that a job needs on a tile: its launch's, or those of its tile image. -/
def Job.needs (j : Job) (t : Nat) : Nat × Nat :=
  match j.images.get? (j.tiles.idxOf t) with
  | some im => im.regs
  | none => match j.rects.find? fun r => r.holds t with
    | some r => ((j.ctxsOn t).length * r.gc, (j.ctxsOn t).length * r.vc)
    | none => (0, 0)

/-- (R334) Whether a tile has the registers for a job once the jobs `gone` have left. -/
def State.regsFit (s : State) (j : Job) (gone : List Nat) (t : Nat) : Bool :=
  let u := s.used t gone
  let n := j.needs t
  u.1 + n.1 ≤ 256 && u.2 + n.2 ≤ 768

/-- (R334) Whether a job could be placed once the jobs `gone` have left. -/
def State.fits (s : State) (j : Job) (gone : List Nat) : Bool :=
  (s.rivals j).all (fun k => gone.contains k.id || !j.clashes k) && j.tiles.all (s.regsFit j gone)

/-- (R334) Whether no other job holds an event line that a job names. -/
def State.linesFree (s : State) (j : Job) : Bool :=
  j.events.all fun e => match (s.line (eventKey e)).job with
    | some k => k == j.id
    | none => true

/-- What becomes of a job that waits for placement (R334). -/
inductive Plan where
  | wait
  | place
  | displace (ks : List Nat)
  deriving DecidableEq, Repr

/-- (R334) Where a job that waits for placement stands: it is placed, displaces jobs of lower PRIO, or waits. -/
def State.plan (s : State) (j : Job) : Plan :=
  let low := (s.rivals j).filter fun k => k.prio.toNat < j.prio.toNat
  if !s.linesFree j then .wait
  else if s.fits j [] then .place
  else if !s.fits j (low.map (·.id)) then .wait
  else
    let ks := (low.filter fun k => j.clashes k).map (·.id)
    let short := j.tiles.filter fun t => !s.regsFit j ks t
    .displace (ks ++ ((low.filter fun k => !ks.contains k.id && short.any fun t => (k.logical t).isSome).map (·.id)))

/-! ### The start of a job -/

/-- (R22, R67, R377) A role image written into a tile's instruction store. -/
def Tile.writeRole (t : Tile) (r : Role) : Tile :=
  let n := r.words.length
  { t with
    istore := putRange t.istore r.origin n ((List.range n).zip r.words)
    badWords := t.badWords.filter fun w => !(r.origin ≤ w && w < r.origin + n) }

/-- (R67, R377) The images of a job written, but for those that are already resident. -/
def State.loadRoles (s : State) (j : Job) : State :=
  j.tiles.foldl (fun (s : State) t => match j.roleAt t with
    | some r =>
      if (s.rivals j).any fun k => j.obj.same k.obj && (k.roleAt t).map (·.role) == some r.role then s
      else s.updTile t fun y => y.writeRole r
    | none => s) s

/-- (R125, R190, R249, R296, R308) A job's share of a tile as a launch makes it. -/
def Tile.freshShare (t : Tile) (j : Job) (tile : Nat) : Tile :=
  let q : RQueue := { RQueue.init with reader := (j.ctxsOn tile).headD 0 }
  Tile.refillAll 16 { t with
    reels := t.reels.only fun n => !j.reelIn n
    cmps := t.cmps.only fun n => !j.cmpIn n
    accs := t.accs.only fun m => !j.accIn m
    wakeq := t.wakeq.filter fun w => !j.mayPop w
    wakeLate := t.wakeLate.filter fun w => !j.mayPop w
    rqs := ((List.range 4).filter j.rqIn).foldl (fun (m : Sparse RQueue) n => m.set n q) t.rqs
    frozen := false }

/-- (R150, R370) The owners of a job's swatches on a tile of a role. -/
def Tile.ownSwatches (t : Tile) (j : Job) (r : Role) : Tile :=
  { t with
    owner := (List.range j.swcnt).foldl (fun (m : Sparse (BitVec 2)) k => m.set (j.swbase + k) (r.own.getD k 0))
      (t.owner.only fun p => !j.swatchIn p) }

/-- (R134, R334, R377) A strand as it starts. -/
def Job.strand (j : Job) (r : Rect) (tile : Nat) (o : Role) : Ctx :=
  let base := j.swatchVa tile 0
  { Ctx.init with
    job := some j.id, pc := o.entry, g := (List.range 8).map fun i => (2 + i, j.args.getD i 0)
    a := [(15, base + j.stop.setWidth 64)], slim := (base + j.slo.setWidth 64).setWidth 48
    trapbase := BitVec.ofNat 13 o.trapEntry, gcount := r.gc, vcount := r.vc, prio := r.cprio, release := o.release }

/-- (R334, R373, R377) A job starts on one tile of a rectangle: its share, its data, its owners, its strands. -/
def State.startTile (s : State) (j : Job) (r : Rect) (tile : Nat) : State :=
  match j.roleAt tile with
  | none => s
  | some o =>
    let s1 := (s.updTile tile fun t => t.freshShare j tile).serveWake tile
    let s2 := (j.obj.data.filter fun (n, _, _) => n == o.role).foldl (fun (s : State) (_, off, bs) =>
      s.storeBytes (sramLoc tile (4096 * j.swbase + off)) bs) s1
    let s3 := s2.updTile tile fun t => t.ownSwatches j o
    (r.whos tile).foldl (fun (s : State) c => s.setCtx c (j.strand r tile o)) s3

/-- (R331, R333) The lines that a job configures. -/
def State.configLines (s : State) (j : Job) : State :=
  j.events.foldl (fun (s : State) e => s.updLine (eventKey e) fun _ => eventLine j.id e) s

/-- (R335) An entry of the dependence table in a new state. -/
def State.depMove (s : State) (i : Option Nat) (st : DepSt) : State :=
  match i with
  | some i => { s with deps := s.deps.map fun (e : Nat × Dep) => if e.1 = i then (i, { e.2 with st := st }) else e }
  | none => s

/-- (R334) A launch is placed: every strand can issue from the next tile cycle on. -/
def State.placeJob (s : State) (j : Job) : State :=
  let s1 := ((s.loadRoles j).configLines j).depMove j.entry .running
  let s2 := j.rects.foldl (fun (s : State) r => r.tiles.foldl (fun (s : State) t => s.startTile j r t) s) s1
  s2.updJob j.id fun x => { x with st := .running }

/-! ### Accepting a launch -/

/-- (R333, R334, R376) The refusal of a descriptor's launch from a queue. -/
def State.launchBad (s : State) (queue : Nat) (ws : List W64) : Option (BitVec 16) :=
  if descReserved ws then some 1
  else match s.obj? queue (descObj ws) with
    | none => some 3
    | some o => if (descJob 0 queue 0 ws o).refused then some 2 else none

/-- (R349, R363) A job has heard from another member of its phase group. -/
def Job.heard (j : Job) (member : Nat) (n : GroupNote) : Job :=
  if j.member = member ∨ j.gsize ≤ member then j
  else match n with
    | .arrived p => { j with members := j.members ++ [(member, p)] }
    | .withdrawn p => { j with members := j.members.erase (member, p) }
    | .touched p => if p = j.phase then { j with touched := true } else { j with marks := j.marks ++ [p] }
    | .completed => { j with gone := j.gone ++ [member] }

/-- (R349) A new job hears what members of its phase group have sent before it was here. -/
def State.heardEarly (s : State) (j : Job) : Job :=
  (s.early.filter fun e => e.1 == j.group).foldl (fun (j : Job) e => j.heard e.2.1 e.2.2) j

/-- (R331) A new job of a descriptor, waiting. -/
def State.newJob (s : State) (queue : Nat) (seq : W32) (ws : List W64) : State × Job :=
  let j := s.heardEarly (descJob s.fresh queue seq ws ((s.obj? queue (descObj ws)).getD Obj.init))
  ({ s with jobs := s.jobs ++ [j], early := s.early.filter fun e => e.1 != j.group }.takeId, j)

end Sys2Proof.Machine
end

