-- ==== Sys2Proof/Machine/Preempt.lean ====
section
/-! DEFINITION. Pre-emption (R186, R266, R301, R338, R350), resume and restore (R339, R340, R345), and the placement
of every job that waits for it (R334). -/

namespace Sys2Proof.Machine

/-! ### Phases -/

/-- (R193, R336) Whether the queued operations of a context have completed. -/
def State.quiet (s : State) (j : Job) (c : Who) : Bool :=
  let t := s.tile c.tile
  s.ops.all (fun o => !(o.who == c && o.job == some j.id) || o.st == .faulted || (match o.kind with
      | .touch | .fence _ => true
      | _ => false))
    && s.msgs.all (fun m => !(m.who == c && m.job == some j.id)) && s.evreqs.all (fun r => !(r.who == c && r.job == some j.id))
    && t.mxAll.all (fun o => o.who != c) && t.sxq.all (fun o => o.who != c) && t.cpq.all (fun o => o.who != c)
    && t.rots.all fun e => e.2.1.who != c

/-- (R193) Whether a participant has arrived in the present phase. -/
def State.inPhase (s : State) (j : Job) (c : Who) : Bool :=
  (s.ctx c).arrived == some j.phase || ((s.ctx c).exit.isSome && s.quiet j c)

/-- (R193, R349) Whether every participant of this package has arrived, and every member of the phase group. -/
def State.allIn (s : State) (j : Job) : Bool := j.whos.all (s.inPhase j)
def Job.groupIn (j : Job) : Bool :=
  j.group == 0 || (List.range j.gsize).all fun m => j.members.contains (m, j.phase) || j.gone.contains m

/-- (R336) Whether every strand of a job has halted. -/
def State.allHalted (s : State) (j : Job) : Bool := j.whos.all fun c => (s.ctx c).exit.isSome

/-- (R195, R338) Whether an advance of a job is under way: every participant has arrived. -/
def State.advancing (s : State) (j : Job) : Bool := j.resident && s.allIn j && j.groupIn && !s.allHalted j

/-! ### Saving -/

/-- (R338) Whether an operation of a pre-empted job needs no more: it has faulted, it is held until an advance or stands
behind one that is (R194), or it is a fence that waits for such a one. -/
def State.opRests (s : State) (o : MemOp) : Bool :=
  o.st == .faulted || (match o.kind with
    | .fence k => !s.fenced o.who o.job o.id k o.dbl
    | _ => o.st == .waiting && !s.mayGo o)

/-- (R350) Whether the queue that a message of this package goes to is full. -/
def State.queueFull (s : State) (m : Msg) : Bool :=
  match m.tile with
  | some t => ((s.tile t).rq m.q).opened && 16 ≤ ((s.tile t).rq m.q).entries.length
  | none => false

/-- (R350) Whether a message of a pre-empted job needs no more: its queue is full, or it stands behind another to that queue,
or it has still to wait in its tile, or is on its way to another package. -/
def State.msgRests (s : State) (m : Msg) : Bool :=
  match m.st with
  | .waiting => !m.rls || !s.mayDepart m || !s.fenced m.who m.job m.id 5 m.dbl
  | _ => !(s.jobNo m.job).sendsHere m.t || s.queueFull m || !s.msgFirst m

/-- (R286) Whether an operation that a return performs again is an sdot. -/
def RetOp.isSdot : RetOp → Bool
  | .sdot _ => true
  | _ => false

/-- (R338) Whether a job's tile images can be written: no advance is under way, its engines have reached their checkpoints, and
everything that is to land has landed. -/
def State.canSave (s : State) (j : Job) : Bool :=
  s.agenda.isEmpty && !s.advancing j && s.ops.all (fun o => o.job != some j.id || s.opRests o)
    && s.msgs.all (fun m => m.job != some j.id || s.msgRests m)
    && s.restarts.all (fun r => !(j.whos.contains r.1 && r.2.1.isSdot))
    && j.tiles.all fun t => (s.tile t).sxq.all (fun o => o.job != some j.id) && (s.tile t).cpq.all fun o => o.job != some j.id

/-- (R186) The word, slot and T of the trigger of a blocking form. -/
def Ctx.blockedAt (x : Ctx) (rid : Nat) : Nat × Nat × W64 :=
  (x.block.findSome? fun b => match b with
    | .event r w k t => if r = rid then some (w, k, t) else none
    | _ => none).getD (0, 0, 0)

/-- (R186) The blocking requests of a context: on their way, or waiting at a line. -/
def State.blockedOf (s : State) (c : Who) : List EvReq :=
  (s.evreqs.filter fun r => r.who == c && r.kind.blocks)
    ++ s.lines.flatMap fun (e : Nat × Line) => (e.2.waiters.filter fun w => w.1 == c).map fun w =>
      let a := (s.ctx c).blockedAt w.2
      ({ id := w.2, who := c, job := e.2.job, line := e.1, kind := if e.2.mode = 2 then .lock else .wait, rid := w.2,
         word := a.1, slot := a.2.1, t := a.2.2, dbl := (s.ctx c).shadow.isSome } : EvReq)

/-- (R186) The record and the phase of a blocked phase operation. -/
def Block.phase? (b : Block) : Option (Nat × BitVec 32) :=
  match b with
  | .phase rid p => some (rid, p)
  | _ => none

/-- (R194) A phase operation blocked in another phase. -/
def Block.inPhase (b : Block) (p : BitVec 32) : Block :=
  match b with
  | .phase rid _ => .phase rid p
  | b => b

/-- (R186) A context as a save records it: the arrival of a blocked phase operation is a ptry's. -/
def Ctx.savedPhase (x : Ctx) : Ctx :=
  match x.block.findSome? Block.phase? with
  | some (_, p) => { x with ptry := some p }
  | none => x

/-- (R186, R194) A context as a resume leaves it in phase `p`: a withdrawn phase operation is presented again, and goes by the arrival
that is recorded; where none is, it arrives. -/
def Ctx.resumedPhase (x : Ctx) (p : BitVec 32) : Ctx :=
  match x.block.findSome? Block.phase? with
  | some (rid, _) =>
    { x with
      block := x.block.map (·.inPhase (x.ptry.getD p)), ptry := none
      arriving := if x.ptry.isSome then x.arriving else some (p, rid) }
  | none => x

/-- (R186, R341, R350) The image of a job's share of a tile, with what is withdrawn. -/
def State.imageFor (s : State) (j : Job) (tile : Nat) : Image :=
  let im := s.imageOf j tile
  { im with
    tile := { im.tile with
      ctxs := im.tile.ctxs.map fun (e : Nat × Ctx) => (e.1,
        { e.2.savedPhase with
          withdrawn := s.blockedOf { tile := tile, ctx := e.1 }
          shadow := e.2.shadow.map fun h => { h with parity := [] } }) }
    msgs := s.msgs.filter fun m => m.job == some j.id && m.who.tile == tile && (s.jobNo m.job).sendsHere m.t
    restarts := s.restarts.filter fun r => r.1.tile == tile && (j.ctxsOn tile).contains r.1.ctx }

/-- (R186, R350) What a job withdraws. -/
def State.withdraw (s : State) (j : Job) : State :=
  let mine (c : Who) : Bool := j.whos.contains c
  { s with
    evreqs := s.evreqs.filter fun r => !(mine r.who && r.kind.blocks)
    lines := s.lines.map fun (e : Nat × Line) => (e.1, { e.2 with waiters := e.2.waiters.filter fun w => !mine w.1 })
    msgs := s.msgs.filter fun m => !(m.job == some j.id && (s.jobNo m.job).sendsHere m.t)
    restarts := s.restarts.filter fun r => !mine r.1 }

/-- (R341 to R344) The tile images of a job written to an area, as its save number `saves`. In the native format only what
changed since the images `old` is written. -/
def State.saveImages (s : State) (j : Job) (area saves : Nat) (ims old : Sparse Image) : State :=
  ims.foldl (fun (s : State) (e : Nat × Image) =>
    let tile := j.tiles.getD e.1 0
    s.saveImage j (j.ctxsOn tile) tile (slotPa area e.1) saves e.2 (if j.compat then none else old.get? e.1)) s

/-- (R343) Images as a save leaves them: every group valid, none dirty. -/
def Job.savedImages (j : Job) (ims : Sparse Image) : Sparse Image :=
  ims.map fun (e : Nat × Image) => (e.1, e.2.saved j (j.ctxsOn (j.tiles.getD e.1 0)))

/-- (R341) The tile images of a job by logical index. -/
def State.imagesOf (s : State) (j : Job) : Sparse Image := (j.tiles.zipIdx).map fun (t, n) => (n, s.imageFor j t)

/-- (R339) Whether the job that displaced another still needs its place. -/
def State.displacer (s : State) (d : Option Nat) : Bool :=
  match d.bind s.job? with
  | some k => k.st == .waiting || k.st == .resuming || k.resident
  | none => false

/-- (R349) A member that is pre-empted holds the barrier of its phase group: its arrival in the phase, if it has left, is taken back. -/
def State.unannounce (s : State) (j : Job) : State :=
  if j.members.contains (j.member, j.phase) then
    { s.updJob j.id fun x => { x with members := x.members.erase (j.member, j.phase) } with
      peerOut := s.peerOut ++ [(9, [BitVec.ofNat 64 j.group, BitVec.ofNat 64 j.member, j.phase.setWidth 64])] }
  else s

/-- (R338, R349) A job is saved and leaves its tiles. -/
def State.saveJob (s : State) (j : Job) : State :=
  let ims := s.imagesOf j
  let s1 := (s.withdraw j).saveImages j j.save (j.saves + 1) ims j.images
  let s2 := j.tiles.foldl (fun (s : State) t => ((s.updTile t fun y => y.leave j t).cleanSwatches j t).serveWake t) (s1.releaseSlots j)
  let s3 := j.pre.foldl (fun (s : State) p => s.journalMove p.1 p.2 2 0 0) s2
  let back := !j.res.isEmpty || (j.by'.isSome && !s.displacer j.by')
  (s3.updJob j.id fun x =>
    { x with
      st := if back then .resuming else .preempted, by' := if back then none else x.by', images := j.savedImages ims
      saves := x.saves + 1, area := none, pre := [] }).unannounce j |>.departed j.id

/-- PREEMPTION (R338): once the job's engines have reached their checkpoints, its tile images are written and its
places are free. -/
def execPreemption (job : Nat) (s : State) : Host.Outcome State Fault Refusal :=
  match s.job? job with
  | some j => .next (if j.st == .preempting && s.canSave j then s.saveJob j else s)
  | none => .next s

/-- (R334, R338) Running jobs are to be pre-empted, displaced by a launch or at a packet's word. -/
def State.preemptJobs (s : State) (ks : List Nat) (by' : Option Nat) : State :=
  { s with
    jobs := updWhere (fun j => ks.contains j.id && j.st == .running) (fun j => { j with st := .preempting, by' := by' }) s.jobs }

/-! ### Restoring -/

/-- (R186, R339) A withdrawn request is presented again. -/
def State.represent (s : State) (r : EvReq) : State := { s with evreqs := s.evreqs ++ [{ r with id := s.fresh }] }.takeId

/-- (R350) An outstanding message is sent again in its place in trigger order; a release that had left its tile does not wait
again. -/
def State.resend (s : State) (m : Msg) : State :=
  let m1 := s.aimMsg m m.t
  s.launchMsg (if m.st = .waiting then m1 else { m1 with st := .moving })

/-- (R339, R340) A job's tile image put in place: what the slot holds, less what is discardable. -/
def State.restoreTile (s : State) (j : Job) (area n tile : Nat) (im : Image) : State :=
  let disc := ((j.roleAt tile).map (·.disc)).getD []
  let im1 := (s.loadImage j (j.ctxsOn tile) (slotPa area n) (s.used tile [j.id]) im).discard j disc
  let waits := im1.tile.ctxs.flatMap fun (e : Nat × Ctx) => e.2.withdrawn
  let im2 := { im1 with
    tile := { im1.tile with
      ctxs := im1.tile.ctxs.map fun (e : Nat × Ctx) =>
        (e.1, { e.2.resumedPhase j.phase with
                withdrawn := [], waits := 0, starved := 0, wasReady := false, dirty := 0
                release := ((j.roleAt tile).map fun r => r.release).getD e.2.release }) } }
  let s1 := waits.foldl State.represent (s.putImage j tile im2)
  let s2 := im1.msgs.foldl State.resend s1
  { s2 with
    restarts := s2.restarts ++ im.restarts
    ops := s2.ops ++ im.ops }.serveWake tile

/-- (R147, R389) What serves an identifier leaves every TLB and walk cache. -/
def State.dropAsid (s : State) (asid : Nat) : State :=
  { s with
    tlbs := s.tlbs.map fun (t : Nat × List TlbEnt) => (t.1, t.2.filter fun e => !e.names asid)
    utlbs := s.utlbs.map fun (t : Nat × List TlbEnt) => (t.1, t.2.filter fun e => !e.names asid)
    walks := s.walks.map fun (t : Nat × List WalkEnt) => (t.1, t.2.filter fun e => e.asid != asid) }

/-- (R345) The pages of a snapshot under a job's identifier. -/
def State.adoptPages (s : State) (j : Job) : State :=
  match j.pages with
  | some p => match s.roots.get? p.toNat with
    | some root => { s with roots := s.roots.set j.asid.toNat root }.dropAsid j.asid.toNat
    | none => { s with roots := s.roots.erase j.asid.toNat }.dropAsid j.asid.toNat
  | none => s

/-- (R194, R195) Step 3 for one context: the records of the phase operations land that have blocked in another phase. -/
def State.endPhaseBlocks (s : State) (j : Job) (c : Who) : State :=
  (s.ctx c).block.foldl (fun (s : State) b => match b with
    | .phase rid p =>
      if p = j.phase then s
      else (s.landRec c 14 rid (rec64 (j.phaseStatus false))).updCtx c fun x =>
        { x with block := x.block.erase b, woken := s.unselected c.tile }
    | _ => s) s

/-- (R125, R339, R345) A pre-empted or a restored job is placed: its images are read, its withdrawn operations are presented
again, and its contexts are ready from the next tile cycle on. The images of a snapshot stand between steps 2 and 3 of an
advance, so step 3 follows. -/
def State.restoreJob (s : State) (j : Job) : State :=
  let s0 := if j.st = .waiting then
      j.tiles.foldl (fun (s : State) t => s.updTile t fun y => { y with frozen := false })
        (((s.configLines j).depMove j.entry .running).adoptPages j)
    else s
  let s1 := j.images.foldl (fun (s : State) (e : Nat × Image) =>
    s.restoreTile j (j.area.getD j.save) e.1 (j.tiles.getD e.1 0) e.2) (s0.loadRoles j)
  let s2 := j.res.foldl (fun (s : State) p => s.journalMove p.1 p.2 2 0 0) s1
  let due := s2.deferred.filter fun d => d.2.1 == j.id
  let s2 := due.foldl (fun (s : State) d => s.raiseLate d.1 (some j.id) d.2.2)
    { s2 with deferred := s2.deferred.filter fun d => d.2.1 != j.id }
  let s3 := j.whos.foldl (fun (s : State) c => (s.endPhaseBlocks j c).updCtx c fun x => { x with woken := s.unselected c.tile }) s2
  s3.updJob j.id fun x =>
    { x with
      st := .running, area := none, pages := none, res := []
      images := if j.area.isSome then [] else x.images }

/-! ### Placement -/

/-- (R334) Whether a job waits for placement. -/
def State.waitsPlace (s : State) (j : Job) : Bool :=
  j.st == .resuming || (j.st == .waiting && match j.entry with
    | some i => ((s.deps.get? i).map (·.st)) == some .ready
    | none => true)

/-- (R335) A launch that has become Ready is refused by R334: its entry is Cancelled. -/
def State.refuseJob (s : State) (j : Job) : State :=
  let s1 := (s.journalMove j.queue j.pseq 3 2 0).updJob j.id fun x => { x with st := .failed }
  match j.entry with
  | some i => s1.depCancel 256 [i]
  | none => s1

/-- JOB_PLACEMENT (R334, R339): a job that waits for placement is refused, placed, or displaces others. -/
def execJobPlacement (job : Nat) (s : State) : Host.Outcome State Fault Refusal :=
  match s.job? job with
  | some j =>
    .next (if !s.waitsPlace j then s
      else if !j.admitted && j.refused then s.refuseJob j
      else match s.plan j with
        | .wait => s
        | .displace ks => s.preemptJobs ks (some j.id)
        | .place => if j.images.isEmpty then s.placeJob j else s.restoreJob j)
  | none => .next s

/-! ### A snapshot's images under another job -/

/-- What a restore changes in an image: the job, the tile, and how far identifiers move, so that they are new. -/
structure Renew where
  job : Nat
  tile : Nat
  up : Nat
  deriving DecidableEq, Repr

def Renew.who (r : Renew) (c : Who) : Who := { c with tile := r.tile }
def Renew.trig (r : Renew) (t : Trig) : Trig := { t with who := r.who t.who }
/-- (R313, R345) An operation, with its atomic's tag that of its new tile and the same SEQ. -/
def Renew.mem (r : Renew) (o : MemOp) : MemOp :=
  { o with
    id := o.id + r.up, who := r.who o.who, job := some r.job, locs := [], pas := []
    tag := if o.kind.isAmo then atomicTag (r.who o.who) (o.tag.setWidth 10) else o.tag }
def Renew.mx (r : Renew) (o : MxOp) : MxOp := { o with id := o.id + r.up, who := r.who o.who, job := some r.job }
def Renew.sx (r : Renew) (o : SxOp) : SxOp := { o with id := o.id + r.up, who := r.who o.who, job := some r.job }
def Renew.copy (r : Renew) (o : CopyReq) : CopyReq := { o with id := o.id + r.up, rank := o.rank + r.up, who := r.who o.who, job := some r.job }
def Renew.msg (r : Renew) (o : Msg) : Msg := { o with id := o.id + r.up, who := r.who o.who, job := some r.job }
def Renew.ev (r : Renew) (o : EvReq) : EvReq :=
  { o with who := r.who o.who, job := some r.job, rid := o.rid + r.up, line := clusterLine (clusterOf r.tile) (o.line % 32) }
def Renew.pair (r : Renew) (p : Who × Nat) : Who × Nat := (r.who p.1, p.2 + r.up)

def Renew.acc (r : Renew) : AccSt → AccSt
  | .idle => .idle
  | .busy id prior => .busy (id + r.up) (prior.map r.mx)
  | .stopped o => .stopped (r.mx o)

def Renew.op (r : Renew) : RetOp → RetOp
  | .mem o => .mem (r.mem o)
  | .mx o => .mx (r.mx o)
  | .sdot o => .sdot (r.sx o)
  | .copy o => .copy (r.copy o)
  | .msg o => .msg (r.msg o)
  | .rot w k rid => .rot w k (rid + r.up)
  | .event q => .event (r.ev q)
  | .applied o => .applied (r.mem o)

def Renew.fault (r : Renew) (p : PendFault) : PendFault := { p with rank := p.rank + r.up, op := r.op p.op }

def Renew.task (r : Renew) : Task → Task
  | .run t i => .run (r.trig t) i
  | .fault t i c n f => .fault (r.trig t) i c n f
  | .issue c => .issue (r.who c)
  | .wordEnd c => .wordEnd (r.who c)
  | .cont c => .cont (r.who c)
  | .advance _ => .advance r.tile
  | .select _ => .select r.tile

def Renew.ret (r : Renew) : RetKind → RetKind
  | .decode => .decode
  | .target x => .target x
  | .trigger t i l => .trigger (r.trig t) i (l.map r.task)
  | .soft t i l => .soft (r.trig t) i (l.map r.task)
  | .late p => .late (r.fault p)

def Renew.block (r : Renew) : Block → Block
  | .event rid w k t => .event (rid + r.up) w k t
  | .wpop rid => .wpop (rid + r.up)
  | .phase rid p => .phase (rid + r.up) p
  | .drain => .drain
  | .copy o => .copy (r.copy o)

def Renew.bank (r : Renew) (b : Bank) : Bank :=
  { b with
    fly := b.fly.map fun f => { f with id := f.id + r.up }
    outst := b.outst.map fun o => { o with id := o.id + r.up } }

def Renew.ctx (r : Renew) (x : Ctx) : Ctx :=
  { x with
    job := some r.job, bank := r.bank x.bank, cont := x.cont.map r.task, block := x.block.map r.block, faults := x.faults.map r.fault
    mutex := [], withdrawn := x.withdrawn.map r.ev, arriving := x.arriving.map fun p => (p.1, p.2 + r.up)
    shadow := x.shadow.map fun h => { h with
      bank := r.bank h.bank
      cont := h.cont.map r.task
      ret := r.ret h.ret } }

/-- (R345) A tile's share under another job and tile, with its window at swatch `b` in place of swatch `a`. -/
def Renew.tileOf (r : Renew) (a b : Nat) (t : Tile) : Tile :=
  { t with
    ctxs := t.ctxs.map fun (e : Nat × Ctx) => (e.1, r.ctx e.2)
    owner := t.owner.map fun (e : Nat × BitVec 2) => (e.1 + b - a, e.2)
    accs := t.accs.map fun (e : Nat × AccSt) => (e.1, r.acc e.2)
    mxq := t.mxq.map r.mx, mxLate := t.mxLate.map r.mx, mxw := t.mxw.map fun w => { w with
      id := w.id + r.up
      who := r.who w.who
      drains := w.drains.map (· + r.up) }
    reels := t.reels.map fun (e : Nat × Reel) => (e.1, { e.2 with
      claims := e.2.claims.map r.pair
      rels := e.2.rels.map fun (p : Nat × (Who × Option Nat × Nat)) => (p.1, (r.who p.2.1, some r.job, p.2.2.2 + r.up)) })
    cmps := t.cmps.map fun (e : Nat × Comparator) => (e.1, { e.2 with
      base := e.2.base + 4096 * b - 4096 * a
      shift := 4096 * b })
    wpops := t.wpops.map r.pair
    rots := t.rots.map fun (_, tr, rid) => (r.job, r.trig tr, rid + r.up) }

/-- (R345) An image of a snapshot under another job. -/
def Renew.image (r : Renew) (a b : Nat) (im : Image) : Image :=
  { im with
    tile := r.tileOf a b im.tile, msgs := im.msgs.map r.msg, ops := im.ops.map r.mem
    restarts := im.restarts.map fun (c, o, t) => (r.who c, r.op o, t) }

/-- (R345) Whether the images of a snapshot of job `k` fit job `j`: as many tiles, on each the same contexts, and the same
share but for the place of its window. -/
def Job.restores (j k : Job) : Bool :=
  j.tiles.length == k.tiles.length && j.tiles.map j.ctxsOn == k.tiles.map k.ctxsOn && j.accx == k.accx && j.reelx == k.reelx
    && j.cmpx == k.cmpx && j.qx == k.qx && j.swcnt == k.swcnt

/-- (R345) A job that takes its images, and the phase that they stand in, from a snapshot. -/
def State.fromSnap (s : State) (jid : Nat) (p : Snap) : State :=
  let up := s.fresh
  { s with fresh := up + up }.updJob jid fun j =>
    { j with
      phase := p.job.phase, abort := p.job.abort, area := some p.area, pages := some p.asid
      images := p.job.images.map fun (e : Nat × Image) =>
        (e.1, ({ job := jid, tile := j.tiles.getD e.1 0, up := up } : Renew).image p.job.swbase j.swbase e.2) }

end Sys2Proof.Machine
end

