-- ==== Sys2Proof/Machine/Phase.lean ====
section
/-! DEFINITION. The end of a phase (R192 to R196), snapshots and hot replacement (R345, R346), phase groups (R349), and
the end of a job (R336). -/

namespace Sys2Proof.Machine

/-! ### Arrival -/

/-- (R349) Whether this member's arrival is still to be announced to its phase group. -/
def State.mustAnnounce (s : State) (j : Job) : Bool :=
  j.st == .running && j.group != 0 && !j.members.contains (j.member, j.phase) && s.allIn j

/-- (R349) This member's arrival leaves by the peer ports, and counts here. -/
def State.announce (s : State) (j : Job) : State :=
  { s.updJob j.id fun x => { x with members := x.members ++ [(x.member, x.phase)] } with
    peerOut := s.peerOut ++ [(1, [BitVec.ofNat 64 j.group, BitVec.ofNat 64 j.member, j.phase.setWidth 64])] }

/-! ### Step 1 -/

/-- (R195) The staged stores of a job's phase. -/
def State.stagedOf (s : State) (j : Job) : List Staged := s.staged.filter fun g => g.job == j.id && g.phase == j.phase

/-- (R161, R195) The lines of a job's staged stores that gather at their homes. -/
def State.stagedGathering (s : State) (j : Job) : List Nat :=
  if j.touched then [] else s.gathering ((s.stagedOf j).map (·.loc))

/-- (R163) One staged store committed, and D set in its leaf entry. -/
def State.commitOne (s : State) (g : Staged) : State :=
  let s1 := (s.demand [g.loc]).storeLe g.loc 8 g.value.toNat false
  match g.leaf with
  | some l => s1.setEntry l (s1.entry l ||| 0x20)
  | none => s1

/-- (R163, R195) The staged stores of a job's phase are committed, or discarded where a link fault touched it. -/
def State.endStaged (s : State) (j : Job) : State :=
  let s1 := (if j.touched then s else (s.stagedOf j).foldl State.commitOne s).unhold (.commit j.id)
  { s1 with staged := s1.staged.filter fun g => !(g.job == j.id && g.phase == j.phase) }

/-! ### Snapshots -/

/-- (R139) A table entry that names another table. -/
def retable (e : W64) (pa : Nat) : W64 := (e &&& ~~~(BitVec.ofNat 64 (2 ^ 52 - 2 ^ 13))) ||| BitVec.ofNat 64 pa

/-- (R345) A table of `n` entries copied to a place in the pool; `sub` copies what an entry names, and gives the entry of the
copy. None where the pool has no room. -/
def State.copyTable (s : State) (pa n : Nat) (sub : State → W64 → Option (State × W64)) : Option (State × Nat) :=
  match s.takeTable with
  | none => none
  | some (s1, tab) =>
    ((List.range n).foldl (fun (a : Option State) i => a.bind fun s =>
      (sub s (s.entry (paLoc (pa + 8 * i)))).map fun r => r.1.newEntry (paLoc (tab + 8 * i)) r.2) (some s1)).map fun s => (s, tab)

/-- (R345) The leaf table that a middle-level entry names copied. -/
def State.copyMiddleEntry (s : State) (e : W64) : Option (State × W64) :=
  if e.getLsbD 0 && e.getLsbD 3 || !tableOk e then some (s, e)
  else (s.copyTable (nextTable e) 1024 fun s l => some (s, l)).map fun r => (r.1, retable e r.2)

/-- (R345) The middle table that a root entry names copied. -/
def State.copyRootEntry (s : State) (e : W64) : Option (State × W64) :=
  if !tableOk e then some (s, e)
  else (s.copyTable (nextTable e) 1024 State.copyMiddleEntry).map fun r => (r.1, retable e r.2)

/-- (R345) COW := 1 in a leaf entry with W = 1. -/
def State.markLeaf (s : State) (loc : Nat) : State :=
  let e := s.entry loc
  if e.getLsbD 0 && e.getLsbD 2 then s.setEntry loc (e ||| 0x10) else s

/-- (R345) COW := 1 in the leaves under a middle-level entry. -/
def State.markMiddle (s : State) (loc : Nat) : State :=
  let e := s.entry loc
  if e.getLsbD 0 && e.getLsbD 3 then s.markLeaf loc
  else if tableOk e then (List.range 1024).foldl (fun (s : State) i => s.markLeaf (paLoc (nextTable e + 8 * i))) s else s

/-- (R345) Step 2: COW := 1 in every leaf of an identifier with W = 1. -/
def State.markRoot (s : State) (root : Nat) : State :=
  (List.range 510).foldl (fun (s : State) i =>
    let e := s.entry (paLoc (root + 8 * i))
    if tableOk e then (List.range 1024).foldl (fun (s : State) k => s.markMiddle (paLoc (nextTable e + 8 * k))) s else s) s

/-- (R345) Steps 1 to 3: a job's tables under the snapshot's identifier. None where the pool has no room. -/
def State.snapTables (s : State) (asid snap : Nat) : Option State :=
  match s.roots.get? asid with
  | none => some (({ s with roots := s.roots.erase snap }.dropAsid snap).dropAsid asid)
  | some root => (s.copyTable root 512 State.copyRootEntry).map fun r =>
      (({ r.1 with roots := r.1.roots.set snap r.2 }.markRoot root).dropAsid snap).dropAsid asid

/-- (R345) The image of a tile for a snapshot: with the operations that have faulted or are held. -/
def State.snapImage (s : State) (j : Job) (tile : Nat) : Image :=
  { s.imageFor j tile with ops := s.ops.filter fun o => o.job == some j.id && o.who.tile == tile }

/-- (R345) Whether a job's tile images can be written at an advance: its engines have finished, and no operation is under way. -/
def State.snapReady (s : State) (j : Job) : Bool :=
  s.agenda.isEmpty && s.ops.all (fun o => o.job != some j.id || o.st == .waiting || o.st == .performed || o.st == .faulted)
    && j.tiles.all fun t => (s.tile t).sxq.all (fun o => o.job != some j.id) && (s.tile t).cpq.all fun o => o.job != some j.id

/-- (R345) A snapshot packet carried out: body words 1 and 2 name the identifier and the area. -/
def State.takeSnapshot (s : State) (j : Job) (queue : Nat) (p : Packet) : State :=
  let asid := (p.body.getD 1 0).toNat
  let area := (p.body.getD 2 0).toNat
  let fail := s.journalMove queue p.seq 3 10 0
  if 65536 ≤ asid ∨ area % 4096 ≠ 0 ∨ dramTop < area + 0x200000 * j.tiles.length then fail
  else match s.snapTables j.asid.toNat asid with
    | none => fail
    | some s1 =>
      let ims := (j.tiles.zipIdx).map fun (t, n) => (n, s1.snapImage j t)
      let native := { j with compat := false, images := j.savedImages ims }
      let s2 := s1.saveImages native area 1 ims []
      { s2 with
        snaps := s2.snaps ++ [({ queue := queue, seq := p.seq, asid := BitVec.ofNat 16 asid, area := area, job := native } : Snap)]
        }.journalMove queue p.seq 2 0 0

/-! ### Hot replacement -/

/-- (R346) Whether an object may replace a job's: the same roles, placement table and timing class. -/
def Obj.replaces (n o : Obj) : Bool :=
  n.roles.length == o.roles.length && n.roles.all (fun r => o.roles.any fun q => q.role == r.role) && n.place == o.place && n.timing == o.timing

/-- (R346, R370) A context that goes on with a new image at its rejoin entry. -/
def Ctx.rejoin (x : Ctx) (o : Role) (entry : Nat) : Ctx :=
  let phases := x.block.filter fun b => match b with
    | .phase _ _ => true
    | _ => false
  let keep (id : Nat) : Bool := phases.any fun b => match b with
    | .phase rid _ => rid == id
    | _ => false
  { x with
    g := x.g.only (· < o.gkeep), v := x.v.only (· < o.vkeep), f := x.f &&& o.fkeep, a := x.a.only o.akeep.getLsbD
    wd := x.wd.only o.akeep.getLsbD, bank := { Bank.init with outst := x.bank.outst.filter fun r => r.key == 14 && keep r.id }
    shadow := none, loop := LoopSt.init, xfer := [], stall := 0, idle := 0, faults := [], block := phases, later := []
    loopReq := none, halting := none, rfeReq := none, cont := [], mismatch := none, stalled := false, same := false, sameTile := false
    withdrawn := [], pc := entry
    trapbase := BitVec.ofNat 13 o.trapEntry, release := o.release }

/-- (R346) Whether every tile of a job can take an object's image: it has a rejoin entry, and overlaps no other job's. -/
def State.canReplace (s : State) (j : Job) (n : Obj) : Bool :=
  let k := { j with obj := n }
  j.tiles.all fun t => ((k.roleAt t).bind (·.rejoin)).isSome && (s.rivals j).all fun r => !k.imageMeets r t

/-- (R346) What the contexts that rejoin have waiting outside their banks leaves. -/
def State.dropWaits (s : State) (j : Job) (cs : List Who) : State :=
  { s with
    evreqs := s.evreqs.filter fun r => !(cs.contains r.who && r.kind.blocks)
    lines := s.lines.map fun (e : Nat × Line) => (e.1, { e.2 with waiters := e.2.waiters.filter fun w => !cs.contains w.1 })
    restarts := s.restarts.filter fun r => !cs.contains r.1
    ops := s.ops.filter fun o => !(o.job == some j.id && o.st == .faulted)
    tiles := s.tiles.map fun (e : Nat × Tile) => (e.1, { e.2 with wpops := e.2.wpops.filter fun w => !cs.contains w.1 }) }

/-- (R346) A hot replace packet carried out: body word 1 is the reference of the new object. -/
def State.hotReplace (s : State) (j : Job) (queue : Nat) (p : Packet) : State :=
  match s.obj? queue (p.body.getD 1 0).toNat with
  | none => s.journalMove queue p.seq 3 3 0
  | some n =>
    if !n.replaces j.obj then s.journalMove queue p.seq 3 10 0
    else if !s.canReplace j n then (s.journalMove queue p.seq 3 10 0).failJob j.id 10
    else
      let k := { j with obj := n }
      let s1 := (s.updJob j.id fun x => { x with obj := n }).loadRoles k
      let cs := j.whos.filter fun c => (s.ctx c).exit.isNone
      let s2 := cs.foldl (fun (s : State) c => match k.roleAt c.tile with
        | some o => (s.updCtx c fun x => x.rejoin o (o.rejoin.getD 0)).updTile c.tile fun t => t.freeLoop c.ctx
        | none => s) (s1.dropWaits j cs)
      s2.journalMove queue p.seq 2 0 0

/-- (R345, R346) The packets that fall due at an advance, in packet order. A pre-emption defers them; a failure of the job ends
those that are left. -/
def State.runDue (s : State) (jid : Nat) (due : List (Nat × Packet)) : State :=
  due.foldl (fun (s : State) (p : Nat × Packet) => match s.job? jid with
    | some j =>
      if j.st != .running then s
      else
        let s1 := s.updJob jid fun x => { x with due := x.due.drop 1 }
        if p.2.kind = 7 then s1.takeSnapshot j p.1 p.2 else s1.hotReplace j p.1 p.2
    | none => s) s

/-! ### The advance -/

/-- (R195) Step 2. -/
def Job.advance (j : Job) : Job :=
  { j with
    phase := j.phase + 1, abort := j.touched, touched := j.marks.contains (j.phase + 1), dog := 0
    members := j.members.filter fun m => m.2 != j.phase
    marks := j.marks.filter fun p => p != j.phase + 1 }

/-- (R195, R338) Whether a job's phase can end: every participant has arrived, and an advance that carries a snapshot finds the
job's images ready. An advance under way when a pre-emption starts finishes first. -/
def State.canAdvance (s : State) (j : Job) : Bool :=
  s.advancing j && (j.st == .preempting || j.due.all (fun p => p.2.kind != 7) || s.snapReady j)

/-- PHASE_ADVANCE (R195). -/
def execPhaseAdvance (job : Nat) (s : State) : Host.Outcome State Fault Refusal :=
  match s.job? job with
  | some j =>
    .next (if !s.canAdvance j then s
      else if !(s.stagedGathering j).isEmpty then s.holdOn (.commit j.id) (s.stagedGathering j)
      else
        let s1 := ((s.endStaged j).updJob job Job.advance).runDue job j.due
        match s1.job? job with
        | some k => if k.resident then k.whos.foldl (fun (s : State) c => s.endPhaseBlocks k c) s1 else s1
        | none => s1)
  | none => .next s

/-- PHASE_WATCHDOG_EXPIRY (R196). -/
def execPhaseWatchdogExpiry (job : Nat) (s : State) : Host.Outcome State Fault Refusal :=
  match s.job? job with
  | some j =>
    .next (if j.st == .running && j.wdog != 0 && 65536 * j.wdog ≤ j.dog then
        (s.updJob job fun x => { x with abort := true, touched := true }).failJob job 5
      else s)
  | none => .next s

/-- (R349) Whether a job belongs to a phase group and has not ended. -/
def Job.inGroup (j : Job) (g : Nat) : Bool := j.group == g && g != 0 && j.st != .completed && j.st != .failed

/-- PHASE_GROUP_ARRIVAL (R195, R349, R363): a member of another package has arrived in a phase, has taken its arrival back, has been
touched by a link fault, or has completed. DESIGN CHOICE (log 23): what comes before a job of the group is here is kept for it. -/
def execPhaseGroupArrival (grp : Nat) (member : MemberNote) (s : State) : Host.Outcome State Fault Refusal :=
  .next (if s.jobs.any fun j => j.inGroup grp then
      { s with jobs := updWhere (fun j => j.inGroup grp) (fun j => j.heard member.member member.note) s.jobs }
    else { s with early := s.early ++ [(grp, member.member, member.note)] })

/-- PHASE_GROUP_MEMBER_FAILURE (R349): the present phase ends aborted, and every member fails. -/
def execPhaseGroupMemberFailure (grp member : Nat) (s : State) : Host.Outcome State Fault Refusal :=
  .next ((s.jobs.filter fun j => j.inGroup grp && j.member != member).foldl (fun (s : State) j =>
    (s.updJob j.id fun x => { x with abort := true, touched := true }).failJob j.id 11) s)

/-! ### The end of a job -/

/-- (R336) Whether a job can complete. -/
def State.canComplete (s : State) (j : Job) : Bool := j.st == .running && s.allHalted j && s.allIn j && j.groupIn

/-- (R335, R336, R365) A job completes. -/
def State.completeJob (s : State) (j : Job) : State :=
  let s1 := ((s.endStaged j).journalMove j.queue j.pseq 2 0 (s.exitWord j)).closePackets j
  let s2 := (s1.purgeJob j.id (j.whos.filter fun c => (s.ctx c).job == some j.id)).releaseJob j
  let s3 := s2.updJob j.id fun x => { x with st := .completed, images := [], pre := [], res := [], due := [] }
  let s4 := { s3 with
    peerOut := s3.peerOut ++ if j.group = 0 then [] else [(6, [BitVec.ofNat 64 j.group, BitVec.ofNat 64 j.member])] }
  match j.entry with
  | some i => s4.depDone i
  | none => s4

/-- JOB_COMPLETE (R336): every strand has halted, its queued operations have completed, and the last phase ends. -/
def execJobComplete (job : Nat) (s : State) : Host.Outcome State Fault Refusal :=
  match s.job? job with
  | some j =>
    .next (if !s.canComplete j then s
      else if !(s.stagedGathering j).isEmpty then s.holdOn (.commit j.id) (s.stagedGathering j)
      else s.completeJob j)
  | none => .next s

end Sys2Proof.Machine
end

