-- ==== Sys2Proof/Machine/Packets.lean ====
section
/-! DEFINITION. Command queues and packets (R329, R330), the journal read (R365 to R367), and what each kind of packet
does when it starts. -/

namespace Sys2Proof.Machine

/-! ### Words of packets -/

/-- (R329) Whether a job word has bits that must be zero, and the job that it names. -/
def jobWordBad (w : W64) : Bool := bitsAt w 38 26 != 0
def State.jobWord (s : State) (w : W64) : Option Job :=
  s.jobs.find? fun j => j.queue == bitsAt w 32 6 && j.pseq == w.setWidth 32

/-- (R366) Minimal mode (R392). -/
def State.minimal (s : State) : Bool := s.bootcause.getLsbD 0

/-- (R329, R333, R335, R345, R348, R366, R367, R375) The body length of a kind, by what the body says. -/
def packetLen (p : Packet) : Nat :=
  match p.kind with
  | 1 => descLen p.body
  | 2 => let n := 1 + bitsAt (p.body.getD 0 0) 8 4; n + descLen (p.body.drop n)
  | 3 => 0
  | 4 | 6 => 2
  | 5 | 9 | 10 | 11 => 1
  | 7 => 3
  | 8 => 1 + descLen (p.body.drop 1)
  | _ => 2 + (if p.debugOp = 5 then bitsAt (p.body.getD 1 0) 56 7 else 0)

/-- (R329, R366) The refusal of a packet by its header alone. -/
def State.headerBad (s : State) (p : Packet) : Option (BitVec 16) :=
  let k := p.kind
  if k = 0 ∨ 12 < k ∨ (s.minimal && k != 9) then some 1
  else if bitsAt p.header 48 2 ≠ 0 ∨ p.len ≠ p.body.length ∨ p.len ≠ packetLen p then some (if k = 12 then 12 else 1)
  else none

/-! ### What a packet does when it starts -/

/-- A packet refused, or failed. -/
def State.failPacket (s : State) (q : QPkt) (reason : BitVec 16) : State := s.journalMove q.queue q.seq 3 reason 0

/-- (R330, R333, R334) A launch. -/
def State.startLaunch (s : State) (q : QPkt) : State :=
  match s.launchBad q.queue q.packet.body with
  | some r => s.failPacket q r
  | none =>
    let (s1, j) := s.newJob q.queue q.seq q.packet.body
    (s1.updJob j.id fun x => { x with admitted := true }).journalMove q.queue q.seq 1 0 0

/-- (R335) Whether an index of the dependence table is in use. -/
def State.depInUse (s : State) (i : Nat) : Bool :=
  match (s.deps.get? i).map fun (d : Dep) => d.st with
  | some (.waiting _) | some .ready | some .running => true
  | _ => false

/-- (R335) Whether an index is Cancelled. -/
def State.depGone (s : State) (i : Nat) : Bool := ((s.deps.get? i).map fun (d : Dep) => d.st) == some .cancelled

/-- (R335) A graph entry. DESIGN CHOICE (log 19): bits [63:12] of the entry word and [63:8] of a predecessor word are ignored. -/
def State.startGraph (s : State) (q : QPkt) : State :=
  let e := q.packet.body.getD 0 0
  let i := bitsAt e 0 8
  let np := bitsAt e 8 4
  let preds := ((q.packet.body.drop 1).take np).map fun w => bitsAt w 0 8
  let ws := q.packet.body.drop (1 + np)
  if descReserved ws then s.failPacket q 1
  else if 8 < np || s.depInUse i then s.failPacket q 2
  else if (s.obj? q.queue (descObj ws)).isNone then s.failPacket q 3
  else
    let (s1, j) := s.newJob q.queue q.seq ws
    let n := (preds.filter s.depInUse).length
    let st : DepSt := if preds.any s.depGone then .cancelled else if n = 0 then .ready else .waiting n
    let s2 := (s1.updJob j.id fun x => { x with entry := some i }).journalMove q.queue q.seq 1 0 0
    let s3 := { s2 with deps := s2.deps.set i { st := st, preds := preds, job := j.id } }
    if st == .cancelled then
      ((s3.journalMove q.queue q.seq 4 9 0).updJob j.id fun x => { x with st := .failed }).depCancel 256 [i]
    else s3

/-- (R375) A load object packet. -/
def State.startLoad (s : State) (q : QPkt) : State :=
  let a := q.packet.body.getD 0 0
  let b := q.packet.body.getD 1 0
  if 65536 ≤ a.toNat ∨ a = 0 ∨ 2 ^ 52 ≤ b.toNat ∨ b.toNat % 4096 ≠ 0 then s.failPacket q 1
  else
    let bs := s.objectBytes b.toNat
    match s.loadError q.queue a.toNat bs with
    | some (err, idx) => s.journalMove q.queue q.seq 3 4 (BitVec.ofNat 64 (err * 2 ^ 32 + idx))
    | none => { s with objs := s.objs ++ [parseObj q.queue a.toNat bs] }.journalMove q.queue q.seq 2 0 0

/-- (R366, R376) An unload packet: a bit above REF is a reserved bit. -/
def State.startUnload (s : State) (q : QPkt) : State :=
  let r := (q.packet.body.getD 0 0).toNat
  if 65536 ≤ r then s.failPacket q 1
  else if (s.obj? q.queue r).isNone then s.failPacket q 3
  else { s with objs := s.objs.filter fun o => !(o.queue == q.queue && o.ref == r) }.journalMove q.queue q.seq 2 0 0

/-- Whether a job has ended. -/
def Job.over (j : Job) : Bool := j.st == .completed || j.st == .failed

/-- (R345, R346, R366) A snapshot or hot replace packet, which is due at the job's next advance. -/
def State.startDue (s : State) (q : QPkt) : State :=
  let w := q.packet.body.getD 0 0
  if jobWordBad w || (q.packet.kind == 6 && 65536 ≤ (q.packet.body.getD 1 0).toNat) then s.failPacket q 1
  else match s.jobWord w with
    | none => s.failPacket q 3
    | some j =>
      if q.packet.kind = 6 ∧ (s.obj? q.queue (q.packet.body.getD 1 0).toNat).isNone then s.failPacket q 3
      else if j.over then s.failPacket q 10
      else (s.updJob j.id fun x => { x with due := x.due ++ [(q.queue, q.packet)] }).journalMove q.queue q.seq 1 0 0

/-- (R345) A restore packet. -/
def State.startRestore (s : State) (q : QPkt) : State :=
  let w := q.packet.body.getD 0 0
  let ws := q.packet.body.drop 1
  if jobWordBad w || descReserved ws then s.failPacket q 1
  else match s.snaps.find? fun p => p.queue == bitsAt w 32 6 && p.seq == w.setWidth 32 with
    | none => s.failPacket q 3
    | some p => match s.launchBad q.queue ws with
      | some r => s.failPacket q r
      | none =>
        let (s1, j) := s.newJob q.queue q.seq ws
        if !j.restores p.job then s.failPacket q 10
        else ((s1.updJob j.id fun x => { x with admitted := true }).fromSnap j.id p).journalMove q.queue q.seq 1 0 0

/-- (R365) The words of a journal entry. -/
def JEntry.words (e : JEntry) : List W64 :=
  [BitVec.ofNat 64 (e.kind.toNat * 2 ^ 56 + e.queue * 2 ^ 50 + e.st.toNat * 2 ^ 32 + e.seq.toNat), e.time,
   e.reason.setWidth 64, e.w3]

/-- (R367) The words that a journal read returns for an entry that is not held. -/
def notHeld : List W64 := [BitVec.ofNat 64 (7 * 2 ^ 32), 0, 0, 0]

/-- (R367) The entries that a journal read returns. -/
def State.readJournal (s : State) (queue count : Nat) (seq : W32) : List W64 :=
  (List.range count).flatMap fun i => match s.journalGet queue (seq + BitVec.ofNat 32 i) with
    | some e => e.words
    | none => notHeld

/-- (R338) A pre-empt packet. -/
def State.startPreEmpt (s : State) (q : QPkt) : State :=
  let w := q.packet.body.getD 0 0
  if jobWordBad w then s.failPacket q 1
  else match s.jobWord w with
    | none => s.failPacket q 3
    | some j =>
      if j.resident then
        ((s.preemptJobs [j.id] none).updJob j.id fun x => { x with pre := x.pre ++ [(q.queue, q.seq)] }).journalMove q.queue q.seq 1 0 0
      else s.failPacket q 10

/-- (R339) A resume packet. -/
def State.startResume (s : State) (q : QPkt) : State :=
  let w := q.packet.body.getD 0 0
  if jobWordBad w then s.failPacket q 1
  else match s.jobWord w with
    | none => s.failPacket q 3
    | some j =>
      if j.st == .preempted || j.st == .preempting || j.st == .resuming then
        (s.updJob j.id fun x =>
          { x with
            st := if x.st = .preempted then .resuming else x.st, res := x.res ++ [(q.queue, q.seq)]
            by' := if x.st = .preempted then none else x.by' }).journalMove q.queue q.seq 1 0 0
      else s.failPacket q 10

/-! ### Debug packets -/

/-- (R348) The fields of a debug word. -/
def dbMask (w : W64) : List Nat := (List.range 4).filter fun n => w.getLsbD (4 + n)
def dbOff (w : W64) : Nat := bitsAt w 32 21
def dbCount (w : W64) : Nat := bitsAt w 56 7

/-- (R348) A debug word with a reserved bit or OP, an OFFSET that is no multiple of 8, or an NDW that its OP does not take. -/
def debugBad (w : W64) : Bool :=
  let op := bitsAt w 0 4
  bitsAt w 18 14 != 0 || bitsAt w 53 3 != 0 || w.getLsbD 63 || dbOff w % 8 != 0 || op == 0 || 5 < op
    || (if op < 4 then dbCount w != 0 else dbCount w == 0 || 64 < dbCount w)

/-- (R341) The sections of a slot but for the header and the reserved regions: offset and size, and the size of a context's
part in a section that has one for each. -/
def slotSections : List (Nat × Nat × Option Nat) :=
  [(0x1000, 0x8000, some 0x2000), (0x9000, 0x20000, some 0x8000), (0x29000, 0x20000, some 0x8000), (0x49000, 0x8000, some 0x2000),
   (0x51000, 0xC000, none), (0x5D000, 0x2000, none), (0x5F000, 0x4000, none), (0x63000, 0x2000, none), (0x80000, 0x20000, none),
   (0x100000, 0x100000, none)]

/-- (R348) The section that holds a range whole. -/
def sectionOfRange (off n : Nat) : Option (Nat × Nat × Option Nat) :=
  slotSections.find? fun (o, k, _) => o ≤ off && off + n ≤ o + k

/-- (R348) The contexts whose state a range holds: those of a per-context section whose parts it meets, else all of the job. -/
def rangeCtxs (cs : List Nat) (off n : Nat) (sec : Nat × Nat × Option Nat) : List Nat :=
  match sec.2.2 with
  | some k => (List.range 4).filter fun c => off < sec.1 + k * (c + 1) && sec.1 + k * c < off + n
  | none => cs

/-- (R332, R348) Whether a doubleword of a slot is outside a job's share. -/
def Job.outside (j : Job) (off : Nat) : Bool :=
  if 0x100000 ≤ off then j.swcnt ≤ (off - 0x100000) / 4096
  else if 0x80000 ≤ off ∧ off < 0xA0000 then !j.accIn ((off - 0x80000) / 0x4000)
  else if 0x64A00 ≤ off ∧ off < 0x64C00 then !j.cmpIn ((off - 0x64A00) / 64)
  else if 0x63600 ≤ off ∧ off < 0x64A00 then !j.rqIn ((off - 0x63600) / 1280)
  else if 0x63000 ≤ off ∧ off < 0x63600 then !j.reelIn ((off - 0x63000) / 96)
  else if 0x5F000 ≤ off ∧ off < 0x63000 then !j.reelIn ((off - 0x5F000) / 1024)
  else if 0x5E800 ≤ off ∧ off < 0x5EC00 then !j.accIn ((off - 0x5E800) / 128)
  else if 0x5D000 ≤ off ∧ off < 0x5E000 then !j.accIn ((off - 0x5D000) / 512)
  else false

/-- (R348) Whether a range may be read or written: in one section, in the job's share, its contexts halted. -/
def State.rangeOk (s : State) (j : Job) (tile off n : Nat) : Bool :=
  match sectionOfRange off (8 * n) with
  | none => false
  | some sec =>
    let cs := rangeCtxs (j.ctxsOn tile) off (8 * n) sec
    cs.all (fun c => (j.ctxsOn tile).contains c && ((s.ctx ⟨tile, c⟩).dbgHalt || (s.ctx ⟨tile, c⟩).exit.isSome))
      && (List.range n).all fun i => !j.outside (off + 8 * i)

/-- (R341) The group of an image that holds an offset of its slot. -/
def Image.groupAt (im : Image) (j : Job) (cs : List Nat) (off : Nat) : Option Grp :=
  (im.groups j cs).find? fun g => (im.span cs g).1 ≤ off && off < (im.span cs g).1 + (im.span cs g).2

/-- (R348) The doubleword at an offset, in the form in which a save would write it; registers beyond a context's allotment
have no group and read zero. -/
def Image.dword (im : Image) (j : Job) (cs : List Nat) (off : Nat) : W64 :=
  match im.groupAt j cs off with
  | some g => BitVec.ofNat 64 (leNat (((im.groupBytes j cs g).drop (off - (im.span cs g).1)).take 8))
  | none => 0

/-- (R348) An image with the doubleword at an offset written, as a restore would read it. -/
def Image.putDword (im : Image) (j : Job) (cs : List Nat) (off : Nat) (v : W64) : Image :=
  match im.groupAt j cs off with
  | some g =>
    let bs := im.groupBytes j cs g
    let k := off - (im.span cs g).1
    im.putGroup j g (bs.take k ++ leBytes 8 v.toNat ++ bs.drop (k + 8))
  | none => im

/-- The image of a job's share of a tile as a debug packet sees it: as a save would write it, with the messages to other packages. -/
def State.debugImage (s : State) (j : Job) (tile : Nat) : Image :=
  { s.imageFor j tile with msgs := s.msgs.filter fun m => m.job == some j.id && m.who.tile == tile }

/-- (R186, R348) The blocking requests of a context as a debug packet has left them: one that it has changed is presented again, one that it
has dropped is gone. -/
def State.redoWaits (s : State) (c : Who) (new : List EvReq) : State :=
  let old := s.blockedOf c
  let gone := (old.filter fun r => !new.contains r).map (·.rid)
  (new.filter fun r => !old.contains r).foldl State.represent
    { s with
      evreqs := s.evreqs.filter fun r => !(r.who == c && r.kind.blocks && gone.contains r.rid)
      lines := s.lines.map fun (e : Nat × Line) => (e.1, { e.2 with waiters := e.2.waiters.filter fun w => !(w.1 == c && gone.contains w.2) }) }

/-- The values of a list in place of those with the same number, which are of one job: those that it lacks are gone. -/
def putBack {α : Type} (key : α → Nat) (mine : α → Bool) (new : List α) (l : List α) : List α :=
  l.filterMap fun x => if mine x then new.find? fun y => key y == key x else some x

/-- (R348) One doubleword of a tile's state written into the save slot. -/
def State.debugRead (s : State) (j : Job) (tile off : Nat) : State :=
  s.storePa (slotPa j.save (j.tiles.idxOf tile) + off)
    (leBytes 8 ((s.debugImage j tile).dword j (j.ctxsOn tile) off).toNat)

/-- (R348) One doubleword of a tile's state written, as a restore would write it. -/
def State.debugWrite (s : State) (j : Job) (tile off : Nat) (v : W64) : State :=
  if 0x100000 ≤ off then
    let loc := j.windowLoc tile + (off - 0x100000)
    { s with
      mem := Memory.writeLe s.mem loc 8 v.toNat
      poison := unpoison s.poison loc 8
      trail := untrail s.trail loc 8
      dirty := dirtied s.dirty loc 8 }
  else
    let cs := j.ctxsOn tile
    let im := s.debugImage j tile
    let im' := (im.putDword j cs off v).allotted im (s.used tile [j.id])
    let x := im'.tile
    let own (c : Nat) (y : Ctx) : Ctx :=
      { y.resumedPhase j.phase with
        withdrawn := (s.ctx ⟨tile, c⟩).withdrawn
        shadow := y.shadow.map fun h => { h with parity := ((s.ctx ⟨tile, c⟩).shadow.map (·.parity)).getD [] } }
    let mark (c : Ctx) : Ctx := match im.groupAt j cs off with
      | some (.g _ k) => c.mark k
      | some (.v _ k) => c.mark (8 + k)
      | some (.entry _) => c.mark 32
      | some (.bank _) => c.mark 33
      | some (.shadow _) => c.mark 34
      | some (.yarns _) => c.mark 35
      | _ => c
    let c := (rangeCtxs [] off 8 ((sectionOfRange off 8).getD (0, 0, none))).headD 4
    let s1 := { s.updTile tile fun t =>
        { t with
          ctxs := (t.ctxs.over (x.ctxs.map fun (e : Nat × Ctx) => (e.1, own e.1 e.2))).map fun (e : Nat × Ctx) => (e.1, if e.1 = c then mark e.2 else e.2)
          cells := t.cells.over x.cells, csum := t.csum.over x.csum, rsum := t.rsum.over x.rsum
          accs := t.accs.over x.accs
          mxq := putBack (·.id) (fun o => o.job == some j.id) x.mxAll t.mxq
          mxLate := putBack (·.id) (fun o => o.job == some j.id) x.mxAll t.mxLate
          reels := t.reels.over x.reels, rqs := t.rqs.over x.rqs, cmps := t.cmps.over x.cmps
          rots := putBack (·.2.2) (fun e => e.1 == j.id) x.rots t.rots
          wakeq := (t.wakeq.filter fun w => !j.mayPop w) ++ x.wakeq }.pullMx with
      msgs := putBack (·.id) (fun m => m.job == some j.id && m.who.tile == tile) im'.msgs s.msgs }
    (x.ctxs.filter fun (e : Nat × Ctx) => e.1 == c).foldl (fun (s : State) (e : Nat × Ctx) => s.redoWaits ⟨tile, e.1⟩ e.2.withdrawn) s1

/-- (R348, R351) What a debug packet does to a tile of a resident job. -/
def State.debugTile (s : State) (j : Job) (q : QPkt) (tile : Nat) : State :=
  let w := q.packet.body.getD 1 0
  let cs := ((dbMask w).filter (j.ctxsOn tile).contains).map fun c => (⟨tile, c⟩ : Who)
  let each (f : Ctx → Ctx) : State := cs.foldl (fun (s : State) c => s.updCtx c f) s
  let done (s : State) : State := s.journalMove q.queue q.seq 2 0 0
  let off := dbOff w
  match bitsAt w 0 4 with
  | 1 => done (each fun x => { x with dbgHalt := true, dbgStep := false })
  | 2 => done (each fun x => { x with dbgHalt := false, dbgStep := false, woken := s.unselected tile })
  | 3 =>
    let live := cs.filter fun c => (s.ctx c).exit.isNone
    if live.isEmpty then done s
    else
      let s1 := live.foldl (fun (s : State) c => s.updCtx c fun x => { x with dbgHalt := false, dbgStep := true }) s
      { s1 with steps := s1.steps ++ [({ queue := q.queue, seq := q.seq, job := j.id, left := live } : StepPkt)] }.journalMove q.queue q.seq 1 0 0
  | 4 =>
    if !s.rangeOk j tile off (dbCount w) then s.failPacket q 12
    else done ((List.range (dbCount w)).foldl (fun (s : State) i => s.debugRead j tile (off + 8 * i)) s)
  | _ =>
    if !s.rangeOk j tile off (dbCount w) then s.failPacket q 12
    else done ((List.range (dbCount w)).foldl (fun (s : State) i =>
      s.debugWrite j tile (off + 8 * i) (q.packet.body.getD (2 + i) 0)) s)

/-- (R348) A debug packet. -/
def State.startDebug (s : State) (q : QPkt) : State :=
  let w := q.packet.body.getD 0 0
  let d := q.packet.body.getD 1 0
  if jobWordBad w || debugBad d then s.failPacket q 12
  else match s.jobWord w with
    | none => s.failPacket q 3
    | some j => match j.phys (bitsAt d 8 2) (bitsAt d 10 4) (bitsAt d 14 4) with
      | some t => if j.debug && j.resident then s.debugTile j q t else s.failPacket q 12
      | none => s.failPacket q 12

end Sys2Proof.Machine
end

