-- ==== Sys2Proof/Machine/Host.lean ====
section
/-! DEFINITION. The tether transport (R387), the arrival of packets (R330), memory windows (R388), management operations
(R389), attestation and power (R393, R394), and the start of the package (R390 to R392). -/

namespace Sys2Proof.Machine

/-! ### The transport -/

/-- (R387) How far message number `a` is ahead of `b`, and whether it is older. -/
def seqGap (a b : Nat) : Nat := (a + (2 ^ 32 - b % 2 ^ 32)) % 2 ^ 32
def seqOlder (a b : Nat) : Bool := seqBefore (2 ^ 32) a b

/-- (R387) Whether ACK or SACK of a header covers a message. -/
def covers (h : MsgHdr) (seq : Nat) : Bool :=
  seqOlder seq h.ack || (seqGap seq (h.ack + 1) < 32 && h.sack.getLsbD (seqGap seq (h.ack + 1)))

/-- (R387) What a header acknowledges is no longer kept for resending. -/
def State.takeAck (s : State) (h : MsgHdr) : State :=
  { s with tether := { s.tether with unacked := s.tether.unacked.filter fun r => !covers h r.seq } }

/-- (R387) ACK of the device's messages: the lowest number of the peer that it has not received, at most `n` after `seq`. -/
def Tether.missing (t : Tether) : Nat → Nat → Nat
  | 0, seq => seq
  | n + 1, seq => if t.rxBuf.any fun e => e.1 == seq then t.missing n ((seq + 1) % 2 ^ 32) else seq
def Tether.ack (t : Tether) : Nat := t.missing t.rxBuf.length t.rxNext

/-- (R387) SACK of the device's messages. -/
def Tether.sack (t : Tether) : W32 :=
  BitVec.ofNat 32 ((List.range 32).foldl (fun n i => if t.rxBuf.any fun e => e.1 == (t.ack + 1 + i) % 2 ^ 32 then n + 2 ^ i else n) 0)

/-- (R387) A message with the header of the moment at which it is sent. -/
def State.headed (s : State) (r : Reply) : Reply :=
  { r with session := s.tether.session.getD 0, ack := s.tether.ack, sack := s.tether.sack, sent := s.cycle }

/-- (R387) A message of the device in the open session, with the next message number. -/
def State.reply1 (s : State) (kind re status : Nat) (words : List W64) (bytes : List Byte) : Reply :=
  s.headed { kind := kind, session := 0, seq := s.tether.txNext, ack := 0, sack := 0, sent := 0, re := re, status := status,
             words := words, bytes := bytes }

/-- (R387) A reply to a message of the open session: sent, kept until acknowledged, and stored for a duplicate of that message. -/
def State.sendReply (s : State) (re status : Nat) (words : List W64) (bytes : List Byte) : State :=
  let t := s.tether
  if t.session.isNone then s
  else
    let r := s.reply1 6 re status words bytes
    { s with
      tether := { t with
        txNext := (t.txNext + 1) % 2 ^ 32
        unacked := t.unacked ++ [r]
        stored := updWhere (fun (e : Nat × Option Reply) => e.1 == re) (fun e => (e.1, some r)) t.stored }
      hostOut := s.hostOut ++ [r] }

/-- (R387) An acknowledgement alone leaves. DESIGN CHOICE (log 22): it bears the number of the next message and takes none. -/
def State.sendAck (s : State) : State := { s with hostOut := s.hostOut ++ [s.reply1 7 0 0 [] []] }

/-- (R387) What has been received is acknowledged, by an acknowledgement alone where no reply left since `s`. -/
def State.acked (s t : State) : State := if t.hostOut.length = s.hostOut.length then t.sendAck else t

/-- (R387) A message of the device leaves once more, with a header of now. -/
def State.again (s : State) (r : Reply) : State :=
  let m := s.headed r
  let renew := updWhere (fun (x : Reply) => x.seq == r.seq) fun _ => m
  { s with tether := { s.tether with unacked := renew s.tether.unacked }, hostOut := s.hostOut ++ [m] }

/-- (R324) The reply that a replay filter stores for an atomic of the host, whose home holds its number. -/
def State.heldAtomic (s : State) (h : MsgHdr) (i : Instr) : Option W64 :=
  match i with
  | .windowAtomic _ _ port _ _ => match atomicOf port, s.filters.find? fun f => f.source == .host && f.seq == h.seq with
    | some (op, w), some f => some (lo64 (amoRec op w f.value.toNat).out)
    | _, _ => none
  | _ => none

/-- (R324, R387) A duplicate: answered with its stored reply, or acknowledged where the message had none. One that is older than
all stored is not applied: an atomic that its home's filter holds is answered from there, another message with "applied, no valid
result". -/
def State.duplicate (s : State) (h : MsgHdr) (i : Instr) : State :=
  match s.tether.stored.find? fun e => e.1 == h.seq with
  | some (_, some r) => s.again r
  | some (_, none) => s.sendAck
  | none => match s.heldAtomic h i with
    | some v => s.sendReply h.seq 0 [v] []
    | none => s.sendReply h.seq Config.appliedStatus [] []

/-- (R387) The message at its turn counts as received and applied. -/
def Tether.pass (t : Tether) (seq : Nat) : Tether :=
  { t with
    rxNext := (t.rxNext + 1) % 2 ^ 32
    rxBuf := t.rxBuf.filter fun e => e.1 != seq
    stored := (t.stored ++ [(seq, none)]).drop (t.stored.length + 1 - 64) }

/-- (R387) A message received and not yet to be applied. -/
def Tether.keep (t : Tether) (seq : Nat) (i : Instr) : Tether :=
  if t.rxBuf.any fun e => e.1 == seq then t else { t with rxBuf := t.rxBuf ++ [(seq, i)] }

/-- (R387, R390) A message of the host: it is applied once, in SEQ order, when it is its turn and `ready`; one ahead of its
turn is kept, and a duplicate is answered with its stored reply. `wait` is what it does until it is ready. Each is acknowledged. -/
def State.fromHost (s : State) (h : MsgHdr) (i : Instr) (ready : Bool) (wait apply : State → State) : State :=
  if s.power != .running || s.tether.session != some h.session then s
  else
    let s1 := s.takeAck h
    let t := s1.tether
    let kept (s : State) : State := { s with tether := s.tether.keep h.seq i }
    if h.seq = t.rxNext then
      s1.acked (if ready then apply { s1 with tether := t.pass h.seq } else kept (wait s1))
    else if seqOlder h.seq t.rxNext then s1.duplicate h i
    else s1.acked (kept s1)

/-- TETHER_SESSION_OPEN (R387, R390, R392): both sides' transport state starts anew. -/
def execTetherSessionOpen (h : MsgHdr) (rto : Nat) (s : State) : Host.Outcome State Fault Refusal :=
  let t := s.tether
  .next (if s.power != .running then s
    else if t.session == some h.session && seqOlder h.seq t.rxNext then s.duplicate h (.tetherSessionOpen h rto)
    else { s with
      tether := { Tether.init with
        session := some h.session
        rto := rto
        rxNext := (h.seq + 1) % 2 ^ 32
        stored := [(h.seq, none)] }
      filters := s.filters.filter fun (f : Applied) => decide (f.source ≠ AmoSource.host) }.sendReply h.seq 0 [] [])

/-- TETHER_ACK (R387): an acknowledgement alone. -/
def execTetherAck (h : MsgHdr) (s : State) : Host.Outcome State Fault Refusal :=
  .next (if s.power == .running && s.tether.session == some h.session then s.takeAck h else s)

/-- (R387) A message of the device that is neither acknowledged nor marked in SACK, and whose retransmission time has passed. -/
def State.overdue (s : State) (r : Reply) : Bool := s.power == .running && s.tether.rto < (s.cycle - r.sent).toNat

/-- TETHER_RETRANSMIT (R387): a message whose retransmission time has passed is sent again. -/
def execTetherRetransmit (seq : Nat) (s : State) : Host.Outcome State Fault Refusal :=
  .next (match s.tether.unacked.find? fun r => r.seq == seq && s.overdue r with
    | some r => s.again r
    | none => s)

/-! ### Queues -/

/-- (R330) A packet is accepted; one that its header refuses fails at once. -/
def State.acceptPacket (s : State) (q : QPkt) : State :=
  let s1 := s.journalAccept q.queue q.seq (BitVec.ofNat 8 q.packet.kind)
  let s2 := { s1 with qnext := s1.qnext.set q.queue (q.seq + 1) }
  match s2.headerBad q.packet with
  | some r => s2.failPacket q r
  | none => { s2 with qwait := s2.qwait ++ [q] }

/-- (R330) The packets that came ahead of their SEQ and are now due, at most `n`, while the journal has room. -/
def State.acceptHeld (s : State) (queue : Nat) : Nat → State
  | 0 => s
  | n + 1 =>
    match s.qhold.find? fun q => q.queue == queue && some q.seq == s.qnext.get? queue with
    | some q => if s.journalRoom queue then ({ s with qhold := s.qhold.erase q }.acceptPacket q).acceptHeld queue n else s
    | none => s

/-- (R330) A packet reaches its queue: it is accepted in SEQ order. -/
def State.queuePacket (s : State) (q : QPkt) : State :=
  match s.qnext.get? q.queue with
  | none => s.acceptPacket q
  | some n =>
    if q.seq = n then (s.acceptPacket q).acceptHeld q.queue s.qhold.length
    else if seqOlder q.seq.toNat n.toNat then s
    else { s with qhold := s.qhold ++ [q] }

/-- (R330) The journal entries of a queue before a packet's own. -/
def State.earlier (s : State) (q : QPkt) : List JEntry :=
  (s.journal.filter fun e => e.queue == q.queue).takeWhile fun e => !(e.seq == q.seq && !finalSt e.st)

/-- (R330) Whether a queue's first waiting packet can start. -/
def State.canStart (s : State) (q : QPkt) : Bool :=
  match q.packet.kind with
  | 3 => (s.earlier q).all fun e => finalSt e.st
  | 5 => (s.earlier q).all fun e => finalSt e.st || !(e.kind == 1 || e.kind == 2 || e.kind == 8)
  | _ => true

/-- (R330) A packet that waits and can start: the first of its queue. -/
def State.startable (s : State) : Option QPkt :=
  s.qwait.find? fun q => (s.qwait.find? fun r => r.queue == q.queue) == some q && s.canStart q

/-- (R365, R367) A journal read packet starts: the entries are sampled, and the reply carries them. -/
def State.startJournal (s : State) (q : QPkt) : State :=
  let w := q.packet.body.getD 0 0
  if bitsAt w 48 16 ≠ 0 ∨ bitsAt w 38 2 ≠ 0 ∨ bitsAt w 40 8 = 0 then s.failPacket q 1
  else
    let s1 := s.journalMove q.queue q.seq 1 0 0
    (s1.sendReply q.msg 0 (s1.readJournal (bitsAt w 32 6) (bitsAt w 40 8) (w.setWidth 32)) []).journalMove q.queue q.seq 2 0 0

/-- (R329) A packet starts. -/
def State.startPacket (s : State) (q : QPkt) : State :=
  match q.packet.kind with
  | 1 => s.startLaunch q
  | 2 => s.startGraph q
  | 3 => s.journalMove q.queue q.seq 2 0 0
  | 4 => s.startLoad q
  | 5 => s.startUnload q
  | 6 | 7 => s.startDue q
  | 8 => s.startRestore q
  | 9 => s.startJournal q
  | 10 => s.startPreEmpt q
  | 11 => s.startResume q
  | _ => s.startDebug q

/-- (R330) The packets that can start do, at most `n`. -/
def State.pumpQueues : Nat → State → State
  | 0, s => s
  | n + 1, s => match s.startable with
    | some q => State.pumpQueues n ({ s with qwait := s.qwait.erase q }.startPacket q)
    | none => s

/-- (R330, R365, R387) A command packet comes in: it is taken up when its queue's journal has room. -/
def State.packetIn (s : State) (h : MsgHdr) (p : Packet) (i : Instr) : State :=
  s.fromHost h i (s.journalRoom p.queue) id fun s =>
    let s1 := s.queuePacket { queue := p.queue, seq := p.seq, packet := p, msg := h.seq }
    State.pumpQueues s1.qwait.length s1

/-- LAUNCH (R333, R334). -/
def execLaunch (h : MsgHdr) (p : Packet) (s : State) : Host.Outcome State Fault Refusal := .next (s.packetIn h p (.launch h p))

/-- GRAPH_ENTRY (R335). -/
def execGraphEntry (h : MsgHdr) (p : Packet) (s : State) : Host.Outcome State Fault Refusal := .next (s.packetIn h p (.graphEntry h p))

/-- QUEUE_BARRIER (R330). -/
def execQueueBarrier (h : MsgHdr) (p : Packet) (s : State) : Host.Outcome State Fault Refusal := .next (s.packetIn h p (.queueBarrier h p))

/-- LOAD_OBJECT (R375). -/
def execLoadObject (h : MsgHdr) (p : Packet) (s : State) : Host.Outcome State Fault Refusal := .next (s.packetIn h p (.loadObject h p))

/-- UNLOAD (R376). -/
def execUnload (h : MsgHdr) (p : Packet) (s : State) : Host.Outcome State Fault Refusal := .next (s.packetIn h p (.unload h p))

/-- HOT_REPLACE (R346). -/
def execHotReplace (h : MsgHdr) (p : Packet) (s : State) : Host.Outcome State Fault Refusal := .next (s.packetIn h p (.hotReplace h p))

/-- SNAPSHOT (R345). -/
def execSnapshot (h : MsgHdr) (p : Packet) (s : State) : Host.Outcome State Fault Refusal := .next (s.packetIn h p (.snapshot h p))

/-- RESTORE (R345). -/
def execRestore (h : MsgHdr) (p : Packet) (s : State) : Host.Outcome State Fault Refusal := .next (s.packetIn h p (.restore h p))

/-- JOURNAL_READ (R367). -/
def execJournalRead (h : MsgHdr) (p : Packet) (s : State) : Host.Outcome State Fault Refusal := .next (s.packetIn h p (.journalRead h p))

/-- PRE_EMPT (R338). -/
def execPreEmpt (h : MsgHdr) (p : Packet) (s : State) : Host.Outcome State Fault Refusal := .next (s.packetIn h p (.preEmpt h p))

/-- RESUME (R339). -/
def execResume (h : MsgHdr) (p : Packet) (s : State) : Host.Outcome State Fault Refusal := .next (s.packetIn h p (.resume h p))

/-- DEBUG_HALT (R348). -/
def execDebugHalt (h : MsgHdr) (p : Packet) (s : State) : Host.Outcome State Fault Refusal := .next (s.packetIn h p (.debugHalt h p))

/-- DEBUG_RELEASE (R348). -/
def execDebugRelease (h : MsgHdr) (p : Packet) (s : State) : Host.Outcome State Fault Refusal := .next (s.packetIn h p (.debugRelease h p))

/-- DEBUG_STEP (R351). -/
def execDebugStep (h : MsgHdr) (p : Packet) (s : State) : Host.Outcome State Fault Refusal := .next (s.packetIn h p (.debugStep h p))

/-- DEBUG_READ_STATE (R348). -/
def execDebugReadState (h : MsgHdr) (p : Packet) (s : State) : Host.Outcome State Fault Refusal := .next (s.packetIn h p (.debugReadState h p))

/-- DEBUG_WRITE_STATE (R348). -/
def execDebugWriteState (h : MsgHdr) (p : Packet) (s : State) : Host.Outcome State Fault Refusal := .next (s.packetIn h p (.debugWriteState h p))

/-! ### Windows -/

/-- (R388) The storage of `n` bytes that a window names; none where status 3 answers. -/
def winLocs (a : WinAddr) (n : Nat) : Option (List Nat) :=
  match a with
  | .tile die y x off =>
    if die < 4 ∧ y < 12 ∧ x < 12 ∧ off + n ≤ 2 ^ 20 then some ((List.range n).map fun i => sramLoc (tileAt die y x) (off + i)) else none
  | .dram pa pl =>
    let (p, h, st) := pl.getD (0, 0, 0)
    if 3 ≤ p ∨ 4 ≤ h ∨ (p = 2 ∧ 3 ≤ st) ∨ dramTop < pa + n ∨ 2 ^ 24 ≤ (placeOf p h st ((pa + n - 1) / 4096)).2 then none
    else some ((List.range n).map fun i => placeLoc p h st (pa + i))

/-- (R148, R388) The home switches of `n` bytes that a window names. -/
def winHomes (a : WinAddr) (n : Nat) : List Nat :=
  let pa := match a with
    | .tile _ _ _ _ => 0
    | .dram pa _ => pa
  homesOf ((((winLocs a n).getD []).zipIdx).map fun (l : Nat × Nat) => (l.1, pa + l.2))

/-- (R10, R388, R392) The I/O die of the host port by which a message comes in: host port 0 in minimal mode. -/
def State.windowIo (s : State) (h : MsgHdr) : IoDie := hostIo (if s.minimal then 0 else Config.hostPort h.seq % 2)

/-- (R10, R12, R327) The links between the host port of a message and home switches. -/
def State.windowLinks (s : State) (h : MsgHdr) (homes : List Nat) : List Nat := homes.flatMap (ioLinks (s.windowIo h))

/-- (R388, R392) What a window access reaches: nothing in minimal mode. -/
def State.windowLocs (s : State) (locs : Option (List Nat)) : Option (List Nat) := if s.minimal then none else locs

/-- (R161, R328, R363) Whether a window access can perform: none of its lines gathers, no link on its way retrains, and no request has
entered a home switch by a higher port in this tile cycle. -/
def State.windowReady (s : State) (h : MsgHdr) (ls homes : List Nat) : Bool :=
  (s.gathering ls).isEmpty && !s.heldOn (s.windowLinks h homes) && homes.all fun u => s.portOpen (ioPort (s.windowIo h) u) u

/-- (R161, R364, R388) A window access: lines that it touches and that gather are recalled and hold it, and in minimal mode it is
answered with status 3. DESIGN CHOICE (log 22): one whose way is down is answered with a status of its own. -/
def State.window (s : State) (h : MsgHdr) (i : Instr) (locs : Option (List Nat)) (homes : List Nat) (go : State → List Nat → State) : State :=
  let ls := (s.windowLocs locs).getD []
  let hs := if (s.windowLocs locs).isSome then homes else []
  s.fromHost h i (s.windowReady h ls hs) (fun s => s.holdOn (.port h.seq) (s.gathering ls)) fun s =>
    match s.windowLocs locs with
    | none => s.sendReply h.seq 3 [] []
    | some ls =>
      let s1 := s.unhold (.port h.seq)
      if (s.downOn (s.windowLinks h hs)).isSome then s1.sendReply h.seq Config.linkStatus [] []
      else go (hs.foldl (fun (s : State) u => s.notePort (ioPort (s.windowIo h) u) u) s1) ls

/-- (R360, R362) The lines that a window reads whole and whose trail code no longer fits. -/
def State.badTrails (s : State) (ls : List Nat) : List Nat := (wholeLines ls).filter s.trailBad

/-- WINDOW_READ (R388). -/
def execWindowRead (h : MsgHdr) (a : WinAddr) (len : Nat) (s : State) : Host.Outcome State Fault Refusal :=
  .next (s.window h (.windowRead h a len) (if len = 0 ∨ 4096 < len then none else winLocs a len) (winHomes a len) fun s ls =>
    let bad := s.badTrails ls
    if s.poisonAt ls then (s.demand ls).sendReply h.seq 1 [] []
    else (bad.foldl (fun (s : State) l => s.logFw 3 l) (s.demand ls)).sendReply h.seq (if bad.isEmpty then 0 else 2) [] (ls.map (Memory.read s.mem)))

/-- WINDOW_WRITE (R388). -/
def execWindowWrite (h : MsgHdr) (a : WinAddr) (data : List Byte) (s : State) : Host.Outcome State Fault Refusal :=
  .next (s.window h (.windowWrite h a data) (if data.isEmpty || 4096 < data.length then none else winLocs a data.length)
    (winHomes a data.length) fun s ls => ((s.demand ls).copyStore (ls.zip data)).sendReply h.seq 0 [] [])

/-- (R157, R388) The storage of a window atomic of `n` bytes; none where it is misaligned. -/
def atomicLocs (a : WinAddr) (n : Nat) : Option (List Nat) :=
  (winLocs a n).bind fun ls => if ls.headD 0 % n = 0 then some ls else none

/-- WINDOW_ATOMIC (R388): one form of R157, named by its memb port, with the operand x and the expected value y. The replay
filter of its home passes it (R324). -/
def execWindowAtomic (h : MsgHdr) (a : WinAddr) (port : Nat) (x y : W64) (s : State) : Host.Outcome State Fault Refusal :=
  .next (match atomicOf port with
    | some (op, w) => s.window h (.windowAtomic h a port x y) (atomicLocs a (if w then 4 else 8)) (winHomes a (if w then 4 else 8)) fun s ls =>
        let home := homeOf (ls.headD 0)
        match s.filtered .host home h.seq with
        | .held v => s.sendReply h.seq 0 [lo64 (amoRec op w v.toNat).out] []
        | .tooOld => s.sendReply h.seq Config.appliedStatus [] []
        | .fresh =>
          if s.poisonAt ls then s.sendReply h.seq 1 [] []
          else
            let r := s.applyAmo op w (ls.headD 0) x.toNat y.toNat
            (r.1.record .host home h.seq (BitVec.ofNat 64 r.2)).sendReply h.seq 0 [lo64 (amoRec op w r.2).out] []
    | none => s.window h (.windowAtomic h a port x y) none [] fun s _ => s)

/-! ### Management operations -/

/-- (R389, R392) A management operation: status 3 for an operand out of range, or outside what minimal mode serves. -/
def State.manage (s : State) (h : MsgHdr) (i : Instr) (serves ok : Bool) (go : State → State) : State :=
  s.fromHost h i true id fun s =>
    if ok && (serves || !s.minimal) then (go s).sendReply h.seq 0 [] [] else s.sendReply h.seq 3 [] []

/-- SET_ADDRESS_SPACE (R389, operation 1): used after an invalidation of the identifier. -/
def execSetAddressSpace (h : MsgHdr) (asid root : Nat) (s : State) : Host.Outcome State Fault Refusal :=
  .next (s.manage h (.setAddressSpace h asid root) false (asid < 65536 && root % 8192 == 0 && root + 4096 ≤ dramTop)
    fun s => { s with newRoots := s.newRoots.set asid root })

/-- (R147, R389) What an invalidation of pages of an identifier takes out of a TLB: also entries with G = 1, which match every
identifier (R146). -/
def TlbEnt.meets (e : TlbEnt) (asid va count : Nat) : Bool :=
  e.names asid && e.page * 2 ^ pageBits e.level < va + count * 2 ^ 19 && va < (e.page + 1) * 2 ^ pageBits e.level

/-- (R147) TLB and walk-cache entries taken out. -/
def State.dropEntries (s : State) (tlb : TlbEnt → Bool) (walk : WalkEnt → Bool) : State :=
  { s with
    tlbs := s.tlbs.map fun (t : Nat × List TlbEnt) => (t.1, t.2.filter fun e => !tlb e)
    utlbs := s.utlbs.map fun (t : Nat × List TlbEnt) => (t.1, t.2.filter fun e => !tlb e)
    walks := s.walks.map fun (t : Nat × List WalkEnt) => (t.1, t.2.filter fun e => !walk e) }

/-- (R389) The new roots of the identifiers that satisfy `p` come into use. -/
def State.useRoots (s : State) (p : Nat → Bool) : State :=
  { s with
    roots := s.roots.over (s.newRoots.only p)
    newRoots := s.newRoots.only fun n => !p n }

/-- INVALIDATE (R147, R389, operation 2). -/
def execInvalidate (h : MsgHdr) (scope : InvScope) (s : State) : Host.Outcome State Fault Refusal :=
  .next (match scope with
    | .everything => s.manage h (.invalidate h scope) false true fun s =>
        (s.dropEntries (fun _ => true) fun _ => true).useRoots fun _ => true
    | .pages asid va count => s.manage h (.invalidate h scope) false (asid < 65536 && va < 2 ^ 48) fun s =>
        (s.dropEntries (fun e => e.meets asid va count) fun w =>
          w.asid == asid && w.index * 2 ^ 29 < va + count * 2 ^ 19 && va < (w.index + 1) * 2 ^ 29).useRoots fun n => n == asid)

/-- ADD_SNAPSHOT_POOL (R142, R389, operation 3). -/
def execAddSnapshotPool (h : MsgHdr) (pages : List Nat) (s : State) : Host.Outcome State Fault Refusal :=
  .next (s.manage h (.addSnapshotPool h pages) false (pages.all fun p => p % 2 ^ 19 == 0 && p + 2 ^ 19 ≤ dramTop)
    fun s => { s with pool := s.pool ++ pages })

/-- ENROL_KEY (R374, R389, operation 4): at most 16 keys. -/
def execEnrolKey (h : MsgHdr) (keyid : Nat) (key : List Byte) (s : State) : Host.Outcome State Fault Refusal :=
  .next (s.manage h (.enrolKey h keyid key) true
    (keyid < 2 ^ 32 && key.length == 97 && ((s.keys.get? keyid).isSome || s.keys.length < 16))
    fun s => { s with keys := s.keys.set keyid key })

/-- REVOKE_KEY (R389, operation 5). -/
def execRevokeKey (h : MsgHdr) (keyid : Nat) (s : State) : Host.Outcome State Fault Refusal :=
  .next (s.manage h (.revokeKey h keyid) true (keyid < 2 ^ 32) fun s => { s with keys := s.keys.erase keyid })

/-- (R124, R389) The counters of die and link scope. -/
def dieCounter (n : Nat) : Bool := (2 ≤ n && n ≤ 4) || (6 ≤ n && n ≤ 8)

/-- DIE_COUNTER_CONTROL (R389, operation 6): zeroing comes first. -/
def execDieCounterControl (h : MsgHdr) (die mask : Nat) (s : State) : Host.Outcome State Fault Refusal :=
  .next (s.manage h (.dieCounterControl h die mask) false (die < 4 && mask < 8 && mask / 2 != 3) fun s =>
    let s1 := if mask.testBit 0 then { s with dctrs := s.dctrs.only fun k => !(k / 16 == die && dieCounter (k % 16)) } else s
    if mask.testBit 1 then { s1 with dfrozen := insertNat die s1.dfrozen }
    else if mask.testBit 2 then { s1 with dfrozen := s1.dfrozen.filter (· != die) } else s1)

/-- PREFETCH_ENABLE (R149, R389, operation 7). -/
def execPrefetchEnable (h : MsgHdr) (die : Nat) (on : Bool) (s : State) : Host.Outcome State Fault Refusal :=
  .next (s.manage h (.prefetchEnable h die on) false (die < 4) fun s =>
    { s with prefetch := if on then insertNat die s.prefetch else s.prefetch.filter (· != die) })

/-- LINK_ENABLE (R364, R389, operation 8): also a mesh link, by the model's own number (log 22). -/
def execLinkEnable (h : MsgHdr) (link : Nat) (s : State) : Host.Outcome State Fault Refusal :=
  .next (s.manage h (.linkEnable h link) false (isLink link) fun s =>
    if s.link link == .down then { s with links := s.links.erase link } else s)

/-- SET_POWER_LIMIT (R389, operation 9; R394). -/
def execSetPowerLimit (h : MsgHdr) (watts : Nat) (s : State) : Host.Outcome State Fault Refusal :=
  .next (s.manage h (.setPowerLimit h watts) false (1400 ≤ watts && watts ≤ 2800) fun s => { s with limit := watts })

/-- READ_TELEMETRY (R389, operation 10; R386, R394): throttled cycles, dropped frames, and what the sensors give. -/
def execReadTelemetry (h : MsgHdr) (s : State) : Host.Outcome State Fault Refusal :=
  .next (s.fromHost h (.readTelemetry h) true id fun s =>
    (s.sendReply h.seq 0 (s.throttled :: s.dropped :: Config.telemetry s.frees) []).takeFree)

/-- (R393) The fields of an attestation reply before its signature. -/
def State.attested (s : State) (nonce : List Byte) : List Byte :=
  nonce ++ sha384 s.firmware ++ leBytes 8 s.bootcause.toNat ++ s.keys.flatMap (fun (e : Nat × List Byte) => leBytes 4 e.1)
    ++ s.objs.flatMap fun o => leBytes 2 o.ref ++ sha384 o.bytes

/-- ATTESTATION (R389, operation 11; R393). -/
def execAttestation (h : MsgHdr) (nonce : List Byte) (s : State) : Host.Outcome State Fault Refusal :=
  .next (s.fromHost h (.attestation h nonce) true id fun s =>
    if s.minimal || nonce.length != 48 then s.sendReply h.seq 3 [] []
    else (s.sendReply h.seq 0 []
      (s.attested nonce ++ ecdsaSign Config.deviceKey (Config.signNonce s.frees) (s.attested nonce))).takeFree)

/-- STAGE_FIRMWARE (R389, operation 12). -/
def execStageFirmware (h : MsgHdr) (off : Nat) (data : List Byte) (s : State) : Host.Outcome State Fault Refusal :=
  .next (s.manage h (.stageFirmware h off data) true (!data.isEmpty && data.length ≤ 8000 && off + data.length ≤ 2 ^ 24)
    fun s => { s with staging := putRange s.staging off data.length ((List.range data.length).zip data) })

/-- (R389, R390) The staged bytes of a length, and whether their signature holds. -/
def State.staged? (s : State) (len : Nat) : List Byte := (List.range len).map fun i => s.staging.get 0 i
def imageSigned (img : List Byte) : Bool :=
  sha384 Config.firmwareKey == Config.fusedDigest && ecdsaVerify Config.firmwareKey (img.take (img.length - 96)) (img.drop (img.length - 96))

/-- COMMIT_FIRMWARE (R389, operation 13): status 4 where the signature fails. -/
def execCommitFirmware (h : MsgHdr) (len : Nat) (s : State) : Host.Outcome State Fault Refusal :=
  .next (s.fromHost h (.commitFirmware h len) true id fun s =>
    if len = 0 ∨ 2 ^ 24 < len then s.sendReply h.seq 3 [] []
    else if !imageSigned (s.staged? len) then s.sendReply h.seq 4 [] []
    else { s with nextFw := s.staged? len }.sendReply h.seq 0 [] [])

/-! ### Start-up and power -/

/-- (R391) BOOTCAUSE. -/
def bootCause (fails cause : Nat) (min : Bool) : W64 :=
  BitVec.ofNat 64 (Nat.min fails 255 * 256 + cause * 16 + if min then 1 else 0)

/-- (R392) Whether the next start enters minimal mode. -/
def State.minNext (s : State) : Bool := 3 ≤ s.fails

/-- (R390, R392, R395) What a package reset keeps: the keys, the count of failed starts, the firmware that starts next, the
management log, and what is outside the package. A start in minimal mode runs the fallback firmware. -/
def State.restart (s : State) : State :=
  { State.reset with
    keys := s.keys, fails := s.fails, firmware := if s.minNext then Config.fallback else s.nextFw, nextFw := s.nextFw
    fwlog := s.fwlog, hostOut := s.hostOut
    peerOut := s.peerOut, fresh := s.fresh, frees := s.frees, sched := s.sched, held := s.held }

/-- (R391) CAUSE as the last start left it: 0 after one that succeeded. -/
def State.lastCause (s : State) : Nat := if s.power = .running then 0 else bitsAt s.bootcause 4 4

/-- (R390, R391, R395) A start fails with a cause: the count goes up, and the package will reset itself. -/
def State.failStart (s : State) (cause : Nat) : State :=
  { s with bootcause := bootCause s.fails cause s.minNext, fails := s.fails + 1, power := .failed }

/-- (R11, R390) The 60 s of a start, in cycles. -/
def startCycles : Nat := 72000000000

/-- (R390, R392) Whether a start's firmware passes boot ROM: the fallback firmware always. -/
def State.bootable (s : State) : Bool := s.minNext || imageSigned s.nextFw

/-- PACKAGE_RESET (R390 to R392): the package starts, and the start succeeds, fails, or is still under way when its time is out.
Firmware whose signature fails is CAUSE 1, whatever follows; firmware that cannot be read is CAUSE 2. -/
def execPackageReset (o : StartOutcome) (s : State) : Host.Outcome State Fault Refusal :=
  .next (match o with
    | .ok =>
      if s.bootable then { s.restart with bootcause := bootCause s.fails s.lastCause s.minNext, fails := 0 }
      else s.restart.failStart 1
    | .fail c =>
      if c = 0 ∨ 6 < c.toNat ∨ (c.toNat ≤ 2 ∧ s.minNext) ∨ (c = 1 ∧ s.bootable) then s
      else if c ≠ 2 ∧ !s.bootable then s.restart.failStart 1
      else if c = 6 then
        { s.restart with bootcause := bootCause s.fails s.lastCause s.minNext, power := .starting startCycles }
      else s.restart.failStart c.toNat)

/-- START_TIMEOUT (R390): the firmware has not opened the host ports within 60 s. -/
def execStartTimeout (s : State) : Host.Outcome State Fault Refusal :=
  .next (if s.power = .starting 0 then s.failStart 6 else s)

/-- THERMAL_SHUTDOWN (R394): power is removed, and the next start reports CAUSE 7. -/
def execThermalShutdown (s : State) : Host.Outcome State Fault Refusal :=
  .next { s with
    power := .off, agenda := []
    bootcause := (s.bootcause &&& ~~~0xF0#64) ||| 0x70 }

/-- POWER_THROTTLE (R394): a stop of whole cycles, in which CYCLE does not count. -/
def execPowerThrottle (cycles : Nat) (s : State) : Host.Outcome State Fault Refusal :=
  .next { s with throttled := s.throttled + BitVec.ofNat 64 cycles }

/-- DROPPED_FRAME (R386). -/
def execDroppedFrame (s : State) : Host.Outcome State Fault Refusal := .next { s with dropped := s.dropped + 1 }

end Sys2Proof.Machine
end

