-- ==== Sys2Proof/Machine/Issue.lean ====
section
/-! DEFINITION. A word as it issues (R32 to R39, R53 to R58, R63, R358, R385), the counts and landings of a cycle (R28, R53, R54,
R56, R93, R108), and the delivery of a fault after start (R353). -/

namespace Sys2Proof.Machine

/-! ### The triggers of a word -/

/-- (R36, R42) The triggers of the moves that perform, in slot order, with their operands. -/
def startsOf (t : Tile) (x : Ctx) (c : Who) (ms : List MoveAt) : List (Trig × Instr) :=
  ms.filterMap fun m => match m.dst with
    | .port u p =>
      if p.toNat < 3 then none
      else
        let v := moveValue t x ms m
        (opOf u.toNat p.toNat v).map fun i => (({ who := c, word := x.pc, slot := m.slot, t := v, again := false, late := false } : Trig), i)
    | _ => none

/-- (R36) The writes of the moves to registers, flags and operand ports, in slot order: values read from `x`, written to `y`. -/
def writesOf (t : Tile) (x : Ctx) (ms : List MoveAt) (y : Ctx) : Ctx :=
  ms.foldl (fun y m => y.writeDest m.dst (moveValue t x ms m)) y

/-- (R36, R54) The queues of a context popped. -/
def Ctx.popAll (y : Ctx) (qs : List Nat) : Ctx :=
  y.updBank fun b => qs.foldl (fun b q => if 32 ≤ q then b else b.setQueue q (b.queue q).tail) b

/-- (R306) The receive queues of a tile popped. -/
def Tile.popRqs (t : Tile) (qs : List Nat) : Tile :=
  qs.foldl (fun t q => if q < 32 then t else
    let r := t.rq (q - 32)
    t.setRq (q - 32) { r with entries := r.entries.tail }) t

/-- (R63) The read marks that reads of `out` set. -/
def markReads (x : Ctx) (ms : List MoveAt) (y : Ctx) : Ctx :=
  ms.foldl (fun y m => match m.res? with
    | some (u, 0) => if x.locked u then y else y.updBank fun b => { b with marks := setBit b.marks u true }
    | _ => y) y

/-! ### Whether a trigger can proceed -/

/-- How a trigger of mema or memb stands to the order of the context's accesses (R170) and to R48. -/
inductive MemRole where
  /-- a local load, push or pop -/
  | load
  /-- a local store form, which stands outside R48 in its tile -/
  | store
  /-- a form that stays outstanding -/
  | queued
  | own
  | other
  deriving DecidableEq, Repr

/-- (R47, R48) The role of a trigger. -/
def memRole (i : Instr) : MemRole :=
  match i with
  | .localLoad _ _ | .push | .pop => .load
  | .store _ _ => .store
  | .own => .own
  | .touch | .pref | .lea | .pset | .pinc | .fence | .drain => .other
  | _ => .queued

/-- (R48) The queued operations of a context that are outstanding in a memory unit. -/
def State.outstanding (s : State) (c : Who) (u : Nat) : Nat :=
  (s.ops.filter fun o => o.who == c && o.job == (s.ctx c).job && o.unit == u && (match o.kind with
    | .touch | .fence _ => false
    | _ => true)).length

/-- (R114) Whether a trigger names a local address. A cross-package atomic does not (R325). -/
def State.localAt (s : State) (c : Who) (u : Nat) (i : Instr) (t : W64) : Bool :=
  match memRole i with
  | .load => true
  | .queued => s.isLocal c t && !((delivery i == .ldq) && (match i with
      | .ldq _ | .ldqNf _ | .ldF | .ldFNf | .ldS | .ldSNf => false
      | _ => (lo64 ((s.ctx c).bank.port u 2)).getLsbD 8))
  | _ => s.isLocal c t

/-- (R48, R164) How many of the places of a memory unit triggers of a word take: the queued forms, and stores that leave the tile. -/
def State.claimed (s : State) (c : Who) (u : Nat) (es : List (Trig × Instr)) : Nat :=
  (es.filter fun x => unitOf x.2 == u && (memRole x.2 == .queued || memRole x.2 == .store && !s.localAt c u x.2 (lo64 x.1.t))).length

/-- Whether the trigger waits for a queued capacity (R48). -/
def State.atCapacity (s : State) (c : Who) (earlier : List (Trig × Instr)) (e : Trig × Instr) : Bool :=
  let u := unitOf e.2
  (u == 5 || u == 6) && (match memRole e.2 with
    | .queued => 32 ≤ s.outstanding c u + s.claimed c u earlier
    | .store => !s.localAt c u e.2 (lo64 e.1.t) && 32 ≤ s.outstanding c u + s.claimed c u earlier
    | _ => false)

/-- (R54) Whether a trigger delivers a result of fixed latency or of a divide. -/
def deliversFixed (i : Instr) : Bool :=
  match delivery i with
  | .fixed _ | .div _ => true
  | _ => false

/-- (R54, R58) Whether a unit of fixed latency has no room for the trigger, or is held by a divide. -/
def Ctx.unitFull (x : Ctx) (earlier : List (Trig × Instr)) (e : Trig × Instr) : Bool :=
  let u := unitOf e.2
  if x.locked u then
    deliversFixed e.2 && 8 ≤ x.bank.held u + (earlier.filter fun y => unitOf y.2 == u && deliversFixed y.2).length
  else x.bank.divHolds u

/-- (R170) Whether a trigger of a memory unit waits for what its context acquires: each but the pointer forms and pref. -/
def acquires (i : Instr) : Bool :=
  match i with
  | .pref | .lea | .pset | .pinc => false
  | _ => true

/-- (R165, R170) Whether a trigger of a memory unit must wait. -/
def State.localWaits (s : State) (c : Who) (e : Trig × Instr) : Bool :=
  let u := unitOf e.2
  (u == 5 || u == 6) && (acquires e.2 && s.acquiring c || match memRole e.2 with
    | .load => s.gated c
    | .store | .queued => s.localAt c u e.2 (lo64 e.1.t) && s.gated c
    | .own => (lo64 e.1.t).toNat < 1024 &&
        (let sw := ((s.jobFor c).swbase + (lo64 e.1.t).toNat % 256) % 256
         (s.tile c.tile).owner.get 0 sw != 0 && s.swatchBusy c.tile sw)
    | .other => false)

/-- (R248, R250) The accumulator of a matrix queue trigger, and whether it writes it; `shape` is the descriptor in force. -/
def mxTarget (i : Instr) (t : W64) (shape : W64) : Option (Nat × Bool) :=
  match i with
  | .mma | .mmz | .mrun => some (shAcc shape, true)
  | .mresume => some (pgAcc t, true)
  | .mclear | .mfill => some (awAcc t, true)
  | .mdrain | .mrd => some (awAcc t, false)
  | _ => none

/-- (R37, R248) The shape descriptor that a trigger finds after earlier ones of its word. -/
def shapeAfter (b : Bank) (earlier : List (Trig × Instr)) : W64 :=
  earlier.foldl (fun w x => if x.2 == .shape then lo64 x.1.t else w) b.mxShape

/-- (R37, R248) The accumulators that triggers of a word name one after another, each under the shape descriptor that it finds. -/
def mxTargets : W64 → List (Trig × Instr) → List (Nat × Bool)
  | _, [] => []
  | w, e :: rest =>
    (mxTarget e.2 (lo64 e.1.t) w).toList ++ mxTargets (if e.2 == .shape then lo64 e.1.t else w) rest

/-- (R250) Whether an earlier trigger of its word makes the accumulator of a matrix queue trigger Busy. -/
def mxBehind (b : Bank) (earlier : List (Trig × Instr)) (e : Trig × Instr) : Bool :=
  match mxTarget e.2 (lo64 e.1.t) (shapeAfter b earlier) with
  | none => false
  | some (m, _) => (mxTargets b.mxShape earlier).contains (m, true)

/-- (R250, R251) Whether a matrix queue trigger waits: its accumulator is Busy, or an earlier trigger of the word makes it so, or
the queue is full. -/
def State.mxWaits (s : State) (c : Who) (earlier : List (Trig × Instr)) (e : Trig × Instr) : Bool :=
  let t := s.tile c.tile
  let b := (s.ctx c).bank
  match mxTarget e.2 (lo64 e.1.t) (shapeAfter b earlier) with
  | none => false
  | some (m, _) => t.accBusy m || 16 ≤ t.mxq.length + (mxTargets b.mxShape earlier).length || mxBehind b earlier e

/-- (R269) Whether the yarn engine's queue is full. -/
def State.sxWaits (s : State) (c : Who) (earlier : List (Trig × Instr)) (e : Trig × Instr) : Bool :=
  unitOf e.2 == 11 && 16 ≤ (s.tile c.tile).sxq.length + (earlier.filter fun x => unitOf x.2 == 11).length

/-- (R293, R296) What the earlier triggers of a word leave to a copy request: the length of the queue, the size of each reel, and the
slots of it that requests take, less those that are released. A push that stands earlier has been accepted, a try where it finds
room. -/
structure Ahead where
  queue : Nat
  size : Nat → Nat
  used : Nat → Int

/-- (R293) Whether a request of a reel finds room. -/
def Ahead.room (a : Ahead) (r : Nat) : Bool := a.queue < 64 && a.used r < a.size r

/-- (R293, R296) As `Ahead`, after one more trigger. -/
def Ahead.after (a : Ahead) (e : Trig × Instr) : Ahead :=
  let t := lo64 e.1.t
  let r := t.toNat % 16
  let put (f : Nat → Int) (v : Int) : Nat → Int := fun k => if k = r then v else f k
  let take : Ahead := { a with queue := a.queue + 1, used := put a.used (a.used r + 1) }
  match e.2 with
  | .cpyPush => take
  | .cpyTry => if a.room r then take else a
  | .rel => { a with used := put a.used (a.used r - 1) }
  | .reelInit =>
    if reelSizeBad t then a else { a with size := fun k => if k = r then reelSize t else a.size k, used := put a.used 0 }
  | _ => a

/-- (R292, R293) Whether a push waits to be accepted. Its checks come first. -/
def State.pushWaits (s : State) (c : Who) (earlier : List (Trig × Instr)) (e : Trig × Instr) : Bool :=
  e.2 == .cpyPush && (
    let b := (s.ctx c).bank
    let t := lo64 e.1.t
    let y := s.tile c.tile
    let now : Ahead := { queue := y.cpq.length, size := fun k => (y.reel k).size
                         used := fun k => (((y.reel k).pushed - (y.reel k).released).toNat : Int) }
    let a := earlier.foldl Ahead.after now
    let n := t.toNat % 16
    (s.copyFaultAt c t (a.size n) (lo64 (b.port 12 0)) (lo64 (b.port 12 1)) (lo64 (b.port 12 2))).isNone && !a.room n)

/-- (R305) Whether a send waits: eight messages of the context are outstanding. -/
def State.sendWaits (s : State) (c : Who) (earlier : List (Trig × Instr)) (e : Trig × Instr) : Bool :=
  let sends (i : Instr) : Bool := i == .send || i == .sendv
  sends e.2 && 8 ≤ (s.msgs.filter fun m => m.who == c && m.job == (s.ctx c).job).length
    + (earlier.filter fun x => sends x.2).length

/-- (R36, R72) What holds the triggers of a word, one after another: `some true` where a data-locked trigger waits,
`some false` where only a queued capacity does, none where all can proceed. -/
def State.holdsFrom (s : State) (c : Who) : List (Trig × Instr) → List (Trig × Instr) → Option Bool
  | _, [] => none
  | earlier, e :: rest =>
    if (s.ctx c).unitFull earlier e || s.localWaits c e || s.mxWaits c earlier e || s.sxWaits c earlier e
        || s.pushWaits c earlier e || s.sendWaits c earlier e then some true
    else if s.atCapacity c earlier e then (match s.holdsFrom c (earlier ++ [e]) rest with
      | some true => some true
      | _ => some false)
    else s.holdsFrom c (earlier ++ [e]) rest

/-- What holds a trigger of a word that waits. -/
def State.taskWaits (s : State) (c : Who) : Task → Bool
  | .run tr i => (s.holdsFrom c [] [(tr, i)]).isSome
  | _ => false

/-- (R104, R151, R165, R170) The triggers of a context's word that wait go on, one after another, as far as they can; after the last
the word ends. -/
def State.goOn (s : State) (c : Who) : State :=
  match (s.ctx c).cont with
  | [] => s.endWord c
  | k :: ks =>
    if s.taskWaits c k then s
    else { s.updCtx c fun x => { x with cont := ks } with agenda := k :: .cont c :: s.agenda }

/-! ### Parity -/

/-- (R154, R306, R358) The strike on the register or record that a move's source reads. -/
def sourceStrike (c : Who) (ms : List MoveAt) (m : MoveAt) : List SoftErr :=
  match m.src with
  | .g n => if n = 0 then [] else [.greg c n.toNat]
  | .v n => [.vreg c n.toNat]
  | .a n => [.aptr c n.toNat]
  | .f n => if n = 0 then [] else [.freg c n.toNat]
  | .res u k =>
    let q := queueOf u.toNat k.toNat
    if 32 ≤ q then [.rqEntry c.tile (q - 32)]
    else if statElsewhere ms u.toNat k.toNat then (if u.toNat = 13 then [.rqEntry c.tile ((rqLowest ms).getD 0)] else [.record c (16 + u.toNat)])
    else [.record c q]
  | _ => []

/-- (R358) The strikes that a move meets as its word reads it: on its source, or on an operand port of the unit that it
triggers, unless the word writes the port. -/
def strikesAt (c : Who) (ms : List MoveAt) (m : MoveAt) : List SoftErr :=
  let writes (u p : Nat) : Bool := ms.any fun k => match k.dst with
    | .port v q => v.toNat == u && q.toNat == p
    | _ => false
  let opd : List SoftErr := match m.dst with
    | .port u p => if p.toNat < 3 then []
      else ([0, 1, 2].filter fun k => !writes u.toNat k).map fun k => SoftErr.operand c u.toNat k
    | _ => []
  sourceStrike c ms m ++ opd

/-- (R358) The first mismatch that a word with the moves `all`, of which `ms` perform, meets: its slot, its SOURCE field, the
strike, and what is set to zero if it is met again: what is struck, or for a bus the register or record that the slot reads. Every
guard is read. -/
def State.mismatchOf (s : State) (c : Who) (all ms : List MoveAt) : Option (Nat × W64 × SoftErr × List SoftErr) :=
  let guard (m : MoveAt) : List SoftErr := if m.gd.flag = 0 then [] else [.freg c m.gd.flag.toNat]
  let hit (m : MoveAt) : Option (Nat × W64 × SoftErr × List SoftErr) :=
    ((guard m ++ if ms.contains m then strikesAt c ms m else []).find? s.parity.contains).map fun e =>
      (m.slot, BitVec.ofNat 64 (sourceCode m.src), e, [e])
  match all.findSome? hit with
  | some r => some r
  | none => match ms with
    | m :: _ =>
      if s.parity.contains (.transient c) then
        some (m.slot, BitVec.ofNat 64 (sourceCode m.src), .transient c, .transient c :: sourceStrike c ms m)
      else none
    | [] => none

/-- (R358) The record that a read of a queue finds set to zero: the first of the queue, or the result slots of a free-running
unit. -/
def Ctx.zeroRecord (x : Ctx) (q : Nat) : Ctx :=
  x.updBank fun b =>
    if q < 16 ∧ !x.locked q then { b with slots := b.slots.set q Rec.zero }
    else match b.queue q with
      | _ :: rest => b.setQueue q (Rec.zero :: rest)
      | [] => b

/-- (R358) The register, port or record of a strike set to zero with good parity. -/
def Ctx.cleanse (x : Ctx) (e : SoftErr) : Ctx :=
  match e with
  | .greg _ n => x.writeG n 0
  | .vreg _ n => x.writeV n 0
  | .aptr _ n => x.writeA n 0
  | .freg _ n => x.writeF n false
  | .record _ q => x.zeroRecord q
  | .operand _ u p => x.updBank fun b => b.setPort u p 0
  | _ => x

/-- A strike is gone. -/
def State.dropStrike (s : State) (e : SoftErr) : State := { s with parity := s.parity.erase e }

/-- (R358) What a strike of a context's read has spoilt is set to zero with good parity. -/
def State.cleanse (s : State) (c : Who) (e : SoftErr) : State :=
  let s1 := s.updCtx c fun x => { x.cleanse e with mismatch := none }
  (match e with
  | .rqEntry t q => s1.updTile t fun y => match (y.rq q).entries with
    | _ :: rest => y.setRq q { y.rq q with entries := (0, 0) :: rest }
    | [] => y
  | _ => s1).dropStrike e

/-- (R358) What a word writes or pops, and what lands, has good parity. -/
def State.goodParity (s : State) (c : Who) (ms : List MoveAt) (pops : List Nat) : State :=
  let gone (e : SoftErr) : Bool := match e with
    | .greg d n => d == c && ms.any fun m => m.dst == .g (BitVec.ofNat 6 n)
    | .vreg d n => d == c && ms.any fun m => m.dst == .v (BitVec.ofNat 10 n)
    | .aptr d n => d == c && ms.any fun m => m.dst == .a (BitVec.ofNat 4 n)
    | .freg d n => d == c && ms.any fun m => m.dst == .f (BitVec.ofNat 4 n)
    | .rqEntry t q => t == c.tile && pops.contains (32 + q)
    | .operand d u p => d == c && ms.any fun m => m.dst == .port (BitVec.ofNat 4 u) (BitVec.ofNat 6 p)
    | .record d q => d == c && pops.contains q
    | _ => false
  if s.parity.isEmpty then s else { s with parity := s.parity.filter fun e => !gone e }

/-! ### What becomes of a word -/

/-- What a context's next word comes to in its next context cycle. -/
inductive Verdict where
  /-- it waits; `locked` on a data-locked read or trigger -/
  | wait (locked : Bool)
  /-- a first parity mismatch cancels it for a cycle (R358) -/
  | cancel (e : SoftErr)
  /-- it faults at decode (R35) -/
  | decode (slot : Nat) (code : Flt) (f1 : W64) (strikes : List SoftErr)
  /-- it performs -/
  | go
  deriving DecidableEq, Repr

/-- The lower of two slots. -/
def lower (a b : Option Nat) : Option Nat :=
  match a, b with
  | some x, some y => some (min x y)
  | some x, none => some x
  | none, y => y

/-- (R35, R57) The slot at fault with FLT_PORT: unassigned, or a read that can find nothing. -/
def portSlotOf (m : MoveWord) (reads : List (Nat × ReadState)) : Option Nat :=
  lower (unassignedFrom 0 (m.slots.map Slot.view)) ((reads.find? fun r => r.2 == .port).map (·.1))

/-- (R103) o1 of the unit that a slot's SOURCE reads, or else of the unit that its DEST names. -/
def unitO1 (b : Bank) (m : MoveAt) (source : Bool) : W64 :=
  match (if source then m.res?.map (·.1) else none), m.dst with
  | some u, _ => lo64 (b.port u 0)
  | none, .port u _ => lo64 (b.port u.toNat 0)
  | none, _ => 0

/-- (R103) FREC1 of FLT_PORT in a slot: by its SOURCE where that is at fault. -/
def portF1 (b : Bank) (ms : List MoveAt) (reads : List (Nat × ReadState)) (slot : Nat) : W64 :=
  match ms.find? fun m => m.slot == slot with
  | some m =>
    let bySource := (match m.src with
      | .res u k => (slotWidth u.toNat k.toNat).isNone
      | _ => false) || reads.contains (slot, .port)
    unitO1 b m bySource
  | none => 0

/-- (R32) The lowest slot that names a register above an allotment, and whether that register is a vector register. -/
def regbound (x : Ctx) (ms : List MoveAt) : Option (Nat × Bool) :=
  ms.findSome? fun m =>
    match m.src, m.dst with
    | .g n, d => if x.gcount ≤ n.toNat then some (m.slot, false) else regDst m.slot d
    | .v n, d => if x.vcount ≤ n.toNat then some (m.slot, true) else regDst m.slot d
    | _, d => regDst m.slot d
where
  /-- The destination's part. -/
  regDst (slot : Nat) : Dest → Option (Nat × Bool)
    | .g n => if x.gcount ≤ n.toNat then some (slot, false) else none
    | .v n => if x.vcount ≤ n.toNat then some (slot, true) else none
    | _ => none

/-- (R62, R63) The lowest slot whose free-running read of `out` comes too soon, with latency checking on. -/
def latencySlot (x : Ctx) (ms : List MoveAt) : Option MoveAt :=
  if x.check then
    ms.find? fun m => match m.res? with
      | some (u, 0) => !x.locked u && x.bank.marks.getLsbD u && x.bank.fly.any fun r => r.unit == u
      | _ => false
  else none

/-- The state as the triggers of a word find it: the word's reads, pops, marks and writes made (R36). -/
def State.written (s : State) (c : Who) (ms : List MoveAt) : State :=
  let x := s.ctx c
  let t := s.tile c.tile
  let pops := popsOf x ms
  (s.updTile c.tile fun t => t.popRqs pops).setCtx c (writesOf t x ms (markReads x ms (x.popAll pops)))

/-- (R36, R57, R72, R385) What holds a word back: its reads, then its triggers. -/
def State.wordWaits (s : State) (c : Who) (ms : List MoveAt) (reads : List (Nat × ReadState)) : Option Bool :=
  if reads.any fun r => r.2 == .wait then some true
  else (s.written c ms).holdsFrom c [] (startsOf (s.tile c.tile) (s.ctx c) c ms)

/-- (R32, R35, R63, R358) The faults after FLT_PORT in their order. -/
def State.lateVerdict (s : State) (c : Who) (m : MoveWord) (ms : List MoveAt) : Verdict :=
  let x := s.ctx c
  match regbound x (wordMoves m) with
  | some (slot, v) =>
    let t := s.tile c.tile
    .decode slot .regbound (BitVec.ofNat 64 (if v then t.freeV else t.freeG)) []
  | none => match latencySlot x ms with
    | some k => .decode k.slot .latency (unitO1 x.bank k true) []
    | none => match s.mismatchOf c (wordMoves m) ms with
      | some (slot, f1, e, spoilt) => if x.mismatch = some e then .decode slot .poison f1 spoilt else .cancel e
      | none => .go

/-- (R385) A move whose source is an unassigned result slot, which is no read that could be waited for: its trigger waits as another. -/
def MoveAt.real (m : MoveAt) : MoveAt :=
  match m.res? with
  | some (u, k) => if (slotWidth u k).isSome then m else { m with src := .g 0 }
  | none => m

/-- (R250, R385) The triggers of a word without those that would wait for an accumulator on an earlier trigger of the word, which
never starts. -/
def unclashed (b : Bank) : List (Trig × Instr) → List (Trig × Instr) → List (Trig × Instr)
  | earlier, [] => earlier
  | earlier, e :: rest => if mxBehind b earlier e then unclashed b earlier rest else unclashed b (earlier ++ [e]) rest

/-- (R385) What becomes of an illegal word: FLT_XWORD at its slot, at once where it could never issue, and else after its waits. -/
def State.illegalVerdict (s : State) (c : Who) (ms : List MoveAt) (slot : Nat) (f1 : W64) : Verdict :=
  let real := ms.map MoveAt.real
  let reads := readStates (s.tile c.tile) c.ctx (s.ctx c) (s.jobFor c).qx real
  if reads.any fun r => r.2 == .port then .decode slot .xword f1 []
  else
    let s1 := s.written c real
    match (if reads.any fun r => r.2 == .wait then some true
      else s1.holdsFrom c [] (unclashed (s1.ctx c).bank [] (startsOf (s.tile c.tile) (s.ctx c) c real))) with
    | some l => .wait l
    | none => .decode slot .xword f1 []

/-- (R35, R36, R385) What becomes of a word in a context whose landings of the cycle are made; `bad` is the slot and FREC1 of
a word that is illegal. -/
def State.verdict (s : State) (c : Who) (m : MoveWord) (bad : Option (Nat × W64)) : Verdict :=
  let x := s.ctx c
  let ms := taken x (wordMoves m)
  match bad with
  | some (i, f1) => s.illegalVerdict c ms i f1
  | none =>
    let reads := readStates (s.tile c.tile) c.ctx x (s.jobFor c).qx ms
    match portSlotOf m reads with
    | some i => .decode i .port (portF1 x.bank (wordMoves m) reads i) []
    | none => match s.wordWaits c ms reads with
      | some l => .wait l
      | none => s.lateVerdict c m ms

/-! ### Issue -/

/-- (R56) The context with the landings of its next context cycle made. -/
def State.trialled (s : State) (c : Who) : State := s.updCtx c fun x => { x.trial with same := true }

/-- (R75) The tile counts a change of the issuing context. -/
def Tile.countIssue (t : Tile) (k : Nat) : Tile :=
  { (if t.lastIssue.isSome ∧ t.lastIssue ≠ some k then t.count 9 else t) with lastIssue := some k }

/-- (R351) Whether a step packet waits for a word of a context of a job. -/
def StepPkt.awaits (p : StepPkt) (j : Option Nat) (c : Who) : Bool := some p.job == j && p.left.contains c

/-- (R351) A context of a job has issued the word of the first step packet that waits for it. -/
def dropStep (j : Option Nat) (c : Who) : List StepPkt → List StepPkt
  | [] => []
  | p :: ps => if p.awaits j c then { p with left := p.left.erase c } :: ps else p :: dropStep j c ps

/-- (R351) A step packet completes once its contexts have issued their words, whether or not they have been released or halted
meanwhile. -/
def State.stepped (s : State) (c : Who) : State :=
  let left := dropStep (s.ctx c).job c s.steps
  let done := left.filter fun p => p.left.isEmpty
  { done.foldl (fun (s : State) p => s.journalMove p.queue p.seq 2 0 0) s with steps := left.filter fun p => !p.left.isEmpty }

/-- (R36, R348) A word performs: reads, pops, writes, then its triggers in slot order and its end. A stepped context
halts again, unless a further step packet waits for it. -/
def State.perform1 (s : State) (c : Who) (m : MoveWord) : State :=
  let x := s.ctx c
  let ms := taken x (wordMoves m)
  let starts := startsOf (s.tile c.tile) x c ms
  let more := x.dbgStep && (dropStep x.job c s.steps).any fun p => p.awaits x.job c
  let s1 := (((s.written c ms).goodParity c ms (popsOf x ms)).updCtx c fun y =>
    { y with
      same := false, sameTile := false, stalled := false, mismatch := none, waits := 0, curSc := m.sc.toNat, curWord := x.pc
      curCyc := s.cycle
      dbgHalt := (x.dbgHalt || x.dbgStep) && !more, dbgStep := more
      dirty := setBit (setBit y.dirty 32 true) 33 true }).updTile c.tile fun t => t.countIssue c.ctx
  let s2 := s1.stepped c
  { s2 with agenda := (starts.map fun e => Task.run e.1 e.2) ++ .wordEnd c :: s2.agenda }

/-- (R35, R36, R358) What becomes of a word happens. -/
def State.carryOut (s : State) (c : Who) (m : MoveWord) (bad : Option (Nat × W64)) : State :=
  let s1 := s.trialled c
  match s1.verdict c m bad with
  | .wait _ => s
  | .cancel e => (if e = .transient c then s.dropStrike e else s).updCtx c fun x => { x with mismatch := some e }
  | .decode slot code f1 strikes => (strikes.foldl (fun (s : State) e => s.cleanse c e) s1).faultDecode c slot code f1
  | .go => s1.perform1 c m

/-- WORD_ISSUE (R36): the context of the step issues a word. A word that cannot issue leaves everything as it is. -/
def execWordIssue (m : MoveWord) (s : State) : Host.Outcome State Fault Refusal := .next (s.carryOut s.who m none)

/-! ### Counts -/

/-- (R28, R53, R56, R93) A context cycle without a word: results advance and land, and the stall count, or after it the
idle count, runs down. -/
def Ctx.countDown (x : Ctx) : Ctx :=
  let y := x.trial
  if 0 < y.stall then
    { y with
      same := false, starved := 0, stall := y.stall - 1 }
  else
    { y with
      same := false, starved := 0, idle := y.idle - 1 }

/-- (R53) Whether a context counts down a stall count or an idle. DESIGN CHOICE (log 26): neither runs down, and no free-running result
advances with it, while the context is debug-halted. -/
def Ctx.counting (x : Ctx) : Bool :=
  x.exit.isNone && !x.dbgHalt && x.block.isEmpty && x.cont.isEmpty && (x.stall != 0 || x.idle != 0)

/-- (R61, R72) Whether a context runs: launched, in a job that is not being pre-empted or saved. -/
def State.runs? (s : State) (c : Who) : Bool :=
  match s.jobOf c with
  | some j => j.st == .running
  | none => false

/-- The contexts of a tile that count down. -/
def State.countingOn (s : State) (tile : Nat) : List Who := (whosOf tile).filter fun c => s.runs? c && (s.ctx c).counting

/-- STALL_COUNT_END (R28, R53): the last count of a stall count. -/
def execStallCountEnd (c : Who) (s : State) : Host.Outcome State Fault Refusal :=
  .next (if (s.ctx c).counting && (s.ctx c).stall == 1 then s.updCtx c Ctx.countDown else s)

/-- IDLE_END (R93): the last count of an idle. -/
def execIdleEnd (c : Who) (s : State) : Host.Outcome State Fault Refusal :=
  .next (if (s.ctx c).counting && (s.ctx c).stall == 0 && (s.ctx c).idle == 1 then s.updCtx c Ctx.countDown else s)

/-- WAIT_COUNT_LIMIT (R74): a ready context that has waited 240 cycles issues its next word. -/
def execWaitCountLimit (c : Who) (s : State) : Host.Outcome State Fault Refusal :=
  .next (if 240 ≤ (s.ctx c).waits then { s with agenda := .issue c :: s.agenda } else s)

/-- (R28, R53, R93) The counts of a cycle without issue: a last count is a step of its own. -/
def State.idleTasks (s : State) (tile : Nat) : State :=
  let cs := s.countingOn tile
  let last (c : Who) : Option Task :=
    if (s.ctx c).stall = 1 then some (.run { Trig.init with who := c } (.stallCountEnd c))
    else if (s.ctx c).stall = 0 ∧ (s.ctx c).idle = 1 then some (.run { Trig.init with who := c } (.idleEnd c)) else none
  let s1 := (cs.filter fun c => (last c).isNone).foldl (fun (s : State) c => s.updCtx c Ctx.countDown) s
  { s1 with agenda := cs.filterMap last ++ s1.agenda }

/-- STALL_FLOOR_IDLE_CYCLE (R80): a tile cycle without issue, a context cycle of every context that counts down. -/
def execStallFloorIdleCycle (tile : Nat) (s : State) : Host.Outcome State Fault Refusal :=
  .next (if (s.countingOn tile).any fun c => 240 ≤ (s.ctx c).starved then s.idleTasks tile else s)

/-! ### Landings -/

/-- (R358) A landing leaves what it writes with good parity: the record of a free-running unit, flags, a pointer. -/
def State.landed (s : State) (c : Who) (r : InFlight) : State :=
  let s1 := s.updCtx c fun x => x.land r
  let gone (e : SoftErr) : Bool := match e with
    | .record d u => d == c && u == r.unit && !(s.ctx c).locked r.unit
    | .freg d n => d == c && r.eff.flags.isSome && 8 ≤ n
    | .aptr d n => d == c && r.eff.ptr.any fun p => p.1 == n
    | _ => false
  if s.parity.isEmpty then s1 else { s1 with parity := s1.parity.filter fun e => !gone e }

/-- RESULT_LANDING (R54, R56): a result whose count has run out lands. -/
def execResultLanding (c : Who) (id : Nat) (s : State) : Host.Outcome State Fault Refusal :=
  match (s.ctx c).bank.fly.find? fun r => r.id == id with
  | some r => .next (if !r.div && r.left == 0 then s.landed c r else s)
  | none => .next s

/-- (R37) The results of earlier slots of the same word and unit that are still in flight. -/
def Bank.ahead (b : Bank) (r : InFlight) : List InFlight := b.fly.filter fun q => q.unit == r.unit && q.cyc == r.cyc && q.id < r.id

/-- DIVIDE_LANDING (R37, R108): a divide or remainder lands, before its bound runs out only where the results of earlier slots
of its word have landed. DEDUCED (log 26): at its bound, which counts tile cycles, those of a free-running unit land before it. -/
def execDivideLanding (c : Who) (id : Nat) (s : State) : Host.Outcome State Fault Refusal :=
  match (s.ctx c).bank.fly.find? fun r => r.id == id with
  | some r =>
    let first := (s.ctx c).bank.ahead r
    .next (if r.div && (r.left == 0 || first.isEmpty) then (first.foldl (fun (s : State) q => s.landed c q) s).landed c r else s)
  | none => .next s

/-! ### Faults after start -/

/-- (R166, R353) Whether a context stands at a word boundary at which it would issue, or in a drain: the stall count and the
`ctl.idle` of a word that drains do not run before the drain ends (R53). DESIGN CHOICE (log 27): a word of which triggers wait is
interrupted as a drain is, and they go on after the return. -/
def State.atBoundary (s : State) (c : Who) : Bool :=
  let x := s.ctx c
  x.exit.isNone && !x.dbgHalt && !x.woken && x.block.all (fun b => b == .drain)
    && (x.stall == 0 && x.idle == 0 || !x.block.isEmpty || !x.cont.isEmpty) && s.agenda.all fun k => !k.inWord c && k != .wordEnd c && k != .issue c && k != .cont c

/-- FAULT_AFTER_START (R353): the first fault due is delivered at a word boundary. -/
def execFaultAfterStart (c : Who) (s : State) : Host.Outcome State Fault Refusal :=
  .next (if s.atBoundary c then s.deliverLate c else s)

end Sys2Proof.Machine
end

