-- ==== Sys2Proof/Machine/Cycle.lean ====
section
/-! DEFINITION. What the machine does next: the steps that a tile cycle forces, in their order (R53, R54, R72 to R75, R80),
and between them what comes about in unarchitected time (R396, log 1). -/

namespace Sys2Proof.Machine

/-- What the machine does next. -/
inductive Next where
  /-- it runs one instruction -/
  | run (s : State) (i : Instr)
  /-- its state changes without one -/
  | go (s : State)
  /-- it stops -/
  | stop (f : Fault)

/-! ### Fetch -/

/-- (R22) The word of a tile's instruction store at an address. -/
def Tile.word (t : Tile) (a : Nat) : W256 := t.istore.get 0 a

/-- (R103) FREC1 of an illegal word: o1 of the unit whose port a clashing DEST names. -/
def illegalF1 (b : Bank) (vs : List SlotView) (i : Nat) : W64 :=
  match vs.drop i with
  | .move _ (some src) (some (.port u _)) :: rest => if src = .long ∧ claimed rest = 0 then 0 else lo64 (b.port u.toNat 0)
  | _ => 0

/-- (R31, R35, R385) The slot and FREC1 of an illegal word. -/
def illegalAt (b : Bank) (w : W256) : Option (Nat × W64) :=
  match decodeMoves w with
  | .ok _ => none
  | .error (.illegal i) => some (i, illegalF1 b (views w) i)
  | .error _ => some (0, w.extractLsb' 192 64)

/-- (R385) A slot as the waits of an illegal word see it: a reserved source reads, and a reserved destination writes, nothing. -/
def SlotView.waitSlot : SlotView → Slot
  | .empty => .empty
  | .lit x => .lit x
  | .move gd src dst => .move gd (src.getD (.g 0)) (dst.getD (.g 0))

/-- (R36, R385) A word as its waits see it; a legal word is `wordOf`. -/
def waitWord (w : W256) : MoveWord := { wordOf w with slots := (views w).map SlotView.waitSlot }

/-- (R35, R36, R358) A context takes up its next word: a legal word is issued as a step of its own. -/
def State.fetch (s : State) (c : Who) : Next :=
  let x := s.ctx c
  if 8192 ≤ x.pc then .stop .fetchBeyondStore
  else
    let w := (s.tile c.tile).word x.pc
    if (s.tile c.tile).badWords.contains x.pc then .go ((s.trialled c).faultDecode c 0 .poison (BitVec.ofNat 64 x.pc))
    else match illegalAt x.bank w with
      | none => .run { s with trig := { s.trig with who := c } } (.wordIssue (wordOf w))
      | some bad => .go (s.carryOut c (waitWord w) (some bad))

/-! ### The selector -/

/-- What a context would do with issue. -/
inductive Prospect where
  /-- it is not ready; `some true` where its next word waits on a data-locked read or trigger, `some false` where it waits
  on a queued capacity -/
  | none (wait : Option Bool)
  /-- a fault after start is delivered -/
  | late
  /-- a bad transfer target faults (R66) -/
  | target (d : Transfer)
  /-- its next word faults or is cancelled -/
  | upset
  /-- its next word issues -/
  | word
  deriving DecidableEq, Repr

/-- Whether a context would take issue. -/
def Prospect.ready : Prospect → Bool
  | .none _ => false
  | _ => true

/-- (R72, R353) What a context would do with issue. -/
def State.prospect (s : State) (c : Who) : Prospect :=
  let x := s.ctx c
  if !s.runs? c || x.exit.isSome || x.dbgHalt || x.woken then .none none
  else if x.deliverable.isSome && s.atBoundary c then .late
  else if x.stall != 0 || x.idle != 0 || !x.block.isEmpty || !x.cont.isEmpty then .none none
  else match x.xfer.find? fun t => t.left == 0 with
    | some d => .target d
    | none =>
      if 8192 ≤ x.pc then .word
      else if (s.tile c.tile).badWords.contains x.pc then .upset
      else
        let w := (s.tile c.tile).word x.pc
        match (s.trialled c).verdict c (waitWord w) (illegalAt x.bank w) with
        | .wait l => .none (some l)
        | .go => .word
        | _ => .upset

/-- A ready context: its number, level, and prospect. -/
structure Cand where
  who : Who
  level : Nat
  prospect : Prospect
  deriving DecidableEq, Repr

/-- (R73) The first candidate after a context number, or the first of all. -/
def after (k : Option Nat) (l : List Cand) : Option Cand :=
  (l.find? fun a => match k with
    | some n => n < a.who.ctx
    | none => true).or l.head?

/-- (R73, R91, R337) The selector's choice among the ready contexts. While the current context stays ready, one of higher level
that has become ready in this very cycle does not compete yet. DESIGN CHOICE (log 26): the context that issued last stays the
current one through cycles in which no context was ready. -/
def State.choose (s : State) (tile : Nat) (ready : List Cand) : Option Cand :=
  let t := s.tile tile
  let cur := ready.find? fun a => t.cur == some a.who.ctx
  let elig := match cur with
    | some a => if (s.ctx a.who).wasReady then ready.filter fun (b : Cand) => b.level ≤ a.level || (s.ctx b.who).wasReady else ready
    | none => ready
  let top := (elig.map fun (b : Cand) => b.level).foldl max 0
  let best := elig.filter fun (b : Cand) => b.level == top
  match cur with
  | some a =>
    if !best.contains a then after (t.lastAt.get? top) best
    else if t.yielded = some a.who.ctx ∧ 1 < best.length then after (some a.who.ctx) (best.filter fun b => b != a)
    else some a
  | none => after (t.lastAt.get? top) best

/-- (R72, R75) Whether a prospect is that of the context's next word in a cycle in which nothing else holds it back. -/
def Prospect.ofWord : Prospect → Bool
  | .none (some _) | .upset | .word => true
  | _ => false

/-- (R73, R74, R75, R80, R179) The counts of a context after a selection. The issue of a word sets the wait count to zero. -/
def Ctx.counted (x : Ctx) (p : Prospect) (counting : Bool) : Ctx :=
  { x with
    wasReady := p.ready
    woken := false
    waits := if p.ready then x.waits + 1 else 0
    starved := if counting then x.starved + 1 else 0
    stalled := x.stalled || p.ofWord }

/-- (R75) A word that cannot issue in its first cycle because of a data-locked read or trigger. DESIGN CHOICE (log 26): its first
cycle is the first in which nothing else held its context back: no stall count, idle, event, drain or debug halt. -/
def Ctx.stalls (x : Ctx) (p : Prospect) : Bool := !x.stalled && p == .none (some true)

/-- The tasks of a chosen context. DESIGN CHOICE (log 26): a context that issues by the limit of R74 becomes neither the current
context nor the last holder of its priority. -/
def State.grant (s : State) (a : Cand) (forced : Bool) : State :=
  let c := a.who
  let s1 := if forced then s else s.updTile c.tile fun t => { t with cur := some c.ctx, lastAt := t.lastAt.set a.level c.ctx }
  let tr := { Trig.init with who := c }
  match a.prospect with
  | .late => { s1 with agenda := .run tr (.faultAfterStart c) :: s1.agenda }
  | .target d => (s1.trialled c).faultTarget c d
  | _ => { s1 with agenda := (if forced then .run tr (.waitCountLimit c) else .issue c) :: s1.agenda }

/-- (R53, R72 to R75, R80) The selector of a tile decides. A cycle in which no word issues is a context cycle of the contexts
that count down. DESIGN CHOICE (log 26): of the contexts at the limit of R74 the lowest number goes first, also where it has
reached the limit in a later cycle than another; one that reaches it while the words of that limit issue also goes before the cycle
without issue that R80 leaves pending. -/
def State.select (s : State) (tile : Nat) : State :=
  let ps := (whosOf tile).map fun c => (c, s.prospect c)
  let counting := s.countingOn tile
  let ready := (ps.filter fun p => p.2.ready).map fun p => ({ who := p.1, level := (s.ctx p.1).prio.toNat, prospect := p.2 } : Cand)
  let forced := ready.find? fun a => 240 ≤ (s.ctx a.who).waits
  let floor := counting.any fun c => 240 ≤ (s.ctx c).starved
  let pick := match forced with
    | some a => some a
    | none => if floor then none else s.choose tile ready
  let stalls := (ps.filter fun p => (s.ctx p.1).stalls p.2).length
  let s1 := ps.foldl (fun (s : State) p => s.updCtx p.1 fun x => x.counted p.2 (counting.contains p.1)) s
  let s2 := s1.updTile tile fun t => (List.range stalls).foldl (fun t _ => t.count 10) { t with yielded := none }
  match pick with
  | none =>
    if floor then { s2 with agenda := .run Trig.init (.stallFloorIdleCycle tile) :: s2.agenda } else s2.idleTasks tile
  | some a => match a.prospect with
    | .word => s2.grant a forced.isSome
    | _ => (s2.idleTasks tile).grant a forced.isSome

/-! ### The results of a tile -/

/-- (R54, R58, R61, R104, R108) The results of a tile that count tile cycles advance. A pre-empted context's bank is frozen. -/
def State.advance (s : State) (tile : Nat) : State :=
  (whosOf tile).foldl (fun (s : State) c =>
    let x := s.ctx c
    if x.job.isSome && !s.runs? c then s
    else if x.sameTile then s.setCtx c { x with sameTile := false }
    else if x.bank.fly.isEmpty then s
    else
      let y := x.tick true
      let land (r : InFlight) : Task := .run { Trig.init with who := c } (if r.div then .divideLanding c r.id else .resultLanding c r.id)
      { s.setCtx c y with agenda := (y.due true).map land ++ s.agenda }) s

/-! ### What a tile cycle forces -/

/-- (R196, R347) Whether a tile of a job is debug-halted. -/
def State.dbgHeld (s : State) (j : Job) : Bool := j.whos.any fun c => (s.ctx c).dbgHalt && (s.ctx c).job == some j.id

/-- (R293, R294, R295) A copy request after one more cycle: its back-off runs, and its age unless the job is debug-halted. -/
def CopyReq.tick (o : CopyReq) (paused : Bool) : CopyReq :=
  { o with
    age := if paused then o.age else o.age + 1
    st := match o.st with
      | .backoff n => .backoff (n - 1)
      | st => st }

/-- (R294, R295) The events that a copy request's counts force. -/
def State.copyTasks (s : State) (o : CopyReq) : List Instr :=
  let cto := (s.jobNo o.job).cto
  (match o.st with
    | .done _ _ | .stopping _ _ _ => []
    | _ => if cto != 0 && cto ≤ o.age then [.copyTimeout o.id] else [])
  ++ (if o.st == .backoff 0 then [.copyBackoffExpiry o.id] else [])

/-- (R196) A job's watchdog after one more cycle. -/
def State.dogTick (s : State) (j : Job) : Job := if j.st == .running && !s.dbgHeld j then { j with dog := j.dog + 1 } else j

/-- (R363) A link after one more cycle. -/
def LinkSt.tick : LinkSt → LinkSt
  | .retraining n => .retraining (n - 1)
  | l => l

/-- The counts of everything outside the tiles' selectors after one more cycle (R196, R294, R295, R314, R363). -/
def State.tickCounts (s : State) : State :=
  { s with
    jobs := s.jobs.map s.dogTick
    links := s.links.map fun (e : Nat × LinkSt) => (e.1, e.2.tick)
    tiles := s.tiles.map fun (e : Nat × Tile) =>
      (e.1, if e.2.cpq.isEmpty then e.2 else { e.2 with
        cpq := e.2.cpq.map fun o => o.tick (s.dbgHeld (s.jobNo o.job)) }) }

/-- The events that the counts of a cycle force. -/
def State.countTasks (s : State) : List Instr :=
  (s.areqs.filter fun r => r.at'.isSome && r.window ≤ (s.cycle - r.since).toNat).map (fun r => Instr.combineWindowExpiry r.id)
    ++ s.tiles.flatMap (fun (e : Nat × Tile) => e.2.cpq.flatMap s.copyTasks)
    ++ (s.jobs.filter fun j => j.st == .running && j.wdog != 0 && 65536 * j.wdog ≤ j.dog).map (fun j => Instr.phaseWatchdogExpiry j.id)
    ++ (s.links.filter fun (e : Nat × LinkSt) => e.2 == .retraining 0).map fun (e : Nat × LinkSt) => Instr.linkDown e.1

/-- The contexts of the tiles that hold any. -/
def State.hosts (s : State) : List Nat := (s.tiles.filter fun (e : Nat × Tile) => !e.2.ctxs.isEmpty).map (·.1)

/-- (R300, R301) The retried copy requests of running jobs that wait for acceptance are presented once more. -/
def State.presentCopies (s : State) : State :=
  s.hosts.foldl (fun (s : State) t => (whosOf t).foldl (fun (s : State) c =>
    if s.runs? c && (s.ctx c).block.any fun b => b.request?.isSome then s.presentCopy c else s) s) s

/-- The contexts of a tile whose words have triggers that wait. -/
def State.contTasks (s : State) (t : Nat) : List Task :=
  ((whosOf t).filter fun c => s.runs? c && !(s.ctx c).cont.isEmpty).map Task.cont

/-- The work of a tile cycle set out. -/
def State.setOut (s : State) : State :=
  let s1 := s.tickCounts.presentCopies
  { s1 with
    worked := true
    agenda := s1.countTasks.map (Task.run Trig.init) ++ s1.hosts.flatMap fun t => .advance t :: .select t :: s1.contTasks t }

/-! ### What comes about by itself -/

/-- The event by which a remote access that is no atomic arrives. -/
def MemOp.arrival (o : MemOp) : Instr :=
  if o.kind == .stp then .provisionalStage o.id else if o.inTiles then .remoteAccessArrival o.id else .pagedAccessArrival o.id

/-- (R315, R328) The event by which a remote access leaves its tile: an atomic, or one that queues behind an older request, enters
the switches of its route; another arrives. -/
def State.leaveEvent (s : State) (o : MemOp) : Option Instr :=
  if !s.canDepart o then none
  else if o.kind.isAmo || s.wayQueued o (s.located o).locs then some (.switchRequestEntry o.id)
  else if s.mayLand (s.located o) then some o.arrival else none

/-- The event of an outstanding memory operation that can come about. -/
def State.opEvent (s : State) (o : MemOp) : Option Instr :=
  match o.kind, o.st with
  | .fence k, _ => if s.fenced o.who o.job o.id k o.dbl then some (.fenceComplete o.id) else none
  | _, .performed => if o.status.isSome || o.kind.isAmo || !s.heldOn o.backLinks then some (.queuedReply o.id) else none
  | _, .cow => some (.copyOnWriteResolve o.id)
  | _, .translated => s.leaveEvent o
  | _, .waiting =>
    if s.canTranslate o then (if s.canWalk o then some (.translationWalk o.id true) else none)
    else s.leaveEvent o
  | _, _ => none

/-- (R117) The event of a local access that has waited in its tile. -/
def State.localEvent (s : State) (o : MemOp) : Option Instr :=
  if s.opLocal o && s.mayGo o && o.st == .waiting && !o.kind.isFence then
    some (if o.kind == .stp then .provisionalStage o.id else .remoteAccessArrival o.id)
  else none

/-- The event of a request in the switches that can come about. -/
def State.areqEvent (s : State) (r : AReq) : Option Instr :=
  match s.op? r.id with
  | some o =>
    if o.st != .moving || !s.canHop r o then none
    else if 1 < r.path.length then some (.switchRequestEntry r.id)
    else some (if o.kind.isAmo then .atomicApply (.here r.id) else o.arrival)
  | none => none

/-- The event of a gather message that can come about. -/
def State.gmsgEvent (s : State) (m : GMsg) : Option Instr :=
  if s.heldOn m.links then none
  else match m.kind with
    | .join => if s.gfirst m then some (.gatherJoin m.id) else none
    | .flush _ _ _ => if s.gfirst m then some (.gatherFlush m.id) else none
    | .accept => some (.gatherAccept m.id)
    | .refuse => some (.gatherRefuse m.id)
    | .recall => some (.gatherRecall m.id)

/-- The event of the memory system that comes about next: requests that have come home before local accesses (R328). -/
def State.memEvent (s : State) : Option Instr :=
  (s.areqs.findSome? s.areqEvent).or ((s.ops.findSome? s.opEvent).or ((s.ops.findSome? s.localEvent).or
    (((s.areplies.find? fun r => !s.replyHeld r).map fun r => Instr.replySplit r.id).or
      ((s.gmsgs.findSome? s.gmsgEvent).or
        ((s.pfFly.head?).map fun f => Instr.prefetchLineFill f.1 f.2.1)))))

/-- The event of a tile's matrix queue that comes about next. -/
def State.mxEvent (s : State) (t : Nat) : Option Instr :=
  let y := s.tile t
  ((y.mxq.find? fun o => s.mxFree t o && !(o.kind.runs && !o.ended && s.chunkWaits t o)).map fun o =>
    if o.kind.runs && !o.ended then Instr.matrixChunkApply t o.id else Instr.matrixOpComplete t o.id).or
  ((y.mxw.find? fun w => s.mxWaitDone t w).map fun w => Instr.matrixOpComplete t w.id)

/-- The event of a copy request that comes about next. -/
def State.copyEvent (s : State) (t : Nat) (o : CopyReq) : Option Instr :=
  match o.st with
  | .offered => if s.mayRefill t o then some (.copyHandoff o.id 0) else none
  | .engine _ | .stopping _ _ _ => if s.copyWaits o then none else some (.copyComplete o.id)
  | .done _ _ => if o.k == ((s.tile t).reel o.reel).filled then some (.reelSlotFill t o.reel) else none
  | .backoff _ => none

/-- The round of a tile's ring that can take place. -/
def State.rotEvent (s : State) (t : Nat) (e : Nat × Trig × Nat) : Option Instr :=
  match (s.job? e.1).bind (s.round? t) with
  | some (ring, _) => if s.heldOn (ringLinks ring) then none else some (.rotRound t e.1)
  | none => none

/-- The event of a tile's engines that comes about next. -/
def State.tileEvent (s : State) (e : Nat × Tile) : Option Instr :=
  (s.mxEvent e.1).or
    ((e.2.sxq.head?.map fun o => Instr.sxuOpComplete e.1 o.id).or
      ((e.2.cpq.findSome? (s.copyEvent e.1)).or (e.2.rots.findSome? (s.rotEvent e.1))))

/-- The event of a message that can come about. -/
def State.msgEvent (s : State) (m : Msg) : Option Instr :=
  match m.st with
  | .waiting => if m.rls && s.mayDepart m && s.fenced m.who m.job m.id 5 m.dbl then some (.releaseSendDepart m.id) else none
  | st =>
    if !s.msgFirst m || !(s.jobNo m.job).sendsHere m.t || s.heldOn (s.msgLinks m) then none
    else match m.tile with
      | none => some (.messageArrival (.here m.id))
      | some t =>
        let r := (s.tile t).rq m.q
        if st == .held && r.opened && 16 ≤ r.entries.length && (s.downOn (s.msgLinks m)).isNone then none
        else some (.messageArrival (.here m.id))

/-- (R177) The event request that reaches its line next: of those that can, one of the lowest cluster index. -/
def State.lineEvent (s : State) : Option Instr :=
  ((s.evreqs.filter s.canReach).foldl (fun (b : Option EvReq) r => match b with
    | none => some r
    | some a => if evIndex r.who < evIndex a.who then some r else some a) none).map fun r => .lineRequest r.id

/-- The event of a context that comes about next. -/
def State.ctxEvent (s : State) (c : Who) : Option Instr :=
  if (s.ctx c).block.contains .drain && s.drained c then some (.drainComplete c)
  else if s.canRegister c then some (.phaseArrivalRegister c)
  else none

/-- (R334, R339) Whether a placement would change anything. -/
def State.canPlace (s : State) (j : Job) : Bool :=
  s.waitsPlace j && ((!j.admitted && j.refused) || (match s.plan j with
    | .wait => false
    | .place => true
    | .displace ks => s.jobs.any fun k => ks.contains k.id && k.st == .running))

/-- (R334) The job to place next: of the highest PRIO, the one that has waited longest. -/
def State.placeEvent (s : State) : Option Instr :=
  ((s.jobs.filter s.canPlace).foldl (fun (b : Option Job) j => match b with
    | none => some j
    | some a => if a.prio.toNat < j.prio.toNat then some j else some a) none).map fun j => .jobPlacement j.id

/-- The event of a job that comes about next. -/
def State.jobEvent (s : State) (j : Job) : Option Instr :=
  let free : Bool := (s.stagedGathering j).isEmpty || !s.heldBy (.commit j.id) (s.stagedGathering j)
  if j.st == .preempting && s.canSave j then some (.preemption j.id)
  else if s.canComplete j && free then some (.jobComplete j.id)
  else if s.canAdvance j && free then some (.phaseAdvance j.id)
  else none

/-- (R387) A message of the device is sent again. -/
def State.resendEvent (s : State) : Option Instr := (s.tether.unacked.find? s.overdue).map fun r => .tetherRetransmit r.seq

/-- The event that comes about next. -/
def State.nextEvent (s : State) : Option Instr :=
  s.memEvent.or ((s.msgs.findSome? s.msgEvent).or (s.lineEvent.or
    (((s.lmsgs.find? fun m => !s.heldOn m.links).map fun m => if m.release then Instr.upperRelease m.id else Instr.upperArrive m.id).or
      ((s.hosts.findSome? fun t => (whosOf t).findSome? s.ctxEvent).or ((s.tiles.findSome? s.tileEvent).or
        ((s.jobs.findSome? s.jobEvent).or (s.placeEvent.or s.resendEvent)))))))

/-- (R161, R388) Whether a window message that has been kept can go on: it can perform, or its lines are still to be recalled. -/
def State.windowDue (s : State) (h : MsgHdr) (locs : Option (List Nat)) (homes : List Nat) : Bool :=
  let ls := (s.windowLocs locs).getD []
  s.windowReady h ls (if (s.windowLocs locs).isSome then homes else []) || !s.heldBy (.port h.seq) (s.gathering ls)

/-- (R365, R388) Whether a message of the host that has been kept can go on. -/
def State.rxReady (s : State) (i : Instr) : Bool :=
  match i with
  | .launch _ p | .graphEntry _ p | .queueBarrier _ p | .loadObject _ p | .unload _ p | .hotReplace _ p | .snapshot _ p
  | .restore _ p | .journalRead _ p | .preEmpt _ p | .resume _ p | .debugHalt _ p | .debugRelease _ p | .debugStep _ p
  | .debugReadState _ p | .debugWriteState _ p => s.journalRoom p.queue
  | .windowRead h a n => s.windowDue h (winLocs a n) (winHomes a n)
  | .windowWrite h a d => s.windowDue h (winLocs a d.length) (winHomes a d.length)
  | .windowAtomic h a p _ _ =>
    let n := (atomicOf p).map fun o => if o.2 then 4 else 8
    s.windowDue h (n.bind (atomicLocs a)) (winHomes a (n.getD 0))
  | _ => true

/-- (R354) A faulted operation that a return performs again starts. -/
def State.restartOne (s : State) (r : Who × RetOp × W64) : State :=
  let s1 := { s with restarts := s.restarts.erase r }
  match r.2.1 with
  | .mem o => s1.restartOp o r.2.2
  | .mx o => s1.restartMx o r.2.2
  | .sdot o => s1.restartSdot o r.2.2
  | .msg m => s1.restartMsg m r.2.2
  | .rot w k rid => s1.restartRot r.1 w k rid r.2.2
  | .event q => s1.restartEvent q r.2.2
  | _ => s1

/-- (R250, R269, R305, R354) Whether it can start now: its queue has room, its accumulator is not Busy, the context has fewer than
eight messages outstanding. A pre-emption waits for an sdot, which starts then too (R286). -/
def State.canRestart (s : State) (r : Who × RetOp × W64) : Bool :=
  match r.2.1 with
  | .mx o => s.runs? r.1 && (s.tile r.1.tile).mxq.length < 16 && !(s.tile r.1.tile).accBusy o.acc
  | .sdot _ => (s.jobFor r.1).resident && (s.tile r.1.tile).sxq.length < 16
  | .msg m => s.runs? r.1 && (s.msgs.filter fun x => x.who == m.who && x.job == m.job).length < 8
  | _ => s.runs? r.1

/-- What comes about next that is no row of the table: a retried operation starts, a line that something waits for is flushed
(R160), a kept message or packet is taken up (R330, R387), a packet starts, a FLUSH that waited is applied (R167), a message from
abroad enters its queue (R305), or an arrival is announced (R349). -/
def State.nextGo (s : State) : Option Next :=
  match s.restarts.find? s.canRestart with
  | some r => some (.go (s.restartOne r))
  | none => match s.flushDue with
    | some g => some (.go (s.flushLine g))
    | none => match s.tether.rxBuf.find? fun e => e.1 == s.tether.rxNext && s.rxReady e.2 with
      | some e => some (.run s e.2)
      | none => match s.qhold.find? fun q => some q.seq == s.qnext.get? q.queue && s.journalRoom q.queue with
        | some q => some (.go (s.acceptHeld q.queue 1))
        | none => match s.startable with
          | some q => some (.go ({ s with qwait := s.qwait.erase q }.startPacket q))
          | none => match s.lateDue, s.inbound.find? s.canEnter with
            | some h, _ => some (.go (s.applyLate h))
            | none, some m => some (.go (s.enterInbound m))
            | none, none => (s.jobs.find? s.mustAnnounce).map fun j => .go (s.announce j)

/-! ### The next step -/

/-- The cycle ends. -/
def State.endCycle (s : State) : State := { s with cycle := s.cycle + 1, worked := false, swIn := [] }

/-- What stands between two tile cycles: a scheduled event that is due, or what comes about by itself; then the work of the
next cycle. Triggers and words are no events. -/
def State.between (s : State) : Next :=
  match s.sched with
  | (n, i) :: rest =>
    if n ≤ s.cycle.toNat then
      let s1 := { s with sched := rest }
      if (portOf i).isSome then .go s1 else match i with
        | .wordIssue _ => .go s1
        | _ => .run s1 i
    else unforced s
  | [] => unforced s
where
  /-- Nothing scheduled is due. -/
  unforced (s : State) : Next :=
    match s.power with
    | .off => .go s.endCycle
    | .failed => if s.held then .go s.endCycle else .run s (.packageReset .ok)
    | .starting 0 => if s.held then .go s.endCycle else .run s .startTimeout
    | .starting (n + 1) => .go { s.endCycle with power := .starting n }
    | .running => match s.nextGo with
      | some n => n
      | none => if s.held then .go s.setOut else match s.nextEvent with
        | some i => .run s i
        | none => .go s.setOut

/-- What the machine does next. -/
def State.nextStep (s : State) : Next :=
  match s.agenda with
  | .issue c :: rest => ({ s with agenda := rest }).fetch c
  | .run tr i :: rest => .run { s with agenda := rest, trig := tr } i
  | .fault tr i code info f1 :: rest => .go ({ s with agenda := rest }.faultInTurn tr i { code := code, info := info, f1 := f1 })
  | .wordEnd c :: rest => .go (({ s with agenda := rest }).finishWord c)
  | .cont c :: rest => .go (({ s with agenda := rest }).goOn c)
  | .advance t :: rest => .go ({ s with agenda := rest }.advance t)
  | .select t :: rest => .go ({ s with agenda := rest }.select t)
  | [] => if s.worked then .go s.endCycle else s.between

end Sys2Proof.Machine
end

