-- ==== Sys2Proof/Machine/Fp.lean ====
section
/-! DEFINITION. The scalar floating-point forms of fadd and fmul (R110 to R113). -/

namespace Sys2Proof.Machine

/-! ### Shared operations -/

/-- (R45) The format of a suffix. -/
def fpFmt : FpFmt → Fmt
  | .s => .fp32 | .h => .fp16 | .b => .bf16

/-- (R110) The width of a format's operands. -/
def Fmt.bits (f : Fmt) : Nat := f.signPos + 1

/-- (R110) An operand's encoding: the low bits of a port. -/
def Fmt.low64 (f : Fmt) (v : W64) : Nat := v.toNat % 2 ^ f.bits

/-- (R123) The rounding mode of the trigger's context. -/
def State.frmMode (s : State) : RMode := RMode.ofFrm s.self.frm

/-- (R110) The record of a floating-point form. -/
def FRes.record (r : FRes) : Rec :=
  { out := BitVec.ofNat 512 r.bits, aux := 0, stat := r.ff.setWidth 64 }

/-- (R84, R110) A form starts: its flags land with it. -/
def startFp (u lat : Nat) (r : FRes) (s : State) : Host.Outcome State Fault Refusal :=
  .next (s.startFixed u lat r.record { Effects.none with ff := r.ff })

/-- (R82) The encodings a, b and c of a form: o1, T and o2. -/
def State.fpA (s : State) (u : Nat) (f : Fmt) : Nat := f.low64 (s.opPort64 u 0)
def State.fpB (s : State) (f : Fmt) : Nat := f.low64 s.opT64
def State.fpC (s : State) (u : Nat) (f : Fmt) : Nat := f.low64 (s.opPort64 u 1)

/-- (R205) Whether an exact zero sum is −0. -/
def RMode.isRd (m : RMode) : Bool := m == .rd

/-- (R111) A comparison's result. -/
def cmpRes (r : Bool × BitVec 5) : FRes := { bits := if r.1 then 1 else 0, ff := r.2 }

/-- (R113) round(±(a × b) ± c). -/
def fmaRes (f : Fmt) (mode : RMode) (a b c : Nat) (negP negC : Bool) : FRes :=
  let x := if negP then (f.val a).negate else f.val a
  let z := if negC then (f.val c).negate else f.val c
  (Val.fma mode.isRd x (f.val b) z).into f mode

/-- (R113) One. -/
def Val.one : Val := .fin false 1 0

/-- (R112) The formats of a conversion, from and to. -/
def cvtFmts : FpCvt → Fmt × Fmt
  | .hs => (.fp32, .fp16) | .bs => (.fp32, .bf16) | .sh => (.fp16, .fp32)
  | .sb => (.bf16, .fp32) | .hb => (.bf16, .fp16) | .bh => (.fp16, .bf16)

/-! ### fadd -/

/-- (R111) add. -/
def execFpAdd (f : FpFmt) (s : State) : Host.Outcome State Fault Refusal :=
  let g := fpFmt f
  startFp 3 3 (((g.val (s.fpA 3 g)).add s.frmMode.isRd (g.val (s.fpB g))).into g s.frmMode) s

/-- (R111) sub. -/
def execFpSub (f : FpFmt) (s : State) : Host.Outcome State Fault Refusal :=
  let g := fpFmt f
  startFp 3 3 (((g.val (s.fpA 3 g)).add s.frmMode.isRd (g.val (s.fpB g)).negate).into g s.frmMode) s

/-- (R111) min. -/
def execFpMin (f : FpFmt) (s : State) : Host.Outcome State Fault Refusal :=
  startFp 3 3 ((fpFmt f).minMax true (s.fpA 3 (fpFmt f)) (s.fpB (fpFmt f))) s

/-- (R111) max. -/
def execFpMax (f : FpFmt) (s : State) : Host.Outcome State Fault Refusal :=
  startFp 3 3 ((fpFmt f).minMax false (s.fpA 3 (fpFmt f)) (s.fpB (fpFmt f))) s

/-- (R111) abs. -/
def execFpAbs (f : FpFmt) (s : State) : Host.Outcome State Fault Refusal :=
  startFp 3 3 { bits := s.fpB (fpFmt f) % 2 ^ (fpFmt f).signPos, ff := 0 } s

/-- (R111) neg. -/
def execFpNeg (f : FpFmt) (s : State) : Host.Outcome State Fault Refusal :=
  let g := fpFmt f
  startFp 3 3 { bits := s.fpB g % 2 ^ g.signPos + g.signBit (!(s.fpB g).testBit g.signPos), ff := 0 } s

/-- (R111) cpsign. -/
def execFpCpsign (f : FpFmt) (s : State) : Host.Outcome State Fault Refusal :=
  let g := fpFmt f
  startFp 3 3 { bits := s.fpA 3 g % 2 ^ g.signPos + g.signBit ((s.fpB g).testBit g.signPos), ff := 0 } s

/-- (R111) eq. -/
def execFpEq (f : FpFmt) (s : State) : Host.Outcome State Fault Refusal :=
  let a := (fpFmt f).val (s.fpA 3 (fpFmt f))
  let b := (fpFmt f).val (s.fpB (fpFmt f))
  startFp 3 3 (cmpRes (a.compare b true (a.eq b))) s

/-- (R111) lt. -/
def execFpLt (f : FpFmt) (s : State) : Host.Outcome State Fault Refusal :=
  let a := (fpFmt f).val (s.fpA 3 (fpFmt f))
  let b := (fpFmt f).val (s.fpB (fpFmt f))
  startFp 3 3 (cmpRes (a.compare b false (a.lt b))) s

/-- (R111) le. -/
def execFpLe (f : FpFmt) (s : State) : Host.Outcome State Fault Refusal :=
  let a := (fpFmt f).val (s.fpA 3 (fpFmt f))
  let b := (fpFmt f).val (s.fpB (fpFmt f))
  startFp 3 3 (cmpRes (a.compare b false (!b.lt a))) s

/-- (R111) class. -/
def execFpClass (f : FpFmt) (s : State) : Host.Outcome State Fault Refusal :=
  startFp 3 3 { bits := (fpFmt f).class (s.fpB (fpFmt f)), ff := 0 } s

/-- (R111) rnd. -/
def execFpRnd (f : FpFmt) (s : State) : Host.Outcome State Fault Refusal :=
  startFp 3 3 ((fpFmt f).rnd (s.fpB (fpFmt f)) s.frmMode) s

/-- (R111, R199) cvt.i2f. -/
def execFpCvtI2f (f : FpFmt) (s : State) : Host.Outcome State Fault Refusal :=
  startFp 3 3 ((Val.ofInt s.opT64.toInt).into (fpFmt f) s.frmMode false) s

/-- (R111, R199) cvt.f2i. -/
def execFpCvtF2i (f : FpFmt) (s : State) : Host.Outcome State Fault Refusal :=
  let r := ((fpFmt f).val (s.fpB (fpFmt f))).toInt (-(2 ^ 63)) (2 ^ 63 - 1) s.frmMode
  startFp 3 3 { bits := (BitVec.ofInt 64 r.1).toNat, ff := r.2 } s

/-- (R112) The conversions between formats. -/
def execFpCvtFormat (c : FpCvt) (s : State) : Host.Outcome State Fault Refusal :=
  let g := cvtFmts c
  startFp 3 3 ((g.1.val (s.fpB g.1)).into g.2 s.frmMode false) s

/-! ### fmul -/

/-- (R113) mul. -/
def execFpMul (f : FpFmt) (s : State) : Host.Outcome State Fault Refusal :=
  let g := fpFmt f
  startFp 4 4 (((g.val (s.fpA 4 g)).mul (g.val (s.fpB g))).into g s.frmMode) s

/-- (R113) fma. -/
def execFpFma (f : FpFmt) (s : State) : Host.Outcome State Fault Refusal :=
  let g := fpFmt f
  startFp 4 4 (fmaRes g s.frmMode (s.fpA 4 g) (s.fpB g) (s.fpC 4 g) false false) s

/-- (R113) fms. -/
def execFpFms (f : FpFmt) (s : State) : Host.Outcome State Fault Refusal :=
  let g := fpFmt f
  startFp 4 4 (fmaRes g s.frmMode (s.fpA 4 g) (s.fpB g) (s.fpC 4 g) false true) s

/-- (R113) fnma. -/
def execFpFnma (f : FpFmt) (s : State) : Host.Outcome State Fault Refusal :=
  let g := fpFmt f
  startFp 4 4 (fmaRes g s.frmMode (s.fpA 4 g) (s.fpB g) (s.fpC 4 g) true false) s

/-- (R113) div. -/
def execFpDiv (f : FpFmt) (s : State) : Host.Outcome State Fault Refusal :=
  let g := fpFmt f
  startFp 4 12 ((g.val (s.fpA 4 g)).divInto (g.val (s.fpB g)) g s.frmMode) s

/-- (R113) sqrt. -/
def execFpSqrt (f : FpFmt) (s : State) : Host.Outcome State Fault Refusal :=
  startFp 4 14 (((fpFmt f).val (s.fpB (fpFmt f))).sqrtInto (fpFmt f) s.frmMode) s

/-- (R113) rcp. -/
def execFpRcp (f : FpFmt) (s : State) : Host.Outcome State Fault Refusal :=
  startFp 4 12 (Val.one.divInto ((fpFmt f).val (s.fpB (fpFmt f))) (fpFmt f) s.frmMode) s

end Sys2Proof.Machine
end

