-- ==== Sys2Proof/Machine/Vec.lean ====
section
/-! DEFINITION. The operations of veca and vecb (R218 to R231). -/

namespace Sys2Proof.Machine

/-! ### Lanes -/

/-- (R218) The width of a lane by LF. -/
def lfWidth (lf : BitVec 3) : Nat := if lf = 0 then 32 else if lf = 1 ∨ lf = 2 then 16 else 8

/-- (R218) The number of lanes. -/
def lfLanes (lf : BitVec 3) : Nat := 512 / lfWidth lf

/-- (R218) The floating-point format of a lane; none in INT8. -/
def lfFmt (lf : BitVec 3) : Option Fmt :=
  match lf.toNat with
  | 0 => some .fp32 | 1 => some .fp16 | 2 => some .bf16 | 4 => some .e4m3 | 5 => some .e5m2
  | _ => none

/-- (R218) Lane `i` of width `w`. -/
def laneAt (v : W512) (w i : Nat) : Nat := v.toNat / 2 ^ (w * i) % 2 ^ w

/-- (R218) The lanes of a value. -/
def lanesOf (v : W512) (w : Nat) : List Nat := (List.range (512 / w)).map (laneAt v w)

/-- (R218) The value that lanes make, lane 0 lowest. -/
def ofLanes (w : Nat) (l : List Nat) : W512 := BitVec.ofNat 512 (packList w l)

/-- (R219) The lane format of a unit. -/
def State.laneFmt (s : State) (u : VecUnit) : BitVec 3 :=
  match u with
  | .veca => s.self.bank.lfA
  | .vecb => s.self.bank.lfB

/-- (R220) Operands o1, o2 and o3 of a unit. -/
def State.vecA (s : State) (u : VecUnit) : W512 := s.opPort u.num 0
def State.vecM (s : State) (u : VecUnit) : W512 := s.opPort u.num 1
def State.vecC (s : State) (u : VecUnit) : W512 := s.opPort u.num 2

/-- (R231) A form starts: `stat` holds its flags, which land in FFLAGS. -/
def startVec (u : VecUnit) (lat : Nat) (out : W512) (ff : BitVec 5) (s : State) : Host.Outcome State Fault Refusal :=
  .next (s.startFixed u.num lat { out := out, aux := 0, stat := ff.setWidth 64 } { Effects.none with ff := ff })

/-- (R220) What a lane form computes from a, b and c: in a floating-point format, and on signed INT8 lanes. -/
structure LaneOp where
  fp : Fmt → RMode → Nat → Nat → Nat → FRes
  int : Int → Int → Int → Int

/-- (R223) sat(v). -/
def sat8 (v : Int) : Int := max (-128) (min 127 v)

/-- (R222, R223) The result of one lane. -/
def LaneOp.lane (op : LaneOp) (lf : BitVec 3) (mode : RMode) (a b c : Nat) : FRes :=
  match lfFmt lf with
  | some f => op.fp f mode a b c
  | none =>
    let r := sat8 (op.int (BitVec.ofNat 8 a).toInt (BitVec.ofNat 8 b).toInt (BitVec.ofNat 8 c).toInt)
    { bits := (BitVec.ofInt 8 r).toNat, ff := 0 }

/-- (R221) Lane `i` of a form under a mask. -/
def LaneOp.masked (op : LaneOp) (lf : BitVec 3) (mode : RMode) (k : MaskMode) (m a b c : W512) (i : Nat) : FRes :=
  let w := lfWidth lf
  let r := op.lane lf mode (laneAt a w i) (laneAt b w i) (laneAt c w i)
  match k with
  | .plain => r
  | .mm => if m.getLsbD i then r else { bits := laneAt c w i, ff := 0 }
  | .ma => if m.getLsbD i then r else { r with ff := 0 }

/-- (R207) The OR of flags. -/
def orFlags (l : List FRes) : BitVec 5 := l.foldl (fun f r => f ||| r.ff) 0

/-- (R221, R231) A lane form starts. -/
def startLanes (op : LaneOp) (u : VecUnit) (k : MaskMode) (lat : Nat) (s : State) : Host.Outcome State Fault Refusal :=
  let lf := s.laneFmt u
  let rs := (List.range (lfLanes lf)).map (op.masked lf s.frmMode k (s.vecM u) (s.vecA u) s.opT (s.vecC u))
  startVec u lat (ofLanes (lfWidth lf) (rs.map (·.bits))) (orFlags rs) s

/-! ### Lane operations -/

/-- (R222, R223) vadd. -/
def laneAdd : LaneOp :=
  { fp := fun f m a b _ => ((f.val a).add m.isRd (f.val b)).into f m, int := fun a b _ => a + b }

/-- (R222, R223) vsub. -/
def laneSub : LaneOp :=
  { fp := fun f m a b _ => ((f.val a).add m.isRd (f.val b).negate).into f m, int := fun a b _ => a - b }

/-- (R222, R223) vmul. -/
def laneMul : LaneOp :=
  { fp := fun f m a b _ => ((f.val a).mul (f.val b)).into f m, int := fun a b _ => a * b }

/-- (R222, R223) vfma. -/
def laneFma : LaneOp :=
  { fp := fun f m a b c => (Val.fma m.isRd (f.val a) (f.val b) (f.val c)).into f m, int := fun a b c => a * b + c }

/-- (R222, R223) vfms. -/
def laneFms : LaneOp :=
  { fp := fun f m a b c => (Val.fma m.isRd (f.val a) (f.val b) (f.val c).negate).into f m, int := fun a b c => a * b - c }

/-- (R222, R223) vmin. -/
def laneMin : LaneOp := { fp := fun f _ a b _ => f.minMax true a b, int := fun a b _ => min a b }

/-- (R222, R223) vmax. -/
def laneMax : LaneOp := { fp := fun f _ a b _ => f.minMax false a b, int := fun a b _ => max a b }

/-- (R222, R223) vabs. -/
def laneAbs : LaneOp := { fp := fun f _ _ b _ => { bits := b % 2 ^ f.signPos, ff := 0 }, int := fun _ b _ => b.natAbs }

/-- (R222, R223) vneg. -/
def laneNeg : LaneOp :=
  { fp := fun f _ _ b _ => { bits := b % 2 ^ f.signPos + f.signBit (!b.testBit f.signPos), ff := 0 }
    int := fun _ b _ => -b }

/-- (R224) Whether a comparison holds for INT8 lanes, and for floating-point lanes with its flags. -/
def cmpInt (c : Cmp) (a b : Int) : Bool :=
  match c with
  | .eq => a == b | .lt => a < b | .le => a ≤ b

def cmpVal (c : Cmp) (a b : Val) : Bool × BitVec 5 :=
  match c with
  | .eq => a.compare b true (a.eq b)
  | .lt => a.compare b false (a.lt b)
  | .le => a.compare b false (!b.lt a)

/-- (R224) A comparison of lanes. -/
def laneCmp (c : Cmp) (lf : BitVec 3) (a b : Nat) : Bool × BitVec 5 :=
  match lfFmt lf with
  | some f => cmpVal c (f.val a) (f.val b)
  | none => (cmpInt c (BitVec.ofNat 8 a).toInt (BitVec.ofNat 8 b).toInt, 0)

/-! ### Moves, logic and integers -/

/-- A form that moves bits or computes on integer lanes: no flag. -/
def startPlain (u : VecUnit) (out : W512) (s : State) : Host.Outcome State Fault Refusal := startVec u 3 out 0 s

/-- (R224, R229) A form that makes every lane from the lane format's count and width. -/
def startMove (u : VecUnit) (f : Nat → Nat → Nat → Nat) (s : State) : Host.Outcome State Fault Refusal :=
  let w := lfWidth (s.laneFmt u)
  startPlain u (ofLanes w ((List.range (512 / w)).map (f (512 / w) w))) s

/-- (R229) C[i]: the lanes of o1, then those of T. -/
def laneC (a b : W512) (n w i : Nat) : Nat := if i < n then laneAt a w i else laneAt b w (i - n)

/-- (R226) The shift count s := T[7:0] mod w. -/
def shiftCount (t : W512) (w : Nat) : Nat := t.toNat % 256 % w

/-- (R225) The mask M[n−1:0] of a value. -/
def maskOf (v : W512) (n : Nat) : Nat := v.toNat % 2 ^ n

/-- (R225) The number of lanes of a unit. -/
def State.laneCount (s : State) (u : VecUnit) : Nat := lfLanes (s.laneFmt u)

/-- (R227) One INT32 sum of vdot4. -/
def dot4 (a b c : W512) (j : Nat) : Nat :=
  let x (v : W512) (t : Nat) : Int := (BitVec.ofNat 8 (laneAt v 8 (4 * j + t))).toInt
  let p := ((List.range 4).map fun t => x a t * x b t).sum
  (BitVec.ofInt 32 ((BitVec.ofNat 32 (laneAt c 32 j)).toInt + p)).toNat

/-! ### Reductions -/

/-- (R216) One level of the pairwise tree. -/
def treeLevel (f : Nat → Nat → FRes) : List FRes → List FRes
  | a :: b :: rest =>
    let r := f a.bits b.bits
    { r with ff := a.ff ||| b.ff ||| r.ff } :: treeLevel f rest
  | l => l

/-- (R216) The pairwise tree over 2^k values. -/
def tree (f : Nat → Nat → FRes) : Nat → List FRes → FRes
  | 0, l => l.headD { bits := 0, ff := 0 }
  | k + 1, l => tree f k (treeLevel f l)

/-- (R223, R228) A reduction starts: `node` on FP32 values, `int` on INT8 lanes. -/
def startReduce (u : VecUnit) (node : RMode → Nat → Nat → FRes) (int : List Int → Int) (s : State) :
    Host.Outcome State Fault Refusal :=
  let lf := s.laneFmt u
  let ls := lanesOf s.opT (lfWidth lf)
  match lfFmt lf with
  | some f =>
    let r := tree (node s.frmMode) (Nat.log2 (lfLanes lf)) (ls.map fun x => (f.val x).into .fp32 s.frmMode false)
    startVec u 5 (BitVec.ofNat 512 r.bits) r.ff s
  | none => startVec u 5 ((BitVec.ofInt 64 (int (ls.map fun x => (BitVec.ofNat 8 x).toInt))).setWidth 512) 0 s

/-! ### Correctly rounded functions -/

/-- (R223) The functions fault in INT8 lanes. -/
def startFunc (i : Instr) (op : Fmt → RMode → Nat → Nat → FRes) (u : VecUnit) (s : State) :
    Host.Outcome State Fault Refusal :=
  let lf := s.laneFmt u
  match lfFmt lf with
  | none => .next (s.faultTrigger i (FaultAt.engine 6 s.opT64))
  | some f =>
    let w := lfWidth lf
    let rs := (List.range (lfLanes lf)).map fun k => op f s.frmMode (laneAt (s.vecA u) w k) (laneAt s.opT w k)
    startVec u 10 (ofLanes w (rs.map (·.bits))) (orFlags rs) s

/-- Σ 2^p / ((2i + 1) × 3^(2i + 1)), the series of atanh(1/3). -/
def atanhThird : Nat → Nat → Nat → Nat → Nat
  | 0, _, _, _ => 0
  | n + 1, i, pow, p => 2 ^ p / ((2 * i + 1) * pow) + atanhThird n (i + 1) (9 * pow) p

/-- ln 2 to about `p` binary places, as a multiple of 2^−p. -/
def ln2At (p : Nat) : Nat := 2 * atanhThird (p / 3) 0 3 p

/-- The terms of e^x from x^k/k! on, all as multiples of 2^−p. -/
def expTerms (p x : Nat) : Nat → Nat → Nat → Nat
  | 0, _, _ => 0
  | n + 1, k, term => term + expTerms p x n (k + 1) (term * x / 2 ^ p / (k + 1))

/-- (R230) The magnitude of 2^b for b = ±m × 2^e other than zero. A power that is no integer is irrational; it stands
here to 250 binary places, closer than any lane's power comes to a boundary of rounding. -/
def exp2Mag (neg : Bool) (m : Nat) (e : Int) : Mag :=
  if 12 < e + (Nat.log2 m : Nat) then { m := 1, e := if neg then -4096 else 4096, sticky := true }
  else if 0 ≤ e then { m := 1, e := signed neg (m * 2 ^ e.toNat), sticky := false }
  else
    let d : Nat := 2 ^ (-e).toNat
    let n := signed neg m / (d : Int)
    let r := (signed neg m % (d : Int)).toNat
    if r = 0 then { m := 1, e := n, sticky := false }
    else { m := expTerms 256 (r * ln2At 256 / d) 80 0 (2 ^ 256), e := n - 256, sticky := true }

/-- `n` binary places of log2 of y × 2^−320, for y in [2^320, 2^321). -/
def logBits : Nat → Nat → Nat → Nat
  | 0, _, acc => acc
  | n + 1, y, acc =>
    let z := y * y / 2 ^ 320
    if 2 ^ 321 ≤ z then logBits n (z / 2) (2 * acc + 1) else logBits n z (2 * acc)

/-- (R230) log2 of m × 2^e above zero, rounded into a format. A logarithm that is no integer is irrational; it stands
here to 128 binary places, as in `exp2Mag`. -/
def log2Into (m : Nat) (e : Int) (f : Fmt) (mode : RMode) : FRes :=
  let l := Nat.log2 m
  let x : Int := e + l
  if m = 2 ^ l then (Val.ofInt x).into f mode false
  else
    let t : Int := x * 2 ^ 128 + (logBits 128 (m * 2 ^ (320 - l)) 0 : Nat)
    if 0 ≤ t then ({ m := t.toNat, e := -128, sticky := true } : Mag).into f mode false false
    else ({ m := t.natAbs - 1, e := -128, sticky := true } : Mag).into f mode false true

/-- The magnitude of 1 ÷ √(m × 2^e) for a number above zero, to more than 64 bits. -/
def rsqrtMag (m : Nat) (e : Int) : Mag :=
  let n := if e % 2 = 0 then m else 2 * m
  let e' := if e % 2 = 0 then e else e - 1
  let k := 70 + Nat.log2 n
  let q := 4 ^ k / n
  let r := isqrt (Nat.log2 q / 2 + 1) q 0
  { m := r, e := -(e' / 2) - k, sticky := r * r * n != 4 ^ k }

/-- (R202) The canonical NaN, with invalid under a condition. -/
def nanRes (f : Fmt) (invalid : Bool) : FRes := { bits := f.nan, ff := ffIf invalid ffNV }

/-- (R230) vexp2. -/
def fnExp2 (f : Fmt) (mode : RMode) (_ b : Nat) : FRes :=
  match f.val b with
  | .nan s => nanRes f s
  | .inf true => (Val.fin false 0 0).into f mode false
  | .inf false => (Val.inf false).into f mode false
  | .fin neg m e =>
    if m = 0 then (Val.fin false 1 0).into f mode false else (exp2Mag neg m e).into f mode false false

/-- (R230) vlog2. -/
def fnLog2 (f : Fmt) (mode : RMode) (_ b : Nat) : FRes :=
  match f.val b with
  | .nan s => nanRes f s
  | .inf neg => if neg then nanRes f true else (Val.inf false).into f mode false
  | .fin neg m e =>
    if m = 0 then (Val.inf true).byZero f mode else if neg then nanRes f true else log2Into m e f mode

/-- (R230) vrcp. -/
def fnRcp (f : Fmt) (mode : RMode) (_ b : Nat) : FRes := (Val.fin false 1 0).divInto (f.val b) f mode

/-- (R230) vrsqrt. -/
def fnRsqrt (f : Fmt) (mode : RMode) (_ b : Nat) : FRes :=
  match f.val b with
  | .nan s => nanRes f s
  | .inf neg => if neg then nanRes f true else (Val.fin false 0 0).into f mode false
  | .fin neg m e =>
    if m = 0 then (Val.inf neg).byZero f mode
    else if neg then nanRes f true else (rsqrtMag m e).into f mode false false

/-- (R230) vsqrt. -/
def fnSqrt (f : Fmt) (mode : RMode) (_ b : Nat) : FRes := (f.val b).sqrtInto f mode

/-- (R230) vdiv. -/
def fnDiv (f : Fmt) (mode : RMode) (a b : Nat) : FRes := (f.val a).divInto (f.val b) f mode

/-! ### Operations -/

/-- (R218, R219) vfmt. -/
def execVecVfmt (u : VecUnit) (s : State) : Host.Outcome State Fault Refusal :=
  let t := s.opT64.toNat
  if 6 ≤ t then .next (s.faultTrigger (.vecVfmt u) (FaultAt.at .xword s.opT64))
  else .next (s.updSelf fun x => x.updBank fun b => match u with
    | .veca => { b with lfA := BitVec.ofNat 3 t }
    | .vecb => { b with lfB := BitVec.ofNat 3 t })

/-- (R221 to R223) vadd. -/
def execVadd (u : VecUnit) (m : MaskMode) (s : State) : Host.Outcome State Fault Refusal :=
  startLanes laneAdd u m 3 s

/-- (R221 to R223) vsub. -/
def execVsub (u : VecUnit) (m : MaskMode) (s : State) : Host.Outcome State Fault Refusal :=
  startLanes laneSub u m 3 s

/-- (R221 to R223) vmul. -/
def execVmul (u : VecUnit) (m : MaskMode) (s : State) : Host.Outcome State Fault Refusal :=
  startLanes laneMul u m 3 s

/-- (R221 to R223) vfma. -/
def execVfma (u : VecUnit) (m : MaskMode) (s : State) : Host.Outcome State Fault Refusal :=
  startLanes laneFma u m 4 s

/-- (R221 to R223) vfms. -/
def execVfms (u : VecUnit) (m : MaskMode) (s : State) : Host.Outcome State Fault Refusal :=
  startLanes laneFms u m 4 s

/-- (R221 to R223) vmin. -/
def execVmin (u : VecUnit) (m : MaskMode) (s : State) : Host.Outcome State Fault Refusal :=
  startLanes laneMin u m 3 s

/-- (R221 to R223) vmax. -/
def execVmax (u : VecUnit) (m : MaskMode) (s : State) : Host.Outcome State Fault Refusal :=
  startLanes laneMax u m 3 s

/-- (R222, R223) vabs. -/
def execVabs (u : VecUnit) (s : State) : Host.Outcome State Fault Refusal :=
  startLanes laneAbs u .plain 3 s

/-- (R222, R223) vneg. -/
def execVneg (u : VecUnit) (s : State) : Host.Outcome State Fault Refusal :=
  startLanes laneNeg u .plain 3 s

/-- (R224) vcmp. -/
def execVcmp (u : VecUnit) (c : Cmp) (s : State) : Host.Outcome State Fault Refusal :=
  let lf := s.laneFmt u
  let w := lfWidth lf
  let rs := (List.range (lfLanes lf)).map fun i => laneCmp c lf (laneAt (s.vecA u) w i) (laneAt s.opT w i)
  startVec u 3 (BitVec.ofNat 512 (packList 1 (rs.map fun r => if r.1 then 1 else 0))) (rs.foldl (fun f r => f ||| r.2) 0) s

/-- (R224) vsel. -/
def execVsel (u : VecUnit) (s : State) : Host.Outcome State Fault Refusal :=
  startMove u (fun _ w i => if (s.vecM u).getLsbD i then laneAt (s.vecA u) w i else laneAt s.opT w i) s

/-- (R226) vand. -/
def execVand (u : VecUnit) (s : State) : Host.Outcome State Fault Refusal :=
  startPlain u (s.vecA u &&& s.opT) s

/-- (R226) vor. -/
def execVor (u : VecUnit) (s : State) : Host.Outcome State Fault Refusal :=
  startPlain u (s.vecA u ||| s.opT) s

/-- (R226) vxor. -/
def execVxor (u : VecUnit) (s : State) : Host.Outcome State Fault Refusal :=
  startPlain u (s.vecA u ^^^ s.opT) s

/-- (R226) vnot. -/
def execVnot (u : VecUnit) (s : State) : Host.Outcome State Fault Refusal :=
  startPlain u (~~~s.opT) s

/-- (R226) vshl. -/
def execVshl (u : VecUnit) (s : State) : Host.Outcome State Fault Refusal :=
  startMove u (fun _ w i => laneAt (s.vecA u) w i * 2 ^ shiftCount s.opT w % 2 ^ w) s

/-- (R226) vshr. -/
def execVshr (u : VecUnit) (s : State) : Host.Outcome State Fault Refusal :=
  startMove u (fun _ w i => laneAt (s.vecA u) w i / 2 ^ shiftCount s.opT w) s

/-- (R226) vsar. -/
def execVsar (u : VecUnit) (s : State) : Host.Outcome State Fault Refusal :=
  startMove u (fun _ w i => ((BitVec.ofNat w (laneAt (s.vecA u) w i)).sshiftRight (shiftCount s.opT w)).toNat) s

/-- (R227) vadd.i. -/
def execVaddI (u : VecUnit) (s : State) : Host.Outcome State Fault Refusal :=
  startMove u (fun _ w i => (laneAt (s.vecA u) w i + laneAt s.opT w i) % 2 ^ w) s

/-- (R227) vsub.i. -/
def execVsubI (u : VecUnit) (s : State) : Host.Outcome State Fault Refusal :=
  startMove u (fun _ w i => (laneAt (s.vecA u) w i + 2 ^ w - laneAt s.opT w i) % 2 ^ w) s

/-- (R227) vmul.i. -/
def execVmulI (u : VecUnit) (s : State) : Host.Outcome State Fault Refusal :=
  startMove u (fun _ w i => laneAt (s.vecA u) w i * laneAt s.opT w i % 2 ^ w) s

/-- (R227) vdot4. -/
def execVdot4 (u : VecUnit) (s : State) : Host.Outcome State Fault Refusal :=
  startVec u 4 (ofLanes 32 ((List.range 16).map (dot4 (s.vecA u) s.opT (s.vecC u)))) 0 s

/-- (R228) vredadd. -/
def execVredadd (u : VecUnit) (s : State) : Host.Outcome State Fault Refusal :=
  startReduce u (fun m a b => ((Fmt.fp32.val a).add m.isRd (Fmt.fp32.val b)).into .fp32 m) List.sum s

/-- (R228) vredmax. -/
def execVredmax (u : VecUnit) (s : State) : Host.Outcome State Fault Refusal :=
  startReduce u (fun _ a b => Fmt.fp32.minMax false a b) (fun l => l.foldl max (-128)) s

/-- (R228) vredmin. -/
def execVredmin (u : VecUnit) (s : State) : Host.Outcome State Fault Refusal :=
  startReduce u (fun _ a b => Fmt.fp32.minMax true a b) (fun l => l.foldl min 127) s

/-- (R229) vperm. -/
def execVperm (u : VecUnit) (s : State) : Host.Outcome State Fault Refusal :=
  startMove u (fun n w i => laneAt s.opT w (laneAt (s.vecA u) 8 i % 64 % n)) s

/-- (R229) vbcast. -/
def execVbcast (u : VecUnit) (s : State) : Host.Outcome State Fault Refusal :=
  startMove u (fun n w _ => laneAt s.opT w ((s.vecA u).toNat % 64 % n)) s

/-- (R229) vslide. -/
def execVslide (u : VecUnit) (s : State) : Host.Outcome State Fault Refusal :=
  startMove u (fun n w i => laneC (s.vecA u) s.opT n w (i + min ((s.vecM u).toNat % 128) n)) s

/-- (R229) vzip. -/
def execVzip (u : VecUnit) (s : State) : Host.Outcome State Fault Refusal :=
  let h := (s.vecM u).toNat % 2
  startMove u (fun n w i => laneAt (if i % 2 = 0 then s.vecA u else s.opT) w (i / 2 + h * (n / 2))) s

/-- (R229) vunzip. -/
def execVunzip (u : VecUnit) (s : State) : Host.Outcome State Fault Refusal :=
  startMove u (fun n w i => laneC (s.vecA u) s.opT n w (2 * i + (s.vecM u).toNat % 2)) s

/-- (R230) vexp2. -/
def execVexp2 (u : VecUnit) (s : State) : Host.Outcome State Fault Refusal :=
  startFunc (.vexp2 u) fnExp2 u s

/-- (R230) vlog2. -/
def execVlog2 (u : VecUnit) (s : State) : Host.Outcome State Fault Refusal :=
  startFunc (.vlog2 u) fnLog2 u s

/-- (R230) vrcp. -/
def execVrcp (u : VecUnit) (s : State) : Host.Outcome State Fault Refusal :=
  startFunc (.vrcp u) fnRcp u s

/-- (R230) vrsqrt. -/
def execVrsqrt (u : VecUnit) (s : State) : Host.Outcome State Fault Refusal :=
  startFunc (.vrsqrt u) fnRsqrt u s

/-- (R230) vsqrt. -/
def execVsqrt (u : VecUnit) (s : State) : Host.Outcome State Fault Refusal :=
  startFunc (.vsqrt u) fnSqrt u s

/-- (R230) vdiv. -/
def execVdiv (u : VecUnit) (s : State) : Host.Outcome State Fault Refusal :=
  startFunc (.vdiv u) fnDiv u s

/-- (R225) mand. -/
def execMand (u : VecUnit) (s : State) : Host.Outcome State Fault Refusal :=
  startPlain u (BitVec.ofNat 512 (maskOf (s.vecA u &&& s.opT) (s.laneCount u))) s

/-- (R225) mor. -/
def execMor (u : VecUnit) (s : State) : Host.Outcome State Fault Refusal :=
  startPlain u (BitVec.ofNat 512 (maskOf (s.vecA u ||| s.opT) (s.laneCount u))) s

/-- (R225) mnot. -/
def execMnot (u : VecUnit) (s : State) : Host.Outcome State Fault Refusal :=
  startPlain u (BitVec.ofNat 512 (maskOf (~~~s.opT) (s.laneCount u))) s

/-- (R225) mpopc. -/
def execMpopc (u : VecUnit) (s : State) : Host.Outcome State Fault Refusal :=
  startPlain u (BitVec.ofNat 512 ((List.range (s.laneCount u)).countP fun i => s.opT.getLsbD i)) s

/-- (R225) mfirst. -/
def execMfirst (u : VecUnit) (s : State) : Host.Outcome State Fault Refusal :=
  startPlain u (BitVec.ofNat 512 (((List.range (s.laneCount u)).find? fun i => s.opT.getLsbD i).getD (s.laneCount u))) s

end Sys2Proof.Machine
end

