-- ==== Sys2Proof/Machine/Cvt.lean ====
section
/-! DEFINITION. The operations of cvt (R232 to R242). -/

namespace Sys2Proof.Machine

/-! ### Shared operations -/

/-- (R232) Operands o1, the control word o2[63:0], and o3. -/
def State.cvtA (s : State) : W512 := s.opPort 9 0
def State.cvtCtl (s : State) : W64 := s.opPort64 9 1
def State.cvtC (s : State) : W512 := s.opPort 9 2

/-- (R231, R232) A form starts. -/
def startCvt (lat : Nat) (out aux : W512) (ff : BitVec 5) (s : State) : Host.Outcome State Fault Refusal :=
  .next (s.startFixed 9 lat { out := out, aux := aux, stat := ff.setWidth 64 } { Effects.none with ff := ff })

/-- (R233) The rounding and the saturation of a form. -/
def packRound (p : PackMode) (m : RMode) : RMode × Bool :=
  match p with
  | .plain => (m, false)
  | .sat => (m, true)
  | .ro => (.ro, false)

/-- (R233) A pack form: the source lanes of o1, then those of T, narrowed. -/
def startPack (src dst : Fmt) (p : PackMode) (s : State) : Host.Outcome State Fault Refusal :=
  let m := packRound p s.frmMode
  let rs := (lanesOf s.cvtA src.bits ++ lanesOf s.opT src.bits).map fun x => (src.val x).into dst m.1 m.2
  startCvt 4 (ofLanes dst.bits (rs.map (·.bits))) 0 (orFlags rs) s

/-- (R234) An unpack form: the lower half of T's lanes into out, the upper half into aux. -/
def startUnpack (src dst : Fmt) (s : State) : Host.Outcome State Fault Refusal :=
  let rs := (lanesOf s.opT src.bits).map fun x => (src.val x).into dst .rne false
  let n := rs.length / 2
  startCvt 4 (ofLanes dst.bits ((rs.take n).map (·.bits))) (ofLanes dst.bits ((rs.drop n).map (·.bits))) (orFlags rs) s

/-! ### Stochastic rounding -/

/-- (R237) sr(x, r, K) of an FP32 encoding into a format. -/
def srLane (f : Fmt) (k : Nat) (x r : Nat) : FRes :=
  match Fmt.fp32.val x with
  | .nan s => nanRes f s
  | .inf neg => (Val.inf neg).into f .rne false
  | .fin neg m e =>
    if m = 0 then { bits := f.signBit neg, ff := 0 }
    else
      let g : Mag := { m := m, e := e, sticky := false }
      let q := g.grid f.frac f.low
      let lo := (g.at q .rz false).1
      let d := if q ≤ e then 0 else m % 2 ^ (q - e).toNat * 2 ^ k / 2 ^ (q - e).toNat
      let y := if 2 ^ k ≤ d + r then lo + 1 else lo
      let code := (q - f.low).toNat * 2 ^ f.frac + y
      let exact := q ≤ e || (y == lo && m % 2 ^ (q - e).toNat == 0)
      if f.maxCode < code then { (Val.inf neg).into f .rne false with ff := ffOF ||| ffNX }
      else { bits := f.signBit neg + code, ff := ffIf (!exact) ffNX ||| ffIf (!exact && code < 2 ^ f.frac) ffUF }

/-- (R237, R238) The lanes of an sr form in ascending order, each with one draw. -/
def srLanes (f : Fmt) (k : Nat) : List Nat → Spindle → Spindle × List FRes
  | [], p => (p, [])
  | x :: xs, p =>
    let d := p.next k
    let rest := srLanes f k xs d.1
    (rest.1, srLane f k x d.2 :: rest.2)

/-- (R236) The control word of the sr forms. -/
def srBad (c : W64) : Bool := (c &&& ~~~0xF03#64) != 0 || (c.extractLsb' 8 4).toNat < 4 || 12 < (c.extractLsb' 8 4).toNat

/-- (R236 to R238) An sr form. -/
def startSr (i : Instr) (f : Fmt) (s : State) : Host.Outcome State Fault Refusal :=
  let c := s.cvtCtl
  if srBad c then .next (s.faultTrigger i (FaultAt.at .xword s.opT64))
  else
    let n := c.toNat % 4
    let r := srLanes f (c.extractLsb' 8 4).toNat (lanesOf s.cvtA 32 ++ lanesOf s.opT 32) (s.self.spindle n)
    startCvt 4 (ofLanes 16 (r.2.map (·.bits))) 0 (orFlags r.2) (s.updSelf fun x => x.setSpindle n r.1)

/-! ### SQ blocks -/

/-- (R239) n, k and QTR of a control word. -/
def sqN (c : W64) : Nat := 16 * 2 ^ (c.toNat / 4 % 4)
def sqKOf (c : W64) : Nat := sqK (9 + c.toNat % 4)
def sqQtr (c : W64) : Nat := c.toNat / 16 % 4

/-- (R239) A control word that raises FLT_XWORD. -/
def sqBad (c : W64) : Bool := 64 ≤ c.toNat || c.toNat / 4 % 4 == 3 || c.toNat % 4 == 3 || sqN c / 16 ≤ sqQtr c

/-- (R239) An SQ form with its control word checked. -/
def startSq (i : Instr) (go : State → Host.Outcome State Fault Refusal) (s : State) : Host.Outcome State Fault Refusal :=
  if sqBad s.cvtCtl then .next (s.faultTrigger i (FaultAt.at .xword s.opT64)) else go s

/-- (R202) An FP32 magnitude; every NaN is the canonical one. -/
def fp32Mag (n : Nat) : Nat := if 0x7F800000 < n % 2 ^ 31 then 0x7FC00000 else n % 2 ^ 31

/-- (R240) The running amax after a lane. -/
def amaxLane (a x : Nat) : Nat :=
  if 0x7F800000 < a then a else if 0x7F800000 < x % 2 ^ 31 then 0x7FC00000 else max a (x % 2 ^ 31)

/-- (R240) The scale for an amax, with its flags. -/
def amaxScale (k a : Nat) : Nat × BitVec 5 :=
  if 0x7F800000 < a then (0xFF80, 0)
  else if a = 0x7F800000 then (0xFF00, 0)
  else if a = 0 then (0, 0)
  else match sqScaleFor k (Fmt.fp32.val a).mag with
    | some c => (c, 0)
    | none => (0xFEFF, ffOF ||| ffNX)

/-- (R213, R241) An infinite input takes this in place of q: above every magnitude. -/
def infQuot : Mag := { m := 2 ^ 24, e := 0, sticky := false }

/-- (R241) q of an input under a finite scale above zero. -/
def quarterQ (s : Nat × Int) (v : Val) : Mag :=
  match v with
  | .nan _ => { m := 0, e := 0, sticky := false }
  | .inf _ => infQuot
  | .fin _ m e => sqQuot m e s

/-- (R241) The micro-exponents of a quarter. -/
def quarterMus (k scale : Nat) (vs : List Val) : List Nat :=
  match sqScale scale with
  | .fin _ m e => if m = 0 then List.replicate (vs.length / 2) 0 else sqMus k (vs.map (quarterQ (m, e)))
  | _ => List.replicate (vs.length / 2) 0

/-- (R241) The magnitude of an element and its flags; under a NaN scale every element is NaN (R211), so an input that is
not a NaN differs from it and raises inexact (log 28). -/
def quarterElem (k scale mu : Nat) (v : Val) : Nat × BitVec 5 :=
  match sqScale scale with
  | .nan _ => (0, if v.isNan then ffIf v.isSnan ffNV else ffNX)
  | .inf _ => match v with
    | .nan _ => (0, ffNV)
    | .inf _ => (2 ^ k - 1, 0)
    | .fin _ m _ => (0, ffIf (m != 0) ffNX)
  | .fin _ sm se => match v with
    | .nan _ => (0, ffNV)
    | .inf _ => (if sm = 0 then 0 else 2 ^ k - 1, ffOF ||| ffNX)
    | .fin neg m e =>
      if m = 0 then (0, 0)
      else if sm = 0 then (0, ffUF ||| ffNX)
      else
        let r := (sqQuot m e (sm, se)).scaledRne ((k - 1 : Nat) + mu)
        let z := min r (2 ^ k - 1)
        (z, ffIf (2 ^ k - 1 < r) (ffOF ||| ffNX) ||| ffIf (z == 0) (ffUF ||| ffNX)
          ||| ffIf (!((sqElem k (.fin false sm se) neg z mu).same v)) ffNX)

/-- One field of a number written. -/
def putField (n pos w v : Nat) : Nat := n - n / 2 ^ pos % 2 ^ w * 2 ^ pos + v % 2 ^ w * 2 ^ pos

/-- (R241) The image with a quarter's micro-exponents and elements written from pair and element `i` on. -/
def putMus (n : Nat) (i : Nat) : List Nat → Nat
  | [] => n
  | m :: ms => putMus (putField n (16 + i) 1 m) (i + 1) ms

def putElems (blk k n : Nat) (i : Nat) : List Nat → Nat
  | [] => n
  | e :: es => putElems blk k (putField n (16 + blk / 2 + (k + 1) * i) (k + 1) e) (i + 1) es

/-! ### Operations -/

/-- (R233) pack.bf16. -/
def execPackBf16 (p : PackMode) (s : State) : Host.Outcome State Fault Refusal :=
  startPack .fp32 .bf16 p s

/-- (R233) pack.h. -/
def execPackH (p : PackMode) (s : State) : Host.Outcome State Fault Refusal :=
  startPack .fp32 .fp16 p s

/-- (R233) pack.e4m3. -/
def execPackE4m3 (p : PackMode) (s : State) : Host.Outcome State Fault Refusal :=
  startPack .bf16 .e4m3 p s

/-- (R233) pack.e5m2. -/
def execPackE5m2 (p : PackMode) (s : State) : Host.Outcome State Fault Refusal :=
  startPack .fp16 .e5m2 p s

/-- (R234) unpack.bf16. -/
def execUnpackBf16 (s : State) : Host.Outcome State Fault Refusal :=
  startUnpack .bf16 .fp32 s

/-- (R234) unpack.h. -/
def execUnpackH (s : State) : Host.Outcome State Fault Refusal :=
  startUnpack .fp16 .fp32 s

/-- (R234) unpack.e4m3. -/
def execUnpackE4m3 (s : State) : Host.Outcome State Fault Refusal :=
  startUnpack .e4m3 .bf16 s

/-- (R234) unpack.e5m2. -/
def execUnpackE5m2 (s : State) : Host.Outcome State Fault Refusal :=
  startUnpack .e5m2 .fp16 s

/-- (R199, R235) i2f. -/
def execCvtI2f (s : State) : Host.Outcome State Fault Refusal :=
  let rs := (lanesOf s.opT 32).map fun x => (Val.ofInt (BitVec.ofNat 32 x).toInt).into .fp32 s.frmMode false
  startCvt 4 (ofLanes 32 (rs.map (·.bits))) 0 (orFlags rs) s

/-- (R199, R235) f2i. -/
def execCvtF2i (s : State) : Host.Outcome State Fault Refusal :=
  let rs := (lanesOf s.opT 32).map fun x =>
    let r := (Fmt.fp32.val x).toInt (-(2 ^ 31)) (2 ^ 31 - 1) s.frmMode
    ({ bits := (BitVec.ofInt 32 r.1).toNat, ff := r.2 } : FRes)
  startCvt 4 (ofLanes 32 (rs.map (·.bits))) 0 (orFlags rs) s

/-- (R237) sr.bf16. -/
def execSrBf16 (s : State) : Host.Outcome State Fault Refusal :=
  startSr .srBf16 .bf16 s

/-- (R237) sr.h. -/
def execSrH (s : State) : Host.Outcome State Fault Refusal :=
  startSr .srH .fp16 s

/-- (R240) sqscale. DESIGN CHOICE (log 15): a signalling NaN in o3[63:32] raises nothing; R240 names the lanes alone. -/
def execSqscale (s : State) : Host.Outcome State Fault Refusal :=
  startSq .sqscale (fun s =>
    let xs := lanesOf s.opT 32
    let a := xs.foldl amaxLane (fp32Mag (laneAt s.cvtC 32 1))
    let c := amaxScale (sqKOf s.cvtCtl) a
    startCvt 8 (BitVec.ofNat 512 (a * 2 ^ 32 + c.1)) 0 (c.2 ||| ffIf (xs.any fun x => (Fmt.fp32.val x).isSnan) ffNV) s) s

/-- (R241) sqenc. -/
def execSqenc (s : State) : Host.Outcome State Fault Refusal :=
  startSq .sqenc (fun s =>
    let k := sqKOf s.cvtCtl
    let qtr := sqQtr s.cvtCtl
    let scale := laneAt s.cvtC 16 0
    let vs := (lanesOf s.opT 32).map Fmt.fp32.val
    let mus := quarterMus k scale vs
    let es := (List.range 16).map fun l => quarterElem k scale (mus.getD (l / 2) 0) (vs.getD l (.fin false 0 0))
    let codes := (List.range 16).map fun l =>
      (if (laneAt s.opT 32 l).testBit 31 then 2 ^ k else 0) + (es.getD l (0, 0)).1
    let img := putElems (sqN s.cvtCtl) k (putMus (putField s.cvtA.toNat 0 16 scale) (8 * qtr) mus) (16 * qtr) codes
    startCvt 8 (BitVec.ofNat 512 img) (BitVec.ofNat 512 (img / 2 ^ 512)) (es.foldl (fun f e => f ||| e.2) 0) s) s

/-- (R214, R242) sqdec. -/
def execSqdec (s : State) : Host.Outcome State Fault Refusal :=
  startSq .sqdec (fun s =>
    let k := sqKOf s.cvtCtl
    let vals := (sqParse (sqN s.cvtCtl) k (s.opT.toNat + 2 ^ 512 * s.cvtC.toNat)).vals k
    let rs := (List.range 16).map fun l =>
      (vals.getD (16 * sqQtr s.cvtCtl + l) (.nan false)).into .fp32 .rne false
    startCvt 8 (ofLanes 32 (rs.map (·.bits))) 0 (orFlags rs) s) s

end Sys2Proof.Machine
end

