-- ==== Sys2Proof/Machine/Int.lean ====
section
/-! DEFINITION. The integer forms of inta and intb (R107 to R109). -/

namespace Sys2Proof.Machine

/-! ### Shared operations -/

/-- What a form computes at each width from its operands: `res` and `x` (R107). -/
abbrev IntFn := (n : Nat) → BitVec n → BitVec n → BitVec n × BitVec n

/-- (R107) out and aux of a form: the low 32 bits extended, or all 64 bits. -/
def intResult (w : Bool) (f : IntFn) (a b : W64) : W64 × W64 :=
  if w then
    let r := f 32 (a.setWidth 32) (b.setWidth 32)
    (r.1.signExtend 64, r.2.signExtend 64)
  else f 64 a b

/-- A record of 64-bit out and aux. -/
def intRec (r : W64 × W64) : Rec := { out := r.1.setWidth 512, aux := r.2.setWidth 512, stat := 0 }

/-- (R44, R107) A form of fixed latency starts. -/
def startInt (u : IntUnit) (w : Bool) (lat : Nat) (f : IntFn) (s : State) : Host.Outcome State Fault Refusal :=
  .next (s.startFixed u.num lat (intRec (intResult w f (s.opPort64 u.num 0) s.opT64)) Effects.none)

/-- (R107) A form that delivers only `res`. -/
def intPlain (f : (n : Nat) → BitVec n → BitVec n → BitVec n) : IntFn := fun n a b => (f n a b, 0)

/-- (R107) A 64-bit form of three operands: a, b and o2. -/
def startInt3 (u : IntUnit) (f : W64 → W64 → W64 → W64) (s : State) : Host.Outcome State Fault Refusal :=
  .next (s.startFixed u.num 1 (rec64 (f (s.opPort64 u.num 0) s.opT64 (s.opPort64 u.num 1))) Effects.none)

/-- (R44, R108) A divide or remainder starts. -/
def startIntDiv (u : IntUnit) (w : Bool) (f : IntFn) (s : State) : Host.Outcome State Fault Refusal :=
  .next (s.startDiv u.num (if w then 22 else 38) (intRec (intResult w f (s.opPort64 u.num 0) s.opT64)))

/-- 1 or 0. -/
def bit64 {n : Nat} (b : Bool) : BitVec n := if b then 1 else 0

/-! ### What the forms compute -/

/-- (R107) Carry and signed overflow of an addition. -/
def addAux : IntFn := fun n a b =>
  (a + b, BitVec.ofNat n ((if 2 ^ n ≤ a.toNat + b.toNat then 1 else 0)
    + if (a + b).toInt = a.toInt + b.toInt then 0 else 2))

/-- (R107) Borrow and signed overflow of a subtraction. -/
def subAux : IntFn := fun n a b =>
  (a - b, BitVec.ofNat n ((if a.toNat < b.toNat then 1 else 0) + if (a - b).toInt = a.toInt - b.toInt then 0 else 2))

/-- (R107) The low and high halves of the signed product. -/
def mulAux : IntFn := fun n a b => (a * b, BitVec.ofInt n (a.toInt * b.toInt / 2 ^ n))

/-- (R107) The number of zeros above the highest one in the low `n` bits. -/
def leadingZeros (v : W64) : Nat := if v = 0 then 64 else 63 - Nat.log2 v.toNat

/-- (R107) The number of zeros below the lowest one, looking at bits `i` and up. -/
def trailingZeros (v : W64) : Nat := ((List.range 64).find? fun i => v.getLsbD i).getD 64

/-- (R107) The number of ones among the low `n` bits. -/
def popCount {w : Nat} (v : BitVec w) : Nat → Nat
  | 0 => 0
  | n + 1 => (if v.getLsbD n then 1 else 0) + popCount v n

/-- (R107) Bit i moved to bit 63 - i. -/
def brev64 (v : W64) : W64 := BitVec.ofNat 64 ((List.range 64).foldl (fun a i => 2 * a + if v.getLsbD i then 1 else 0) 0)

/-- (R107) Byte i moved to byte 7 - i. -/
def bswap64 (v : W64) : W64 := BitVec.ofNat 64 (leNat (leBytes 8 v.toNat).reverse)

/-- (R107) p and l of bext and bins. -/
def fieldPos (b : W64) : Nat := (b.extractLsb' 0 6).toNat
def fieldLen (b : W64) : Nat := min (b.extractLsb' 8 7).toNat 64

/-- (R107) The low `l` bits set. -/
def onesBelow (l : Nat) : W64 := BitVec.ofNat 64 (2 ^ l - 1)

/-- (R107) bext. -/
def bext64 (a b : W64) : W64 := (a >>> fieldPos b) &&& onesBelow (fieldLen b)

/-- (R107) bins. -/
def bins64 (a b c : W64) : W64 :=
  let mask := onesBelow (fieldLen b) <<< fieldPos b
  (a &&& ~~~mask) ||| ((c <<< fieldPos b) &&& mask)

/-- (R107) The source width of an extension. -/
def extBits : ExtWidth → Nat
  | .b => 8 | .h => 16 | .w => 32

/-- (R108) Signed quotient and remainder, truncating toward zero. -/
def sdivRem : IntFn := fun n a b =>
  if b = 0 then (BitVec.allOnes n, a) else (BitVec.ofInt n (a.toInt.tdiv b.toInt), BitVec.ofInt n (a.toInt.tmod b.toInt))

/-- (R108) Unsigned quotient and remainder. -/
def udivRem : IntFn := fun n a b =>
  if b = 0 then (BitVec.allOnes n, a) else (BitVec.ofNat n (a.toNat / b.toNat), BitVec.ofNat n (a.toNat % b.toNat))

/-- (R108) Remainder first. -/
def remFirst (f : IntFn) : IntFn := fun n a b => ((f n a b).2, (f n a b).1)

/-! ### The forms -/

/-- (R107) add. -/
def execIntAdd (u : IntUnit) (w : Bool) (s : State) : Host.Outcome State Fault Refusal :=
  startInt u w 1 addAux s

/-- (R107) sub. -/
def execIntSub (u : IntUnit) (w : Bool) (s : State) : Host.Outcome State Fault Refusal :=
  startInt u w 1 subAux s

/-- (R107) and. -/
def execIntAnd (u : IntUnit) (s : State) : Host.Outcome State Fault Refusal :=
  startInt u false 1 (intPlain fun _ a b => a &&& b) s

/-- (R107) or. -/
def execIntOr (u : IntUnit) (s : State) : Host.Outcome State Fault Refusal :=
  startInt u false 1 (intPlain fun _ a b => a ||| b) s

/-- (R107) xor. -/
def execIntXor (u : IntUnit) (s : State) : Host.Outcome State Fault Refusal :=
  startInt u false 1 (intPlain fun _ a b => a ^^^ b) s

/-- (R107) andn. -/
def execIntAndn (u : IntUnit) (s : State) : Host.Outcome State Fault Refusal :=
  startInt u false 1 (intPlain fun _ a b => a &&& ~~~b) s

/-- (R107) orn. -/
def execIntOrn (u : IntUnit) (s : State) : Host.Outcome State Fault Refusal :=
  startInt u false 1 (intPlain fun _ a b => a ||| ~~~b) s

/-- (R107) shl. -/
def execIntShl (u : IntUnit) (w : Bool) (s : State) : Host.Outcome State Fault Refusal :=
  startInt u w 1 (intPlain fun n a b => a <<< (b.toNat % n)) s

/-- (R107) shr. -/
def execIntShr (u : IntUnit) (w : Bool) (s : State) : Host.Outcome State Fault Refusal :=
  startInt u w 1 (intPlain fun n a b => a >>> (b.toNat % n)) s

/-- (R107) sar. -/
def execIntSar (u : IntUnit) (w : Bool) (s : State) : Host.Outcome State Fault Refusal :=
  startInt u w 1 (intPlain fun n a b => a.sshiftRight (b.toNat % n)) s

/-- (R107) rol. -/
def execIntRol (u : IntUnit) (w : Bool) (s : State) : Host.Outcome State Fault Refusal :=
  startInt u w 1 (intPlain fun n a b => a.rotateLeft (b.toNat % n)) s

/-- (R107) ror. -/
def execIntRor (u : IntUnit) (w : Bool) (s : State) : Host.Outcome State Fault Refusal :=
  startInt u w 1 (intPlain fun n a b => a.rotateRight (b.toNat % n)) s

/-- (R107) mul. -/
def execIntMul (u : IntUnit) (w : Bool) (s : State) : Host.Outcome State Fault Refusal :=
  startInt u w 3 mulAux s

/-- (R107) mulh. -/
def execIntMulh (u : IntUnit) (w : Bool) (s : State) : Host.Outcome State Fault Refusal :=
  startInt u w 3 (intPlain fun n a b => (mulAux n a b).2) s

/-- (R107) mulhu. -/
def execIntMulhu (u : IntUnit) (s : State) : Host.Outcome State Fault Refusal :=
  startInt u false 3 (intPlain fun n a b => BitVec.ofNat n (a.toNat * b.toNat / 2 ^ n)) s

/-- (R108) div. -/
def execIntDiv (u : IntUnit) (w : Bool) (s : State) : Host.Outcome State Fault Refusal :=
  startIntDiv u w sdivRem s

/-- (R108) divu. -/
def execIntDivu (u : IntUnit) (w : Bool) (s : State) : Host.Outcome State Fault Refusal :=
  startIntDiv u w udivRem s

/-- (R108) rem. -/
def execIntRem (u : IntUnit) (w : Bool) (s : State) : Host.Outcome State Fault Refusal :=
  startIntDiv u w (remFirst sdivRem) s

/-- (R108) remu. -/
def execIntRemu (u : IntUnit) (w : Bool) (s : State) : Host.Outcome State Fault Refusal :=
  startIntDiv u w (remFirst udivRem) s

/-- (R107) min. -/
def execIntMin (u : IntUnit) (s : State) : Host.Outcome State Fault Refusal :=
  startInt u false 1 (intPlain fun _ a b => if a.slt b then a else b) s

/-- (R107) minu. -/
def execIntMinu (u : IntUnit) (s : State) : Host.Outcome State Fault Refusal :=
  startInt u false 1 (intPlain fun _ a b => if a.ult b then a else b) s

/-- (R107) max. -/
def execIntMax (u : IntUnit) (s : State) : Host.Outcome State Fault Refusal :=
  startInt u false 1 (intPlain fun _ a b => if a.slt b then b else a) s

/-- (R107) maxu. -/
def execIntMaxu (u : IntUnit) (s : State) : Host.Outcome State Fault Refusal :=
  startInt u false 1 (intPlain fun _ a b => if a.ult b then b else a) s

/-- (R107) abs. -/
def execIntAbs (u : IntUnit) (s : State) : Host.Outcome State Fault Refusal :=
  startInt u false 1 (intPlain fun n _ b => BitVec.ofNat n b.toInt.natAbs) s

/-- (R107) seq. -/
def execIntSeq (u : IntUnit) (s : State) : Host.Outcome State Fault Refusal :=
  startInt u false 1 (intPlain fun _ a b => bit64 (a == b)) s

/-- (R107) sne. -/
def execIntSne (u : IntUnit) (s : State) : Host.Outcome State Fault Refusal :=
  startInt u false 1 (intPlain fun _ a b => bit64 (a != b)) s

/-- (R107) slt. -/
def execIntSlt (u : IntUnit) (s : State) : Host.Outcome State Fault Refusal :=
  startInt u false 1 (intPlain fun _ a b => bit64 (a.slt b)) s

/-- (R107) sle. -/
def execIntSle (u : IntUnit) (s : State) : Host.Outcome State Fault Refusal :=
  startInt u false 1 (intPlain fun _ a b => bit64 (a.sle b)) s

/-- (R107) sltu. -/
def execIntSltu (u : IntUnit) (s : State) : Host.Outcome State Fault Refusal :=
  startInt u false 1 (intPlain fun _ a b => bit64 (a.ult b)) s

/-- (R107) sleu. -/
def execIntSleu (u : IntUnit) (s : State) : Host.Outcome State Fault Refusal :=
  startInt u false 1 (intPlain fun _ a b => bit64 (a.ule b)) s

/-- (R107) sel. -/
def execIntSel (u : IntUnit) (s : State) : Host.Outcome State Fault Refusal :=
  startInt3 u (fun a b c => if b != 0 then a else c) s

/-- (R107) clz. -/
def execIntClz (u : IntUnit) (s : State) : Host.Outcome State Fault Refusal :=
  startInt3 u (fun _ b _ => BitVec.ofNat 64 (leadingZeros b)) s

/-- (R107) ctz. -/
def execIntCtz (u : IntUnit) (s : State) : Host.Outcome State Fault Refusal :=
  startInt3 u (fun _ b _ => BitVec.ofNat 64 (trailingZeros b)) s

/-- (R107) popc. -/
def execIntPopc (u : IntUnit) (s : State) : Host.Outcome State Fault Refusal :=
  startInt3 u (fun _ b _ => BitVec.ofNat 64 (popCount b 64)) s

/-- (R107) brev. -/
def execIntBrev (u : IntUnit) (s : State) : Host.Outcome State Fault Refusal :=
  startInt3 u (fun _ b _ => brev64 b) s

/-- (R107) bswap. -/
def execIntBswap (u : IntUnit) (s : State) : Host.Outcome State Fault Refusal :=
  startInt3 u (fun _ b _ => bswap64 b) s

/-- (R107) bext. -/
def execIntBext (u : IntUnit) (s : State) : Host.Outcome State Fault Refusal :=
  startInt3 u (fun a b _ => bext64 a b) s

/-- (R107) bins. -/
def execIntBins (u : IntUnit) (s : State) : Host.Outcome State Fault Refusal :=
  startInt3 u (fun a b c => bins64 a b c) s

/-- (R107) sextb, sexth, sextw. -/
def execIntSext (u : IntUnit) (e : ExtWidth) (s : State) : Host.Outcome State Fault Refusal :=
  startInt3 u (fun _ b _ => (b.setWidth (extBits e)).signExtend 64) s

/-- (R107) zextb, zexth, zextw. -/
def execIntZext (u : IntUnit) (e : ExtWidth) (s : State) : Host.Outcome State Fault Refusal :=
  startInt3 u (fun _ b _ => (b.setWidth (extBits e)).setWidth 64) s

/-- (R109) fpack: the flags f8 to f15 as they stand at the trigger. -/
def execIntFpack (u : IntUnit) (s : State) : Host.Outcome State Fault Refusal :=
  .next (s.startFixed u.num 1 (rec64 ((s.self.f.extractLsb' 8 8).setWidth 64)) Effects.none)

/-- (R109) funpack: f8 to f15 are written at the landing. -/
def execIntFunpack (u : IntUnit) (s : State) : Host.Outcome State Fault Refusal :=
  .next (s.startFixed u.num 1 (rec64 ((s.opT64.extractLsb' 0 8).setWidth 64))
    { Effects.none with flags := some (s.opT64.extractLsb' 0 8) })

end Sys2Proof.Machine
end

