-- ==== Sys2Proof/Machine/MemOps.lean ====
section
/-! DEFINITION. The operations of mema and memb (R115 to R120, R136, R151 to R166). -/

namespace Sys2Proof.Machine

/-! ### Local accesses and the stack -/

/-- (R115) ld. -/
def execLocalLoad (u : MemUnit) (f : LoadForm) (s : State) : Host.Outcome State Fault Refusal :=
  let p := s.opT64
  let loc := sramLoc s.who.tile ((s.jobFor s.who).physOff (vaOf p))
  s.startMem u.num (.localLoad u f) (s.localFault s.who p (loadBytes f) (u == .memb) true false true) (s.gated s.who) fun s =>
    s.startFixed u.num 5 { out := loadOut f (Memory.readLe s.mem loc (loadBytes f)), aux := 0, stat := 0 } Effects.none

/-- (R116, R164) st: a local store performs at its trigger, any other is weak and remote. -/
def execStore (u : MemUnit) (f : StoreForm) (s : State) : Host.Outcome State Fault Refusal :=
  s.queueMem u.num (.store u f) (.store f)

/-- (R118) push. -/
def execPush (s : State) : Host.Outcome State Fault Refusal :=
  let p := ptrAdd (s.self.readA 15) (-8)
  let loc := sramLoc s.who.tile ((s.jobFor s.who).physOff (vaOf p))
  s.startMem 5 .push (s.localFault s.who p 8 false true true false) (s.gated s.who) fun s =>
    (s.storeLe loc 8 s.opT64.toNat true).updSelf fun x => x.writeA 15 p

/-- (R118) pop. -/
def execPop (s : State) : Host.Outcome State Fault Refusal :=
  let p := s.self.readA 15
  let loc := sramLoc s.who.tile ((s.jobFor s.who).physOff (vaOf p))
  s.startMem 5 .pop (s.localFault s.who p 8 false true false true) (s.gated s.who) fun s =>
    (s.startFixed 5 5 { out := BitVec.ofNat 512 (Memory.readLe s.mem loc 8), aux := 0, stat := 0 } Effects.none).updSelf
      fun x => x.writeA 15 (ptrAdd p 8)

/-! ### Pointers -/

/-- (R119) The pointer number of pset and pinc. -/
def State.ptrNum (s : State) : Nat := ((s.opPort64 5 1).setWidth 4).toNat

/-- (R119) lea. -/
def execLea (s : State) : Host.Outcome State Fault Refusal :=
  .next (s.startFixed 5 1 (rec64 (ptrAdd (s.opPort64 5 0) s.opT64)) Effects.none)

/-- (R119) pset. -/
def execPset (s : State) : Host.Outcome State Fault Refusal :=
  .next (s.startFixed 5 1 (rec64 (s.self.wd.get 0 s.ptrNum)) { Effects.none with wd := some (s.ptrNum, s.opT64) })

/-- (R119, R136) pinc. -/
def execPinc (s : State) : Host.Outcome State Fault Refusal :=
  let p := walk (s.jobFor s.who).box (s.self.readA s.ptrNum) (s.self.wd.get 0 s.ptrNum) s.opT64
  .next (s.startFixed 5 1 (rec64 p) { Effects.none with ptr := some (s.ptrNum, p) })

/-! ### Queued operations -/

/-- (R120) touch. -/
def execTouch (s : State) : Host.Outcome State Fault Refusal :=
  s.queueMem 5 .touch .touch

/-- (R120) The line of the die memory caches that a pref of the trigger's context fetches: none in tile space, nor where the address
names no byte that it may read. -/
def State.prefLine (s : State) : Option Nat :=
  if !canonical s.opT64 || isTileVa (vaOf s.opT64) then none
  else match (s.translate s.who.tile (s.jobFor s.who).asid.toNat (vaOf s.opT64) .read true false).2 with
    | .ok loc _ _ => some (loc / 256)
    | _ => none

/-- (R120, R148, R149) pref: its line comes into its die's cache. It never faults, never changes a result and is not counted. DESIGN CHOICE
(log 13): its translation leaves the tables and the TLBs as they are. -/
def execPref (s : State) : Host.Outcome State Fault Refusal :=
  .next (match s.prefLine with
    | some line => s.cacheLine line
    | none => s)

/-- (R152) ldq. -/
def execLdq (f : LoadForm) (s : State) : Host.Outcome State Fault Refusal :=
  s.queueMem 5 (.ldq f) (.ldq f false)

/-- (R153) ldq.nf. -/
def execLdqNf (f : LoadForm) (s : State) : Host.Outcome State Fault Refusal :=
  s.queueMem 5 (.ldqNf f) (.ldq f true)

/-- (R155) ld.f. -/
def execLdF (s : State) : Host.Outcome State Fault Refusal :=
  s.queueMem 5 .ldF (.ldf false)

/-- (R155) ld.f.nf. -/
def execLdFNf (s : State) : Host.Outcome State Fault Refusal :=
  s.queueMem 5 .ldFNf (.ldf true)

/-- (R156) ld.s. -/
def execLdS (s : State) : Host.Outcome State Fault Refusal :=
  s.queueMem 6 .ldS (.lds false)

/-- (R156) ld.s.nf. -/
def execLdSNf (s : State) : Host.Outcome State Fault Refusal :=
  s.queueMem 6 .ldSNf (.lds true)

/-- (R156) st.s. -/
def execStS (s : State) : Host.Outcome State Fault Refusal :=
  s.queueMem 6 .stS .sts

/-- (R162) st.p. -/
def execStP (s : State) : Host.Outcome State Fault Refusal :=
  s.queueMem 6 .stP .stp

/-- (R157) amo.add. -/
def execAmoAdd (w : Bool) (nc : Bool) (s : State) : Host.Outcome State Fault Refusal :=
  s.queueMem 6 (.amoAdd w nc) (.amo .add w nc)

/-- (R157) amo.and. -/
def execAmoAnd (nc : Bool) (s : State) : Host.Outcome State Fault Refusal :=
  s.queueMem 6 (.amoAnd nc) (.amo .and false nc)

/-- (R157) amo.or. -/
def execAmoOr (nc : Bool) (s : State) : Host.Outcome State Fault Refusal :=
  s.queueMem 6 (.amoOr nc) (.amo .or false nc)

/-- (R157) amo.xor. -/
def execAmoXor (nc : Bool) (s : State) : Host.Outcome State Fault Refusal :=
  s.queueMem 6 (.amoXor nc) (.amo .xor false nc)

/-- (R157) amo.max. -/
def execAmoMax (nc : Bool) (s : State) : Host.Outcome State Fault Refusal :=
  s.queueMem 6 (.amoMax nc) (.amo .max false nc)

/-- (R157) amo.maxu. -/
def execAmoMaxu (nc : Bool) (s : State) : Host.Outcome State Fault Refusal :=
  s.queueMem 6 (.amoMaxu nc) (.amo .maxu false nc)

/-- (R157) amo.min. -/
def execAmoMin (nc : Bool) (s : State) : Host.Outcome State Fault Refusal :=
  s.queueMem 6 (.amoMin nc) (.amo .min false nc)

/-- (R157) amo.minu. -/
def execAmoMinu (nc : Bool) (s : State) : Host.Outcome State Fault Refusal :=
  s.queueMem 6 (.amoMinu nc) (.amo .minu false nc)

/-- (R157) amo.swap. -/
def execAmoSwap (nc : Bool) (s : State) : Host.Outcome State Fault Refusal :=
  s.queueMem 6 (.amoSwap nc) (.amo .swap false nc)

/-- (R157, R158) amo.cas. -/
def execAmoCas (s : State) : Host.Outcome State Fault Refusal :=
  s.queueMem 6 .amoCas (.amo .cas false true)

/-- (R157, R158) amo.fadd. -/
def execAmoFadd (s : State) : Host.Outcome State Fault Refusal :=
  s.queueMem 6 .amoFadd (.amo .fadd true true)

/-- (R157, R158) amo.fadd.loose. -/
def execAmoFaddLoose (s : State) : Host.Outcome State Fault Refusal :=
  s.queueMem 6 .amoFaddLoose (.amo .faddLoose true false)

/-- (R159) red.add. -/
def execRedAdd (s : State) : Host.Outcome State Fault Refusal :=
  s.queueMem 6 .redAdd (.red .add)

/-- (R159) red.and. -/
def execRedAnd (s : State) : Host.Outcome State Fault Refusal :=
  s.queueMem 6 .redAnd (.red .and)

/-- (R159) red.or. -/
def execRedOr (s : State) : Host.Outcome State Fault Refusal :=
  s.queueMem 6 .redOr (.red .or)

/-- (R159) red.xor. -/
def execRedXor (s : State) : Host.Outcome State Fault Refusal :=
  s.queueMem 6 .redXor (.red .xor)

/-- (R159) red.max. -/
def execRedMax (s : State) : Host.Outcome State Fault Refusal :=
  s.queueMem 6 .redMax (.red .max)

/-- (R159) red.min. -/
def execRedMin (s : State) : Host.Outcome State Fault Refusal :=
  s.queueMem 6 .redMin (.red .min)

/-- (R159) red.fadd. -/
def execRedFadd (s : State) : Host.Outcome State Fault Refusal :=
  s.queueMem 6 .redFadd (.red .fadd)

/-! ### Fence, drain and the owner flip -/

/-- (R165) fence: it completes at once where everything before it has performed at its scope. -/
def execFence (s : State) : Host.Outcome State Fault Refusal :=
  let t := s.opT64
  s.startMem 6 .fence (if 5 < t.toNat then some (FaultAt.at .xword t) else none) false fun s =>
    let o := s.newOp 6 (.fence t.toNat)
    if s.fenced s.who o.job o.id t.toNat o.dbl then s else ({ s with ops := s.ops ++ [o] } : State).takeId

/-- (R166) drain. -/
def execDrain (s : State) : Host.Outcome State Fault Refusal :=
  s.startMem 6 .drain none false fun s =>
    if s.drained s.who then s else s.updSelf fun x => { x with block := x.block ++ [.drain] }

/-- (R151, R332) own. -/
def execOwn (s : State) : Host.Outcome State Fault Refusal :=
  let t := s.opT64
  let j := s.jobFor s.who
  let sw := t.toNat % 256
  s.startMem 6 .own
    (if 1024 ≤ t.toNat then some (FaultAt.at .xword t)
     else if j.swcnt ≤ sw then some (FaultAt.at .tilemap t) else none)
    (let w := (j.swbase + sw) % 256
     s.selfTile.owner.get 0 w != 0 && s.swatchBusy s.who.tile w)
    fun s => s.updSelfTile fun y => { y with owner := y.owner.set ((j.swbase + sw) % 256) (t.extractLsb' 8 2) }

end Sys2Proof.Machine
end

