-- ==== Sys2Proof/Machine/Sys.lean ====
section
/-! DEFINITION. The operations of sys and the registers and counters that they name (R121 to R125). -/

namespace Sys2Proof.Machine

/-! ### Registers and counters -/

/-- (R15) COORD of a tile in a job. -/
def coordOf (j : Job) (t : Nat) : W64 :=
  let (d, y, x) := (j.logical t).getD (0, 0, 0)
  BitVec.ofNat 64 (stageOf d y x j.stages * 2 ^ 28 + clusterNo t * 2 ^ 23 + ringPos t * 2 ^ 20 + d * 2 ^ 8 + y * 2 ^ 4 + x)

/-- (R15) PHYS of a tile. -/
def physOf (t : Nat) : W64 := BitVec.ofNat 64 (dieOf t * 2 ^ 8 + rowOf t * 2 ^ 4 + colOf t)

/-- (R122) A system register as the context reads it; none for a number that names nothing. -/
def State.sysReg (s : State) (c : Who) (n : Nat) : Option W64 :=
  let x := s.ctx c
  let j := s.jobFor c
  match n with
  | 0x000 => some (coordOf j c.tile)
  | 0x001 => some (physOf c.tile)
  | 0x002 => some (BitVec.ofNat 64 c.ctx)
  | 0x003 => some (x.prio.setWidth 64)
  | 0x004 => some (BitVec.ofNat 64 (x.vcount * 2 ^ 16 + x.gcount))
  | 0x005 => some (x.lock.setWidth 64)
  | 0x006 => some (if x.check then 1 else 0)
  | 0x010 => some (x.frm.setWidth 64)
  | 0x011 => some (x.fflags.setWidth 64)
  | 0x012 => some (x.trapbase.setWidth 64)
  | 0x013 => some (x.slim.setWidth 64)
  | 0x018 => some x.frec0
  | 0x019 => some x.frec1
  | 0x01A => some x.frec2
  | 0x01B => some x.frec3
  | 0x020 => some s.cycle
  | 0x021 => some ((if j.abort then 0x100000000#64 else 0) ||| j.phase.setWidth 64)
  | 0x022 => some (j.asid.setWidth 64)
  | 0x023 => some (j.cw.setWidth 64)
  | 0x024 => some x.disc
  | 0x025 => some s.bootcause
  | _ => none

/-- (R122) The registers that a job may write. -/
def sysWritable (n : Nat) : Bool :=
  n == 0x010 || n == 0x011 || n == 0x012 || n == 0x013 || n == 0x01A || n == 0x01B

/-- (R124) Whether a counter is one of the tile's own. -/
def tileCounter (n : Nat) : Bool := n == 0 || n == 1 || n == 5 || n == 9 || n == 10

/-- (R124) A counter as the context reads it; none for a number that names nothing. -/
def State.counter (s : State) (c : Who) (n : Nat) : Option W64 :=
  if 10 < n then none
  else if tileCounter n then some ((s.tile c.tile).ctrs.get 0 n)
  else some (s.dctrs.get 0 (16 * dieOf c.tile + n))

/-- (R121) FLT_PRIV of a sys operation: FREC1 holds T. -/
def State.privFault (s : State) (i : Instr) : Host.Outcome State Fault Refusal :=
  .next (s.faultTrigger i (FaultAt.at .priv s.opT64))

/-- (R121) A value delivered by sys, latency 2. -/
def State.sysDeliver (s : State) (i : Instr) (v : Option W64) : Host.Outcome State Fault Refusal :=
  match v with
  | some v => .next (s.startFixed 15 2 (rec64 v) Effects.none)
  | none => s.privFault i

/-- (R125) The counters of the trigger's tile: set to zero, then frozen or running. -/
def State.pmu (s : State) (i : Instr) : Host.Outcome State Fault Refusal :=
  let t := s.opT64
  if t.getLsbD 1 ∧ t.getLsbD 2 then s.privFault i
  else .next (s.updSelfTile fun y =>
    { y with
      ctrs := if t.getLsbD 0 then [] else y.ctrs
      frozen := if t.getLsbD 1 then true else if t.getLsbD 2 then false else y.frozen })

/-! ### The operations -/

/-- (R121) rd. -/
def execSysRd (s : State) : Host.Outcome State Fault Refusal := s.sysDeliver .sysRd (s.sysReg s.who s.opT64.toNat)

/-- (R121) wr: the write takes effect at the end of the word. -/
def execSysWr (s : State) : Host.Outcome State Fault Refusal :=
  if sysWritable s.opT64.toNat then
    .next (s.updSelf fun x => { x with later := x.later ++ [.sys s.opT64.toNat (s.opPort64 15 0)] })
  else s.privFault .sysWr

/-- (R121, R124) rdc. -/
def execSysRdc (s : State) : Host.Outcome State Fault Refusal := s.sysDeliver .sysRdc (s.counter s.who s.opT64.toNat)

/-- (R121) frec. -/
def execSysFrec (s : State) : Host.Outcome State Fault Refusal :=
  s.sysDeliver .sysFrec (match s.opT64.toNat with
    | 0 => some s.self.frec0
    | 1 => some s.self.frec1
    | 2 => some s.self.frec2
    | 3 => some s.self.frec3
    | _ => none)

/-- (R125) pmu, which zeroes. -/
def execPmuZero (s : State) : Host.Outcome State Fault Refusal := s.pmu .pmuZero

/-- (R125) pmu, which freezes. -/
def execPmuFreeze (s : State) : Host.Outcome State Fault Refusal := s.pmu .pmuFreeze

/-- (R125) pmu, which lets run. -/
def execPmuRun (s : State) : Host.Outcome State Fault Refusal := s.pmu .pmuRun

/-- (R51) swap.ctx: FLT_PRIV from a job's context. -/
def execSwapCtx (s : State) : Host.Outcome State Fault Refusal := s.privFault .swapCtx

end Sys2Proof.Machine
end

