-- ==== Sys2Proof/Machine/Dispatch.lean ====
section
/-! DEFINITION. What each instruction does: one arm per constructor, one call of its meaning. -/

namespace Sys2Proof.Machine

def exec (i : Instr) (s : State) : Host.Outcome State Fault Refusal :=
  match i with
  | .wordIssue w => Sys2Proof.Machine.execWordIssue w s
  | .stallCountEnd c => Sys2Proof.Machine.execStallCountEnd c s
  | .idleEnd c => Sys2Proof.Machine.execIdleEnd c s
  | .waitCountLimit c => Sys2Proof.Machine.execWaitCountLimit c s
  | .stallFloorIdleCycle tile => Sys2Proof.Machine.execStallFloorIdleCycle tile s
  | .resultLanding c id => Sys2Proof.Machine.execResultLanding c id s
  | .divideLanding c id => Sys2Proof.Machine.execDivideLanding c id s
  | .queuedReply id => Sys2Proof.Machine.execQueuedReply id s
  | .faultAfterStart c => Sys2Proof.Machine.execFaultAfterStart c s
  | .intAdd u w => Sys2Proof.Machine.execIntAdd u w s
  | .intSub u w => Sys2Proof.Machine.execIntSub u w s
  | .intAnd u => Sys2Proof.Machine.execIntAnd u s
  | .intOr u => Sys2Proof.Machine.execIntOr u s
  | .intXor u => Sys2Proof.Machine.execIntXor u s
  | .intAndn u => Sys2Proof.Machine.execIntAndn u s
  | .intOrn u => Sys2Proof.Machine.execIntOrn u s
  | .intShl u w => Sys2Proof.Machine.execIntShl u w s
  | .intShr u w => Sys2Proof.Machine.execIntShr u w s
  | .intSar u w => Sys2Proof.Machine.execIntSar u w s
  | .intRol u w => Sys2Proof.Machine.execIntRol u w s
  | .intRor u w => Sys2Proof.Machine.execIntRor u w s
  | .intMul u w => Sys2Proof.Machine.execIntMul u w s
  | .intMulh u w => Sys2Proof.Machine.execIntMulh u w s
  | .intMulhu u => Sys2Proof.Machine.execIntMulhu u s
  | .intDiv u w => Sys2Proof.Machine.execIntDiv u w s
  | .intDivu u w => Sys2Proof.Machine.execIntDivu u w s
  | .intRem u w => Sys2Proof.Machine.execIntRem u w s
  | .intRemu u w => Sys2Proof.Machine.execIntRemu u w s
  | .intMin u => Sys2Proof.Machine.execIntMin u s
  | .intMinu u => Sys2Proof.Machine.execIntMinu u s
  | .intMax u => Sys2Proof.Machine.execIntMax u s
  | .intMaxu u => Sys2Proof.Machine.execIntMaxu u s
  | .intAbs u => Sys2Proof.Machine.execIntAbs u s
  | .intSeq u => Sys2Proof.Machine.execIntSeq u s
  | .intSne u => Sys2Proof.Machine.execIntSne u s
  | .intSlt u => Sys2Proof.Machine.execIntSlt u s
  | .intSle u => Sys2Proof.Machine.execIntSle u s
  | .intSltu u => Sys2Proof.Machine.execIntSltu u s
  | .intSleu u => Sys2Proof.Machine.execIntSleu u s
  | .intSel u => Sys2Proof.Machine.execIntSel u s
  | .intClz u => Sys2Proof.Machine.execIntClz u s
  | .intCtz u => Sys2Proof.Machine.execIntCtz u s
  | .intPopc u => Sys2Proof.Machine.execIntPopc u s
  | .intBrev u => Sys2Proof.Machine.execIntBrev u s
  | .intBswap u => Sys2Proof.Machine.execIntBswap u s
  | .intBext u => Sys2Proof.Machine.execIntBext u s
  | .intBins u => Sys2Proof.Machine.execIntBins u s
  | .intSext u e => Sys2Proof.Machine.execIntSext u e s
  | .intZext u e => Sys2Proof.Machine.execIntZext u e s
  | .intFpack u => Sys2Proof.Machine.execIntFpack u s
  | .intFunpack u => Sys2Proof.Machine.execIntFunpack u s
  | .fpAdd f => Sys2Proof.Machine.execFpAdd f s
  | .fpSub f => Sys2Proof.Machine.execFpSub f s
  | .fpMin f => Sys2Proof.Machine.execFpMin f s
  | .fpMax f => Sys2Proof.Machine.execFpMax f s
  | .fpAbs f => Sys2Proof.Machine.execFpAbs f s
  | .fpNeg f => Sys2Proof.Machine.execFpNeg f s
  | .fpCpsign f => Sys2Proof.Machine.execFpCpsign f s
  | .fpEq f => Sys2Proof.Machine.execFpEq f s
  | .fpLt f => Sys2Proof.Machine.execFpLt f s
  | .fpLe f => Sys2Proof.Machine.execFpLe f s
  | .fpClass f => Sys2Proof.Machine.execFpClass f s
  | .fpRnd f => Sys2Proof.Machine.execFpRnd f s
  | .fpCvtI2f f => Sys2Proof.Machine.execFpCvtI2f f s
  | .fpCvtF2i f => Sys2Proof.Machine.execFpCvtF2i f s
  | .fpCvtFormat c => Sys2Proof.Machine.execFpCvtFormat c s
  | .fpMul f => Sys2Proof.Machine.execFpMul f s
  | .fpFma f => Sys2Proof.Machine.execFpFma f s
  | .fpFms f => Sys2Proof.Machine.execFpFms f s
  | .fpFnma f => Sys2Proof.Machine.execFpFnma f s
  | .fpDiv f => Sys2Proof.Machine.execFpDiv f s
  | .fpSqrt f => Sys2Proof.Machine.execFpSqrt f s
  | .fpRcp f => Sys2Proof.Machine.execFpRcp f s
  | .localLoad u f => Sys2Proof.Machine.execLocalLoad u f s
  | .store u f => Sys2Proof.Machine.execStore u f s
  | .ldq f => Sys2Proof.Machine.execLdq f s
  | .ldqNf f => Sys2Proof.Machine.execLdqNf f s
  | .amoAdd w nc => Sys2Proof.Machine.execAmoAdd w nc s
  | .amoAnd nc => Sys2Proof.Machine.execAmoAnd nc s
  | .amoOr nc => Sys2Proof.Machine.execAmoOr nc s
  | .amoXor nc => Sys2Proof.Machine.execAmoXor nc s
  | .amoMax nc => Sys2Proof.Machine.execAmoMax nc s
  | .amoMaxu nc => Sys2Proof.Machine.execAmoMaxu nc s
  | .amoMin nc => Sys2Proof.Machine.execAmoMin nc s
  | .amoMinu nc => Sys2Proof.Machine.execAmoMinu nc s
  | .amoSwap nc => Sys2Proof.Machine.execAmoSwap nc s
  | .fenceComplete id => Sys2Proof.Machine.execFenceComplete id s
  | .drainComplete c => Sys2Proof.Machine.execDrainComplete c s
  | .remoteAccessArrival id => Sys2Proof.Machine.execRemoteAccessArrival id s
  | .pagedAccessArrival id => Sys2Proof.Machine.execPagedAccessArrival id s
  | .translationWalk id useTlb => Sys2Proof.Machine.execTranslationWalk id useTlb s
  | .copyOnWriteResolve id => Sys2Proof.Machine.execCopyOnWriteResolve id s
  | .gatherJoin id => Sys2Proof.Machine.execGatherJoin id s
  | .gatherAccept id => Sys2Proof.Machine.execGatherAccept id s
  | .gatherRefuse id => Sys2Proof.Machine.execGatherRefuse id s
  | .gatherRecall id => Sys2Proof.Machine.execGatherRecall id s
  | .gatherFlush id => Sys2Proof.Machine.execGatherFlush id s
  | .provisionalStage id => Sys2Proof.Machine.execProvisionalStage id s
  | .vecVfmt u => Sys2Proof.Machine.execVecVfmt u s
  | .vadd u m => Sys2Proof.Machine.execVadd u m s
  | .vsub u m => Sys2Proof.Machine.execVsub u m s
  | .vmul u m => Sys2Proof.Machine.execVmul u m s
  | .vfma u m => Sys2Proof.Machine.execVfma u m s
  | .vfms u m => Sys2Proof.Machine.execVfms u m s
  | .vmin u m => Sys2Proof.Machine.execVmin u m s
  | .vmax u m => Sys2Proof.Machine.execVmax u m s
  | .vabs u => Sys2Proof.Machine.execVabs u s
  | .vneg u => Sys2Proof.Machine.execVneg u s
  | .vcmp u c => Sys2Proof.Machine.execVcmp u c s
  | .vsel u => Sys2Proof.Machine.execVsel u s
  | .vand u => Sys2Proof.Machine.execVand u s
  | .vor u => Sys2Proof.Machine.execVor u s
  | .vxor u => Sys2Proof.Machine.execVxor u s
  | .vnot u => Sys2Proof.Machine.execVnot u s
  | .vshl u => Sys2Proof.Machine.execVshl u s
  | .vshr u => Sys2Proof.Machine.execVshr u s
  | .vsar u => Sys2Proof.Machine.execVsar u s
  | .vaddI u => Sys2Proof.Machine.execVaddI u s
  | .vsubI u => Sys2Proof.Machine.execVsubI u s
  | .vmulI u => Sys2Proof.Machine.execVmulI u s
  | .vdot4 u => Sys2Proof.Machine.execVdot4 u s
  | .vredadd u => Sys2Proof.Machine.execVredadd u s
  | .vredmax u => Sys2Proof.Machine.execVredmax u s
  | .vredmin u => Sys2Proof.Machine.execVredmin u s
  | .vperm u => Sys2Proof.Machine.execVperm u s
  | .vbcast u => Sys2Proof.Machine.execVbcast u s
  | .vslide u => Sys2Proof.Machine.execVslide u s
  | .vzip u => Sys2Proof.Machine.execVzip u s
  | .vunzip u => Sys2Proof.Machine.execVunzip u s
  | .vexp2 u => Sys2Proof.Machine.execVexp2 u s
  | .vlog2 u => Sys2Proof.Machine.execVlog2 u s
  | .vrcp u => Sys2Proof.Machine.execVrcp u s
  | .vrsqrt u => Sys2Proof.Machine.execVrsqrt u s
  | .vsqrt u => Sys2Proof.Machine.execVsqrt u s
  | .vdiv u => Sys2Proof.Machine.execVdiv u s
  | .mand u => Sys2Proof.Machine.execMand u s
  | .mor u => Sys2Proof.Machine.execMor u s
  | .mnot u => Sys2Proof.Machine.execMnot u s
  | .mpopc u => Sys2Proof.Machine.execMpopc u s
  | .mfirst u => Sys2Proof.Machine.execMfirst u s
  | .packBf16 p => Sys2Proof.Machine.execPackBf16 p s
  | .packH p => Sys2Proof.Machine.execPackH p s
  | .packE4m3 p => Sys2Proof.Machine.execPackE4m3 p s
  | .packE5m2 p => Sys2Proof.Machine.execPackE5m2 p s
  | .matrixChunkApply tile id => Sys2Proof.Machine.execMatrixChunkApply tile id s
  | .matrixOpComplete tile id => Sys2Proof.Machine.execMatrixOpComplete tile id s
  | .sxuOpComplete tile id => Sys2Proof.Machine.execSxuOpComplete tile id s
  | .copyHandoff id engine => Sys2Proof.Machine.execCopyHandoff id engine s
  | .copyRefusal id backoff => Sys2Proof.Machine.execCopyRefusal id backoff s
  | .copyBackoffExpiry id => Sys2Proof.Machine.execCopyBackoffExpiry id s
  | .copyComplete id => Sys2Proof.Machine.execCopyComplete id s
  | .reelSlotFill tile reel => Sys2Proof.Machine.execReelSlotFill tile reel s
  | .copyTimeout id => Sys2Proof.Machine.execCopyTimeout id s
  | .releaseSendDepart id => Sys2Proof.Machine.execReleaseSendDepart id s
  | .messageArrival m => Sys2Proof.Machine.execMessageArrival m s
  | .rotRound tile job => Sys2Proof.Machine.execRotRound tile job s
  | .lineRequest id => Sys2Proof.Machine.execLineRequest id s
  | .upperArrive id => Sys2Proof.Machine.execUpperArrive id s
  | .upperRelease id => Sys2Proof.Machine.execUpperRelease id s
  | .phaseArrivalRegister c => Sys2Proof.Machine.execPhaseArrivalRegister c s
  | .phaseAdvance job => Sys2Proof.Machine.execPhaseAdvance job s
  | .phaseWatchdogExpiry job => Sys2Proof.Machine.execPhaseWatchdogExpiry job s
  | .switchRequestEntry id => Sys2Proof.Machine.execSwitchRequestEntry id s
  | .combineWindowExpiry id => Sys2Proof.Machine.execCombineWindowExpiry id s
  | .replySplit id => Sys2Proof.Machine.execReplySplit id s
  | .atomicApply a => Sys2Proof.Machine.execAtomicApply a s
  | .linkReplay link e => Sys2Proof.Machine.execLinkReplay link e s
  | .linkRetrain link victim => Sys2Proof.Machine.execLinkRetrain link victim s
  | .linkDown link => Sys2Proof.Machine.execLinkDown link s
  | .machineCheck scope => Sys2Proof.Machine.execMachineCheck scope s
  | .launch h p => Sys2Proof.Machine.execLaunch h p s
  | .graphEntry h p => Sys2Proof.Machine.execGraphEntry h p s
  | .queueBarrier h p => Sys2Proof.Machine.execQueueBarrier h p s
  | .loadObject h p => Sys2Proof.Machine.execLoadObject h p s
  | .unload h p => Sys2Proof.Machine.execUnload h p s
  | .hotReplace h p => Sys2Proof.Machine.execHotReplace h p s
  | .snapshot h p => Sys2Proof.Machine.execSnapshot h p s
  | .restore h p => Sys2Proof.Machine.execRestore h p s
  | .journalRead h p => Sys2Proof.Machine.execJournalRead h p s
  | .preEmpt h p => Sys2Proof.Machine.execPreEmpt h p s
  | .resume h p => Sys2Proof.Machine.execResume h p s
  | .debugHalt h p => Sys2Proof.Machine.execDebugHalt h p s
  | .debugRelease h p => Sys2Proof.Machine.execDebugRelease h p s
  | .debugStep h p => Sys2Proof.Machine.execDebugStep h p s
  | .debugReadState h p => Sys2Proof.Machine.execDebugReadState h p s
  | .debugWriteState h p => Sys2Proof.Machine.execDebugWriteState h p s
  | .jobPlacement job => Sys2Proof.Machine.execJobPlacement job s
  | .preemption job => Sys2Proof.Machine.execPreemption job s
  | .jobComplete job => Sys2Proof.Machine.execJobComplete job s
  | .tetherSessionOpen h rto => Sys2Proof.Machine.execTetherSessionOpen h rto s
  | .tetherAck h => Sys2Proof.Machine.execTetherAck h s
  | .tetherRetransmit seq => Sys2Proof.Machine.execTetherRetransmit seq s
  | .windowRead h a len => Sys2Proof.Machine.execWindowRead h a len s
  | .windowWrite h a data => Sys2Proof.Machine.execWindowWrite h a data s
  | .windowAtomic h a port x y => Sys2Proof.Machine.execWindowAtomic h a port x y s
  | .setAddressSpace h asid root => Sys2Proof.Machine.execSetAddressSpace h asid root s
  | .invalidate h scope => Sys2Proof.Machine.execInvalidate h scope s
  | .addSnapshotPool h pages => Sys2Proof.Machine.execAddSnapshotPool h pages s
  | .enrolKey h keyid key => Sys2Proof.Machine.execEnrolKey h keyid key s
  | .revokeKey h keyid => Sys2Proof.Machine.execRevokeKey h keyid s
  | .dieCounterControl h die mask => Sys2Proof.Machine.execDieCounterControl h die mask s
  | .prefetchEnable h die on => Sys2Proof.Machine.execPrefetchEnable h die on s
  | .linkEnable h link => Sys2Proof.Machine.execLinkEnable h link s
  | .setPowerLimit h watts => Sys2Proof.Machine.execSetPowerLimit h watts s
  | .readTelemetry h => Sys2Proof.Machine.execReadTelemetry h s
  | .attestation h nonce => Sys2Proof.Machine.execAttestation h nonce s
  | .stageFirmware h off data => Sys2Proof.Machine.execStageFirmware h off data s
  | .commitFirmware h len => Sys2Proof.Machine.execCommitFirmware h len s
  | .packageReset o => Sys2Proof.Machine.execPackageReset o s
  | .powerThrottle cycles => Sys2Proof.Machine.execPowerThrottle cycles s
  | .softError e => Sys2Proof.Machine.execSoftError e s
  | .retrainingComplete link => Sys2Proof.Machine.execRetrainingComplete link s
  | .prefetchLineFill die line => Sys2Proof.Machine.execPrefetchLineFill die line s
  | .phaseGroupArrival grp member => Sys2Proof.Machine.execPhaseGroupArrival grp member s
  | .phaseGroupMemberFailure grp member => Sys2Proof.Machine.execPhaseGroupMemberFailure grp member s
  | .ctlJump => Sys2Proof.Machine.execCtlJump s
  | .ctlJumpr => Sys2Proof.Machine.execCtlJumpr s
  | .ctlCall => Sys2Proof.Machine.execCtlCall s
  | .ctlCallr => Sys2Proof.Machine.execCtlCallr s
  | .ctlRet => Sys2Proof.Machine.execCtlRet s
  | .ctlLoop => Sys2Proof.Machine.execCtlLoop s
  | .ctlYield => Sys2Proof.Machine.execCtlYield s
  | .ctlHalt => Sys2Proof.Machine.execCtlHalt s
  | .ctlTrap => Sys2Proof.Machine.execCtlTrap s
  | .rfeResume => Sys2Proof.Machine.execRfeResume s
  | .rfeRetry => Sys2Proof.Machine.execRfeRetry s
  | .rfeSkip => Sys2Proof.Machine.execRfeSkip s
  | .ctlBrk => Sys2Proof.Machine.execCtlBrk s
  | .ctlGrowG => Sys2Proof.Machine.execCtlGrowG s
  | .ctlShrinkG => Sys2Proof.Machine.execCtlShrinkG s
  | .ctlGrowV => Sys2Proof.Machine.execCtlGrowV s
  | .ctlShrinkV => Sys2Proof.Machine.execCtlShrinkV s
  | .ctlLock => Sys2Proof.Machine.execCtlLock s
  | .ctlCheck => Sys2Proof.Machine.execCtlCheck s
  | .ctlPrio => Sys2Proof.Machine.execCtlPrio s
  | .ctlIdle => Sys2Proof.Machine.execCtlIdle s
  | .ldF => Sys2Proof.Machine.execLdF s
  | .ldFNf => Sys2Proof.Machine.execLdFNf s
  | .push => Sys2Proof.Machine.execPush s
  | .pop => Sys2Proof.Machine.execPop s
  | .touch => Sys2Proof.Machine.execTouch s
  | .pref => Sys2Proof.Machine.execPref s
  | .lea => Sys2Proof.Machine.execLea s
  | .pset => Sys2Proof.Machine.execPset s
  | .pinc => Sys2Proof.Machine.execPinc s
  | .ldS => Sys2Proof.Machine.execLdS s
  | .ldSNf => Sys2Proof.Machine.execLdSNf s
  | .stS => Sys2Proof.Machine.execStS s
  | .stP => Sys2Proof.Machine.execStP s
  | .amoCas => Sys2Proof.Machine.execAmoCas s
  | .amoFadd => Sys2Proof.Machine.execAmoFadd s
  | .amoFaddLoose => Sys2Proof.Machine.execAmoFaddLoose s
  | .redAdd => Sys2Proof.Machine.execRedAdd s
  | .redAnd => Sys2Proof.Machine.execRedAnd s
  | .redOr => Sys2Proof.Machine.execRedOr s
  | .redXor => Sys2Proof.Machine.execRedXor s
  | .redMax => Sys2Proof.Machine.execRedMax s
  | .redMin => Sys2Proof.Machine.execRedMin s
  | .redFadd => Sys2Proof.Machine.execRedFadd s
  | .fence => Sys2Proof.Machine.execFence s
  | .drain => Sys2Proof.Machine.execDrain s
  | .own => Sys2Proof.Machine.execOwn s
  | .unpackBf16 => Sys2Proof.Machine.execUnpackBf16 s
  | .unpackH => Sys2Proof.Machine.execUnpackH s
  | .unpackE4m3 => Sys2Proof.Machine.execUnpackE4m3 s
  | .unpackE5m2 => Sys2Proof.Machine.execUnpackE5m2 s
  | .sqscale => Sys2Proof.Machine.execSqscale s
  | .sqenc => Sys2Proof.Machine.execSqenc s
  | .sqdec => Sys2Proof.Machine.execSqdec s
  | .srBf16 => Sys2Proof.Machine.execSrBf16 s
  | .srH => Sys2Proof.Machine.execSrH s
  | .cvtI2f => Sys2Proof.Machine.execCvtI2f s
  | .cvtF2i => Sys2Proof.Machine.execCvtF2i s
  | .astr => Sys2Proof.Machine.execAstr s
  | .bstr => Sys2Proof.Machine.execBstr s
  | .shape => Sys2Proof.Machine.execShape s
  | .mma => Sys2Proof.Machine.execMma s
  | .mmz => Sys2Proof.Machine.execMmz s
  | .mclear => Sys2Proof.Machine.execMclear s
  | .mfill => Sys2Proof.Machine.execMfill s
  | .mdrain => Sys2Proof.Machine.execMdrain s
  | .mrd => Sys2Proof.Machine.execMrd s
  | .mprog => Sys2Proof.Machine.execMprog s
  | .mrun => Sys2Proof.Machine.execMrun s
  | .mwait => Sys2Proof.Machine.execMwait s
  | .msave => Sys2Proof.Machine.execMsave s
  | .mresume => Sys2Proof.Machine.execMresume s
  | .sxuKey => Sys2Proof.Machine.execSxuKey s
  | .ylen => Sys2Proof.Machine.execYlen s
  | .spin => Sys2Proof.Machine.execSpin s
  | .spinb => Sys2Proof.Machine.execSpinb s
  | .knit => Sys2Proof.Machine.execKnit s
  | .knitCor => Sys2Proof.Machine.execKnitCor s
  | .xnor => Sys2Proof.Machine.execXnor s
  | .purl => Sys2Proof.Machine.execPurl s
  | .mux => Sys2Proof.Machine.execMux s
  | .yarnOr => Sys2Proof.Machine.execYarnOr s
  | .count => Sys2Proof.Machine.execCount s
  | .respin => Sys2Proof.Machine.execRespin s
  | .sdot => Sys2Proof.Machine.execSdot s
  | .draw => Sys2Proof.Machine.execDraw s
  | .yinfo => Sys2Proof.Machine.execYinfo s
  | .cpyPush => Sys2Proof.Machine.execCpyPush s
  | .cpyTry => Sys2Proof.Machine.execCpyTry s
  | .reelInit => Sys2Proof.Machine.execReelInit s
  | .await => Sys2Proof.Machine.execAwait s
  | .rel => Sys2Proof.Machine.execRel s
  | .cpyStat => Sys2Proof.Machine.execCpyStat s
  | .send => Sys2Proof.Machine.execSend s
  | .sendv => Sys2Proof.Machine.execSendv s
  | .rot => Sys2Proof.Machine.execRot s
  | .qcfg => Sys2Proof.Machine.execQcfg s
  | .peek => Sys2Proof.Machine.execPeek s
  | .evtArrive => Sys2Proof.Machine.execEvtArrive s
  | .evtWait => Sys2Proof.Machine.execEvtWait s
  | .evtLock => Sys2Proof.Machine.execEvtLock s
  | .evtUnlock => Sys2Proof.Machine.execEvtUnlock s
  | .evtSet => Sys2Proof.Machine.execEvtSet s
  | .evtClear => Sys2Proof.Machine.execEvtClear s
  | .watch => Sys2Proof.Machine.execWatch s
  | .unwatch => Sys2Proof.Machine.execUnwatch s
  | .wpop => Sys2Proof.Machine.execWpop s
  | .evtPhase => Sys2Proof.Machine.execEvtPhase s
  | .ptry => Sys2Proof.Machine.execPtry s
  | .chain => Sys2Proof.Machine.execChain s
  | .sysRd => Sys2Proof.Machine.execSysRd s
  | .sysWr => Sys2Proof.Machine.execSysWr s
  | .sysRdc => Sys2Proof.Machine.execSysRdc s
  | .sysFrec => Sys2Proof.Machine.execSysFrec s
  | .pmuZero => Sys2Proof.Machine.execPmuZero s
  | .pmuFreeze => Sys2Proof.Machine.execPmuFreeze s
  | .pmuRun => Sys2Proof.Machine.execPmuRun s
  | .swapCtx => Sys2Proof.Machine.execSwapCtx s
  | .startTimeout => Sys2Proof.Machine.execStartTimeout s
  | .thermalShutdown => Sys2Proof.Machine.execThermalShutdown s
  | .droppedFrame => Sys2Proof.Machine.execDroppedFrame s

end Sys2Proof.Machine
end

