-- ==== Sys2Proof/Machine/Step.lean ====
section
/-! DEFINITION. One step of the machine, and how the host places the instruction that it runs next. -/

namespace Sys2Proof.Machine

/-- One step. -/
def step (s : State) : Host.Outcome State Fault Refusal :=
  match s.nextStep with
  | .run s' i => exec i s'
  | .go s' => .next s'
  | .stop f => .fault f

/-- The state with a word in tile 0's instruction store where context 0 fetches next, context 0 with the
register allotment of a launch, and its issue the next forced step (log 7). -/
def State.withFetchWord (s : State) (nbits w : Nat) : State :=
  let c : Who := { tile := 0, ctx := 0 }
  let s1 := s.updTile 0 fun t => { t with istore := t.istore.set (s.ctx c).pc (BitVec.ofNat 256 (w % 2 ^ nbits)) }
  { s1.updCtx c fun x => { x with gcount := 64, vcount := 768 } with agenda := [.issue c] }

end Sys2Proof.Machine
end

