-- ==== Sys2Proof/WellFormed.lean ====
section
/-! DEFINITION. Which terms of the syntax are instructions of the machine. -/

namespace Sys2Proof

/-- (R22) A word has eight slots. -/
def MoveWord.slotsOk (m : MoveWord) : Bool := m.slots.length == 8

/-- (R24) A move slot does not carry the guard of an empty slot. -/
def Slot.guardOk : Slot → Bool
  | .move gd _ _ => !(gd.inv && gd.flag == 0)
  | _ => true

/-- (R29) A source that a SOURCE field can hold. -/
def Slot.sourceOk : Slot → Bool
  | .move _ (.v n) _ => n.toNat < 768
  | .move _ (.imm c) _ => c.toNat != 0x7FF
  | _ => true

/-- (R30) A destination that a DEST field can hold. -/
def Slot.destOk : Slot → Bool
  | .move _ _ (.v n) => n.toNat < 768
  | _ => true

/-- (R25) Every literal slot is claimed and every long-literal move claims one. -/
def MoveWord.literalsOk (m : MoveWord) : Bool := (literalFaults 0 0 (m.slots.map Slot.view)).isEmpty

/-- (R31) No two moves clash. -/
def MoveWord.clashFree (m : MoveWord) : Bool := (moveFaults 0 (m.slots.map Slot.view)).isEmpty

/-- (R33) Every result slot and port that the word names is assigned. -/
def MoveWord.assignedOk (m : MoveWord) : Bool := (unassignedFrom 0 (m.slots.map Slot.view)).isNone

/-- (R22 to R33) A move word that decodes. -/
def MoveWord.wf (m : MoveWord) : Bool :=
  m.slotsOk && m.slots.all Slot.guardOk && m.slots.all Slot.sourceOk && m.slots.all Slot.destOk && m.literalsOk &&
    m.clashFree && m.assignedOk

/-- (R8, R12, R16) A tile of the package and a context of it. -/
def Who.wf (c : Who) : Bool := c.tile < 576 && c.ctx < 4

/-- (R329) A packet has the length that its header states. -/
def Packet.wf (p : Packet) : Bool := p.body.length == p.len

/-- A well-formed instruction: a move word that decodes, an operation, an event that names a tile or a context of the package,
or a packet under its own KIND (R329, R348). -/
def Instr.wf (i : Instr) : Bool :=
  match i with
  | .wordIssue m => m.wf
  | .stallCountEnd c | .idleEnd c | .waitCountLimit c | .resultLanding c _ | .divideLanding c _
  | .faultAfterStart c | .drainComplete c | .phaseArrivalRegister c => c.wf
  | .stallFloorIdleCycle t | .matrixChunkApply t _ | .matrixOpComplete t _ | .sxuOpComplete t _
  | .reelSlotFill t _ | .rotRound t _ => t < 576
  | .launch h p | .graphEntry h p | .queueBarrier h p | .loadObject h p | .unload h p | .hotReplace h p
  | .snapshot h p | .restore h p | .journalRead h p | .preEmpt h p | .resume h p | .debugHalt h p
  | .debugRelease h p | .debugStep h p | .debugReadState h p | .debugWriteState h p =>
    p.wf && packetOf h p == some i
  | _ => true

end Sys2Proof
end

