-- ==== Sys2Proof/Safety.lean ====
section
/-! DEFINITION. What statements about the machine say: what a safe state and a safe run are, and the tables of the
manual as the statements read them, written from the rules and beside the model's own definitions. -/

namespace Sys2Proof.Machine

/-! ### Safe states and runs -/

/-- The memory of a state is in canonical form. -/
def State.memOk (s : State) : Prop := Memory.wf s.mem = true

/-- A run of `n` steps that neither faults nor is refused. -/
def State.runs : Nat → State → Prop
  | 0, _ => True
  | n + 1, s => ∃ t, step s = .next t ∧ State.runs n t

/-! ### Integer forms, read off the tables of R107 and R108 -/

/-- The two values that a form delivers to `out` and `aux`. -/
abbrev Pair (n : Nat) := BitVec n × BitVec n

/-- (R107) A form at its width: of a `.w` form, the low 32 bits, with both results sign-extended. -/
def atWidth (w : Bool) (f : (n : Nat) → BitVec n → BitVec n → Pair n) (a b : W64) : Pair 64 :=
  if w then
    let r := f 32 (a.truncate 32) (b.truncate 32)
    (r.1.signExtend 64, r.2.signExtend 64)
  else f 64 a b

/-- Bit 0 and bit 1 of `aux`. -/
def twoBits (n : Nat) (b0 b1 : Bool) : BitVec n := (if b0 then 1 else 0) + (if b1 then 2 else 0)

/-- 1 or 0 as a result without `aux`. -/
def truth (p : Bool) : Pair 64 := (if p then 1 else 0, 0)

/-- A result without `aux`. -/
def only {n : Nat} (v : BitVec n) : Pair n := (v, 0)

/-- (R107) Bits [p+l−1:p] of a word, bits above 63 reading zero, and the bits that bins replaces. -/
def fieldOf (a b : W64) : W64 :=
  BitVec.ofFnLE fun i : Fin 64 => decide (i.val < (b.extractLsb' 8 7).toNat) && a.getLsbD ((b.extractLsb' 0 6).toNat + i.val)
def fieldInto (a b c : W64) : W64 :=
  BitVec.ofFnLE fun i : Fin 64 =>
    let p := (b.extractLsb' 0 6).toNat
    if p ≤ i.val ∧ i.val < p + (b.extractLsb' 8 7).toNat then c.getLsbD (i.val - p) else a.getLsbD i.val

/-- (R107) Bytes in reverse order. -/
def bytesReversed (b : W64) : W64 := BitVec.ofFnLE fun i : Fin 64 => b.getLsbD (8 * (7 - i.val / 8) + i.val % 8)

/-- (R107) The fixed-latency integer forms: unit, latency, and `out` and `aux` as functions of A = o1, B = T and o2. -/
def intForm : Instr → Option (IntUnit × Nat × (W64 → W64 → W64 → Pair 64))
  | .intAdd u w => some (u, 1, fun a b _ => atWidth w (fun n x y => (x + y, twoBits n (BitVec.uaddOverflow x y) (BitVec.saddOverflow x y))) a b)
  | .intSub u w => some (u, 1, fun a b _ => atWidth w (fun n x y => (x - y, twoBits n (x.ult y) (BitVec.ssubOverflow x y))) a b)
  | .intAnd u => some (u, 1, fun a b _ => only (a &&& b))
  | .intOr u => some (u, 1, fun a b _ => only (a ||| b))
  | .intXor u => some (u, 1, fun a b _ => only (a ^^^ b))
  | .intAndn u => some (u, 1, fun a b _ => only (a &&& ~~~b))
  | .intOrn u => some (u, 1, fun a b _ => only (a ||| ~~~b))
  | .intShl u w => some (u, 1, fun a b _ => atWidth w (fun n x y => only (x <<< (y.toNat % n))) a b)
  | .intShr u w => some (u, 1, fun a b _ => atWidth w (fun n x y => only (x >>> (y.toNat % n))) a b)
  | .intSar u w => some (u, 1, fun a b _ => atWidth w (fun n x y => only (x.sshiftRight (y.toNat % n))) a b)
  | .intRol u w => some (u, 1, fun a b _ => atWidth w (fun _ x y => only (x.rotateLeft y.toNat)) a b)
  | .intRor u w => some (u, 1, fun a b _ => atWidth w (fun _ x y => only (x.rotateRight y.toNat)) a b)
  | .intMul u w => some (u, 3, fun a b _ =>
      atWidth w (fun n x y => (x * y, (x.signExtend (2 * n) * y.signExtend (2 * n)).extractLsb' n n)) a b)
  | .intMulh u w => some (u, 3, fun a b _ =>
      atWidth w (fun n x y => only ((x.signExtend (2 * n) * y.signExtend (2 * n)).extractLsb' n n)) a b)
  | .intMulhu u => some (u, 3, fun a b _ => only ((a.zeroExtend 128 * b.zeroExtend 128).extractLsb' 64 64))
  | .intMin u => some (u, 1, fun a b _ => only (if a.toInt ≤ b.toInt then a else b))
  | .intMinu u => some (u, 1, fun a b _ => only (if a.toNat ≤ b.toNat then a else b))
  | .intMax u => some (u, 1, fun a b _ => only (if a.toInt ≤ b.toInt then b else a))
  | .intMaxu u => some (u, 1, fun a b _ => only (if a.toNat ≤ b.toNat then b else a))
  | .intAbs u => some (u, 1, fun _ b _ => only (if b.toInt < 0 then -b else b))
  | .intSeq u => some (u, 1, fun a b _ => truth (a = b))
  | .intSne u => some (u, 1, fun a b _ => truth (a ≠ b))
  | .intSlt u => some (u, 1, fun a b _ => truth (a.toInt < b.toInt))
  | .intSle u => some (u, 1, fun a b _ => truth (a.toInt ≤ b.toInt))
  | .intSltu u => some (u, 1, fun a b _ => truth (a.toNat < b.toNat))
  | .intSleu u => some (u, 1, fun a b _ => truth (a.toNat ≤ b.toNat))
  | .intSel u => some (u, 1, fun a b c => only (if b ≠ 0 then a else c))
  | .intClz u => some (u, 1, fun _ b _ => only b.clz)
  | .intCtz u => some (u, 1, fun _ b _ => only b.reverse.clz)
  | .intPopc u => some (u, 1, fun _ b _ => only b.cpop)
  | .intBrev u => some (u, 1, fun _ b _ => only b.reverse)
  | .intBswap u => some (u, 1, fun _ b _ => only (bytesReversed b))
  | .intBext u => some (u, 1, fun a b _ => only (fieldOf a b))
  | .intBins u => some (u, 1, fun a b c => only (fieldInto a b c))
  | .intSext u .b => some (u, 1, fun _ b _ => only ((b.extractLsb' 0 8).signExtend 64))
  | .intSext u .h => some (u, 1, fun _ b _ => only ((b.extractLsb' 0 16).signExtend 64))
  | .intSext u .w => some (u, 1, fun _ b _ => only ((b.extractLsb' 0 32).signExtend 64))
  | .intZext u .b => some (u, 1, fun _ b _ => only ((b.extractLsb' 0 8).zeroExtend 64))
  | .intZext u .h => some (u, 1, fun _ b _ => only ((b.extractLsb' 0 16).zeroExtend 64))
  | .intZext u .w => some (u, 1, fun _ b _ => only ((b.extractLsb' 0 32).zeroExtend 64))
  | _ => none

/-- (R108) A signed and an unsigned division: quotient and remainder, with the two special cases of the table. -/
def signedDiv (n : Nat) (x y : BitVec n) : Pair n :=
  if y = 0 then (BitVec.allOnes n, x)
  else if x = BitVec.intMin n ∧ y = BitVec.allOnes n then (x, 0) else (x.sdiv y, x.srem y)
def unsignedDiv (n : Nat) (x y : BitVec n) : Pair n := if y = 0 then (BitVec.allOnes n, x) else (x / y, x % y)

/-- (R108) The divides and remainders: unit, the width and the values delivered. -/
def divForm : Instr → Option (IntUnit × Bool × (W64 → W64 → Pair 64))
  | .intDiv u w => some (u, w, atWidth w signedDiv)
  | .intDivu u w => some (u, w, atWidth w unsignedDiv)
  | .intRem u w => some (u, w, atWidth w fun n x y => (signedDiv n x y).swap)
  | .intRemu u w => some (u, w, atWidth w fun n x y => (unsignedDiv n x y).swap)
  | _ => none

/-- A record with 64-bit `out` and `aux`. -/
def pairRec (r : Pair 64) : Rec := { out := r.1.setWidth 512, aux := r.2.setWidth 512, stat := 0 }

/-! ### Floating-point forms, read off the tables of R111 to R113 -/

/-- (R200) The rational number that a finite value stands for; 0 for the others. -/
def Val.rat : Val → ℚ
  | .fin neg m e => (if neg then -1 else 1) * (m : ℚ) * (2 : ℚ) ^ e
  | _ => 0

/-- Whether a value is finite. -/
def Val.isFin : Val → Bool
  | .fin _ _ _ => true
  | _ => false

/-- (R203) The c-th number of a format's grid from 0 up, which goes on above the largest finite value. -/
def Fmt.gridPoint (f : Fmt) (c : Nat) : ℚ :=
  let e := c / 2 ^ f.frac
  let r := c % 2 ^ f.frac
  if e = 0 then (r : ℚ) * (2 : ℚ) ^ f.low else ((2 ^ f.frac + r : Nat) : ℚ) * (2 : ℚ) ^ (f.low + (e - 1 : Nat))

/-- (R203) Of the neighbours number lo and lo + 1 of a magnitude x between them, under sign `neg`, the one that a mode takes. -/
def Fmt.choose (f : Fmt) (mode : RMode) (neg : Bool) (lo : Nat) (x : ℚ) : Nat :=
  match mode with
  | .rne =>
    let down := x - f.gridPoint lo
    let up := f.gridPoint (lo + 1) - x
    if down < up then lo else if up < down then lo + 1 else if lo % 2 = 0 then lo else lo + 1
  | .rz => lo
  | .rd => if neg then lo + 1 else lo
  | .ru => if neg then lo else lo + 1
  | .ro => if lo % 2 = 1 then lo else lo + 1

/-- (R203) The same choice for any real magnitude: `c` is the neighbour, of number lo or lo + 1, that a mode takes. -/
def Fmt.picks (f : Fmt) (mode : RMode) (neg : Bool) (lo : Nat) (x : ℝ) (c : Nat) : Prop :=
  match mode with
  | .rne =>
    let down := x - (f.gridPoint lo : ℝ)
    let up := (f.gridPoint (lo + 1) : ℝ) - x
    (down < up ∧ c = lo) ∨ (up < down ∧ c = lo + 1) ∨ (down = up ∧ c = if lo % 2 = 0 then lo else lo + 1)
  | .rz => c = lo
  | .rd => c = if neg then lo + 1 else lo
  | .ru => c = if neg then lo else lo + 1
  | .ro => c = if lo % 2 = 1 then lo else lo + 1

/-- (R203, R204, R207) What a magnitude x under sign `neg` gives in a format: the neighbour its mode takes, with inexact
where that is not x and underflow where it lies below the smallest normal too; above the largest finite value what R204
delivers, with overflow and inexact. -/
def Fmt.rounded (f : Fmt) (mode : RMode) (sat neg : Bool) (x : ℝ) (r : FRes) : Prop :=
  ∃ lo c : Nat, (f.gridPoint lo : ℝ) ≤ x ∧ x < (f.gridPoint (lo + 1) : ℝ) ∧
    (x = (f.gridPoint lo : ℝ) → c = lo) ∧ (x ≠ (f.gridPoint lo : ℝ) → f.picks mode neg lo x c) ∧
    (f.maxCode < c → r = { bits := f.overflow mode sat neg, ff := 5 }) ∧
    (c ≤ f.maxCode → r.bits = f.signBit neg + c ∧ (x = (f.gridPoint lo : ℝ) → r.ff = 0) ∧
      (x ≠ (f.gridPoint lo : ℝ) → r.ff = if c < 2 ^ f.frac then 3 else 1))

/-- (R202, R222) What an infinity and a NaN are in a format, and the flags of a NaN result: invalid for a signalling operand. -/
def Fmt.infinite (f : Fmt) (neg : Bool) : FRes :=
  match f with
  | .e4m3 => { bits := 0x7F, ff := 16 }
  | f => { bits := f.signBit neg + (2 ^ f.expo - 1) * 2 ^ f.frac, ff := 0 }
def Fmt.notANumber (f : Fmt) (invalid : Bool) : FRes :=
  { bits := match f with
      | .fp32 => 0x7FC00000
      | .fp16 => 0x7E00
      | .bf16 => 0x7FC0
      | .e4m3 => 0x7F
      | .e5m2 => 0x7E
    ff := if invalid then 16 else 0 }

/-- (R199, R203) A rational rounded to an integer. -/
def intPick (mode : RMode) (x : ℚ) : Int :=
  match mode with
  | .rne =>
    if x - ⌊x⌋ < 1 / 2 then ⌊x⌋ else if 1 / 2 < x - ⌊x⌋ then ⌊x⌋ + 1 else if ⌊x⌋ % 2 = 0 then ⌊x⌋ else ⌊x⌋ + 1
  | .rz => if x < 0 then ⌈x⌉ else ⌊x⌋
  | .rd => ⌊x⌋
  | .ru => ⌈x⌉
  | .ro => if ⌊x⌋ % 2 = 1 then ⌊x⌋ else ⌈x⌉

/-- (R45, R110) The format and the operand's encoding of a suffix. -/
def suffixFmt : FpFmt → Fmt
  | .s => .fp32
  | .h => .fp16
  | .b => .bf16
def enc (f : FpFmt) (v : W64) : Nat := match f with
  | .s => (v.extractLsb' 0 32).toNat
  | .h | .b => (v.extractLsb' 0 16).toNat

/-- (R111) A comparison: 0 on a NaN, which raises invalid where the row says so. -/
def compareOf (a b : Val) (quiet : Bool) (p : Bool) : FRes :=
  if a.isNan || b.isNan then { bits := 0, ff := if !quiet || a.isSnan || b.isSnan then 16 else 0 }
  else { bits := if p then 1 else 0, ff := 0 }

/-- (R111) a < b and a = b of values that are no NaN. -/
def lessThan (a b : Val) : Bool :=
  match a, b with
  | .inf x, .inf y => x && !y
  | .inf x, _ => x
  | _, .inf y => !y
  | a, b => decide (a.rat < b.rat)
def sameNumber (a b : Val) : Bool :=
  match a, b with
  | .inf x, .inf y => x == y
  | .fin _ _ _, .fin _ _ _ => decide (a.rat = b.rat)
  | _, _ => false

/-- (R111) minimumNumber and maximumNumber, with −0 < +0. -/
def minMaxOf (f : Fmt) (least : Bool) (x y : Nat) : FRes :=
  let a := f.val x
  let b := f.val y
  let ff : BitVec 5 := if a.isSnan || b.isSnan then 16 else 0
  if a.isNan && b.isNan then { bits := f.nan, ff := ff }
  else if a.isNan then { bits := y, ff := ff }
  else if b.isNan then { bits := x, ff := ff }
  else
    let yFirst := lessThan b a || (sameNumber a b && b.neg? && !a.neg?)
    let xFirst := lessThan a b || (sameNumber a b && a.neg? && !b.neg?)
    { bits := if (if least then yFirst else xFirst) then y else x, ff := ff }

/-- (R111) The class of an encoding: its bit in the mask. -/
def classBit (f : Fmt) (n : Nat) : Nat :=
  let neg := n.testBit f.signPos
  let top := 2 ^ f.expo - 1
  let e := n % 2 ^ f.signPos / 2 ^ f.frac
  let fr := n % 2 ^ f.frac
  if e = top then (if fr = 0 then (if neg then 0 else 7) else if fr.testBit (f.frac - 1) then 9 else 8)
  else if e = 0 then (if fr = 0 then (if neg then 3 else 4) else if neg then 2 else 5)
  else if neg then 1 else 6

/-- (R111 to R113) Each scalar floating-point form: unit, latency, and its encoding and flags as a function of FRM.MODE,
a = o1, b = T and o2. Exact results are those of `Val.add`, `Val.mul` and `Val.fma`, rounded once. -/
def fpForm : Instr → Option (Nat × Nat × (RMode → W64 → W64 → W64 → FRes))
  | .fpAdd f => some (3, 3, fun m a b _ =>
      (((suffixFmt f).val (enc f a)).add (m == .rd) ((suffixFmt f).val (enc f b))).into (suffixFmt f) m)
  | .fpSub f => some (3, 3, fun m a b _ =>
      (((suffixFmt f).val (enc f a)).add (m == .rd) ((suffixFmt f).val (enc f b)).negate).into (suffixFmt f) m)
  | .fpMin f => some (3, 3, fun _ a b _ => minMaxOf (suffixFmt f) true (enc f a) (enc f b))
  | .fpMax f => some (3, 3, fun _ a b _ => minMaxOf (suffixFmt f) false (enc f a) (enc f b))
  | .fpAbs f => some (3, 3, fun _ _ b _ => { bits := enc f b &&& (2 ^ (suffixFmt f).signPos - 1), ff := 0 })
  | .fpNeg f => some (3, 3, fun _ _ b _ => { bits := enc f b ^^^ 2 ^ (suffixFmt f).signPos, ff := 0 })
  | .fpCpsign f => some (3, 3, fun _ a b _ =>
      { bits := (enc f a &&& (2 ^ (suffixFmt f).signPos - 1)) ||| (enc f b &&& 2 ^ (suffixFmt f).signPos), ff := 0 })
  | .fpEq f => some (3, 3, fun _ a b _ =>
      let x := (suffixFmt f).val (enc f a)
      let y := (suffixFmt f).val (enc f b)
      compareOf x y true (sameNumber x y))
  | .fpLt f => some (3, 3, fun _ a b _ =>
      let x := (suffixFmt f).val (enc f a)
      let y := (suffixFmt f).val (enc f b)
      compareOf x y false (lessThan x y))
  | .fpLe f => some (3, 3, fun _ a b _ =>
      let x := (suffixFmt f).val (enc f a)
      let y := (suffixFmt f).val (enc f b)
      compareOf x y false (lessThan x y || sameNumber x y))
  | .fpClass f => some (3, 3, fun _ _ b _ => { bits := 2 ^ classBit (suffixFmt f) (enc f b), ff := 0 })
  | .fpRnd f => some (3, 3, fun m _ b _ => (suffixFmt f).rnd (enc f b) m)
  | .fpCvtI2f f => some (3, 3, fun m _ b _ => (Val.fin (b.toInt < 0) b.toInt.natAbs 0).into (suffixFmt f) m false)
  | .fpCvtF2i f => some (3, 3, fun m _ b _ =>
      let r := ((suffixFmt f).val (enc f b)).toInt (-(2 ^ 63)) (2 ^ 63 - 1) m
      { bits := (BitVec.ofInt 64 r.1).toNat, ff := r.2 })
  | .fpCvtFormat .hs => some (3, 3, fun m _ b _ => (Fmt.val .fp32 (enc .s b)).into .fp16 m false)
  | .fpCvtFormat .bs => some (3, 3, fun m _ b _ => (Fmt.val .fp32 (enc .s b)).into .bf16 m false)
  | .fpCvtFormat .sh => some (3, 3, fun m _ b _ => (Fmt.val .fp16 (enc .h b)).into .fp32 m false)
  | .fpCvtFormat .sb => some (3, 3, fun m _ b _ => (Fmt.val .bf16 (enc .b b)).into .fp32 m false)
  | .fpCvtFormat .hb => some (3, 3, fun m _ b _ => (Fmt.val .bf16 (enc .b b)).into .fp16 m false)
  | .fpCvtFormat .bh => some (3, 3, fun m _ b _ => (Fmt.val .fp16 (enc .h b)).into .bf16 m false)
  | .fpMul f => some (4, 4, fun m a b _ => (((suffixFmt f).val (enc f a)).mul ((suffixFmt f).val (enc f b))).into (suffixFmt f) m)
  | .fpFma f => some (4, 4, fun m a b c => (Val.fma (m == .rd) ((suffixFmt f).val (enc f a)) ((suffixFmt f).val (enc f b))
      ((suffixFmt f).val (enc f c))).into (suffixFmt f) m)
  | .fpFms f => some (4, 4, fun m a b c => (Val.fma (m == .rd) ((suffixFmt f).val (enc f a)) ((suffixFmt f).val (enc f b))
      ((suffixFmt f).val (enc f c)).negate).into (suffixFmt f) m)
  | .fpFnma f => some (4, 4, fun m a b c => (Val.fma (m == .rd) ((suffixFmt f).val (enc f a)).negate
      ((suffixFmt f).val (enc f b)) ((suffixFmt f).val (enc f c))).into (suffixFmt f) m)
  | .fpDiv f => some (4, 12, fun m a b _ =>
      ((suffixFmt f).val (enc f a)).divInto ((suffixFmt f).val (enc f b)) (suffixFmt f) m)
  | .fpSqrt f => some (4, 14, fun m _ b _ => ((suffixFmt f).val (enc f b)).sqrtInto (suffixFmt f) m)
  | .fpRcp f => some (4, 12, fun m _ b _ => (Val.fin false 1 0).divInto ((suffixFmt f).val (enc f b)) (suffixFmt f) m)
  | _ => none

/-- (R110) The record of a floating-point form: the encoding zero-extended, and the flags in `stat`. -/
def fpRecord (r : FRes) : Rec := { out := BitVec.ofNat 512 r.bits, aux := 0, stat := r.ff.zeroExtend 64 }

/-! ### Words and traps -/

/-- What a destination holds. -/
def Ctx.holds (x : Ctx) : Dest → W512
  | .g n => (x.readG n.toNat).zeroExtend 512
  | .f n => if x.readF n.toNat then 1 else 0
  | .a n => (x.readA n.toNat).zeroExtend 512
  | .v n => x.readV n.toNat
  | .port u p => x.bank.port u.toNat p.toNat

/-- (R29, R30, R42) What a destination holds once a value has been moved to it: g0 and f0 are as they are. -/
def destTakes (d : Dest) (v : W512) : W512 :=
  match d with
  | .g n => if n = 0 then 0 else (v.extractLsb' 0 64).zeroExtend 512
  | .f n => if n = 0 then 1 else if v.getLsbD 0 then 1 else 0
  | .a _ => (v.extractLsb' 0 64).zeroExtend 512
  | .v _ => v
  | .port _ _ => v

/-- (R30, R40) A register, a flag, or an operand port: a destination that is no trigger port. -/
def destIsStore : Dest → Bool
  | .port _ p => p.toNat < 3
  | _ => true

/-- (R34) A value on a bus: of 64 bits, or of 512. -/
inductive Bused where
  | narrow (v : W64)
  | broad (v : W512)

/-- (R34) A 64-bit value in all eight 64-bit lanes. -/
def eightLanes (v : W64) : W512 := v ++ v ++ v ++ v ++ v ++ v ++ v ++ v

/-- (R34) A source put onto the bus of a slot: 64 bits wide in slots 0 to 3, 512 in slots 4 to 7. -/
def ontoBus (slot : Nat) : Bused → Bused
  | .narrow v => if slot < 4 then .narrow v else .broad (eightLanes v)
  | .broad v => if slot < 4 then .narrow (v.extractLsb' 0 64) else .broad v

/-- (R34) A bus taken into a destination of 512 or of 64 bits; the latter holds bits [63:0]. -/
def offBus (wide : Bool) : Bused → W512
  | .narrow v => if wide then eightLanes v else v.zeroExtend 512
  | .broad v => if wide then v else (v.extractLsb' 0 64).zeroExtend 512

/-- (R42) Whether a destination is 512 bits wide: a vector register, a port of veca, vecb or cvt but `vfmt`, or o1 of mema,
memb and net. -/
def wideDest : Dest → Bool
  | .v _ => true
  | .port u p => u.toNat == 9 || ((u.toNat == 7 || u.toNat == 8) && p.toNat != 3)
      || ((u.toNat == 5 || u.toNat == 6 || u.toNat == 13) && p.toNat == 0)
  | _ => false

/-- (R41) The bits of a result slot that exists. -/
def resultBits (u s : Nat) : Option Nat :=
  if s = 0 ∧ 5 ≤ u ∧ u ≤ 10 then some 512
  else if s = 0 ∧ (1 ≤ u ∧ u ≤ 4 ∨ 11 ≤ u ∧ u ≤ 15) then some 64
  else if s = 1 ∧ u = 9 then some 512
  else if s = 1 ∧ (u = 1 ∨ u = 2) then some 64
  else if s = 2 ∧ 3 ≤ u ∧ u ≤ 14 then some 64
  else if (u = 5 ∨ u = 6) ∧ s = 3 ∨ u = 13 ∧ 3 ≤ s ∧ s ≤ 6 then some 512
  else none

/-- (R29, R36, R41) The value that a move's source holds: a register, a flag or a constant, or the field of the record at the head
of a queue, or of a free-running unit's slots; none where there is no such record, and for a `stat` that another read of the word
claims. -/
def MoveAt.gives (t : Tile) (x : Ctx) (ms : List MoveAt) (m : MoveAt) : Option Bused :=
  match m.src with
  | .g n => some (.narrow (x.readG n.toNat))
  | .f n => some (.narrow (if x.readF n.toNat then 1 else 0))
  | .a n => some (.narrow (x.readA n.toNat))
  | .v n => some (.broad (x.readV n.toNat))
  | .imm c => some (.narrow (BitVec.ofInt 64 ((c.toNat : Int) - 1024)))
  | .long => some (.narrow m.value)
  | .res u s =>
    let record : Option Rec :=
      if s.toNat = 3 ∧ u.toNat ≠ 13 then (x.bank.queue (16 + u.toNat)).head?
      else if 3 ≤ s.toNat then ((t.rqs.get RQueue.init (s.toNat - 3)).entries.head?).map fun e => { out := e.1, aux := 0, stat := e.2 }
      else if statElsewhere ms u.toNat s.toNat then none
      else if x.locked u.toNat then (x.bank.queue u.toNat).head?
      else some (x.bank.slot u.toNat)
    match resultBits u.toNat s.toNat, record with
    | some 512, some r => some (.broad (if s.toNat = 1 then r.aux else r.out))
    | some _, some r => some (.narrow (if s.toNat = 1 then r.aux.extractLsb' 0 64 else if s.toNat = 2 then r.stat else r.out.extractLsb' 0 64))
    | _, _ => none

/-- (R36, R42) The triggers of a word's moves, in slot order, each with the value that its move carries. -/
def triggersOf (c : Who) (word : Nat) (value : MoveAt → W512) (ms : List MoveAt) : List Task :=
  ms.flatMap fun k => match k.dst with
    | .port u p =>
      if p.toNat < 3 then []
      else match opOf u.toNat p.toNat (value k) with
        | some i => [.run { who := c, word := word, slot := k.slot, t := value k, again := false, late := false } i]
        | none => []
    | _ => []

/-- A move whose source is a register, a flag or a constant, to a register or a flag within an allotment. -/
def MoveAt.plain (x : Ctx) (m : MoveAt) : Bool :=
  (match m.src with
    | .g n => n.toNat < x.gcount
    | .v n => n.toNat < x.vcount
    | .f _ | .a _ | .imm _ | .long => true
    | .res _ _ => false) &&
  (match m.dst with
    | .g n => n.toNat < x.gcount
    | .v n => n.toNat < x.vcount
    | .f _ | .a _ => true
    | .port _ _ => false)

/-- (R102) A record of the fields of FREC0. -/
def frec0Fields (v : W64) (word : Nat) (info : BitVec 16) (queued delay level : Bool) (slot code : Nat) : Prop :=
  (v.extractLsb' 32 13).toNat = word ∧ v.extractLsb' 16 16 = info ∧ v.getLsbD 13 = queued ∧ v.getLsbD 12 = delay ∧
    v.getLsbD 11 = level ∧ (v.extractLsb' 8 3).toNat = slot ∧ (v.extractLsb' 0 8).toNat = code ∧
    v.extractLsb' 45 19 = 0 ∧ v.extractLsb' 14 2 = 0

/-- (R60, R89, R100) What trap entry leaves in a context: the handler's bank, LOCKMASK and loop state, the next word at
TRAPBASE.ENTRY without delay words, and in the trap shadow what the interrupted stream had. Registers, flags, pointers, walk
descriptors, allotment, priority, FRM and FFLAGS stay. -/
def trapEntered (x y : Ctx) : Prop :=
  y.bank = Bank.init ∧ y.lock = 0xFFFF ∧ y.loop.active = false ∧ y.xfer = [] ∧ y.pc = x.trapbase.toNat ∧ y.stall = 0 ∧
    (∃ sh, y.shadow = some sh ∧ sh.bank = x.bank ∧ sh.lock = x.lock ∧ sh.loop = x.loop ∧ sh.xfer = x.xfer) ∧
    y.g = x.g ∧ y.f = x.f ∧ y.a = x.a ∧ y.v = x.v ∧ y.wd = x.wd ∧ y.gcount = x.gcount ∧ y.vcount = x.vcount ∧
    y.prio = x.prio ∧ y.frm = x.frm ∧ y.fflags = x.fflags

/-- Nothing but one context differs: the other contexts, every other part of the tiles, memory and everything else of the state
but the forced steps are the same. -/
def onlyCtx (s t : State) (c : Who) : Prop :=
  (∀ d, d ≠ c → t.ctx d = s.ctx d) ∧ (∀ u, { t.tile u with ctxs := (s.tile u).ctxs } = s.tile u) ∧
    { t with tiles := s.tiles, agenda := s.agenda } = s

/-- Nothing but one context, its tile's hold on the loop buffer, a yield and the parity of its bank differs: the other contexts,
the tiles' other parts, memory and everything else of the state but the forced steps are the same. -/
def onlyContext (s t : State) (c : Who) : Prop :=
  (∀ d, d ≠ c → t.ctx d = s.ctx d) ∧
    (∀ u, { t.tile u with
      ctxs := (s.tile u).ctxs
      loopBuf := (s.tile u).loopBuf
      yielded := (s.tile u).yielded } = s.tile u) ∧
    t.parity.filter (fun e => !bankStrike c e) = s.parity.filter (fun e => !bankStrike c e) ∧
    { t with tiles := s.tiles, agenda := s.agenda, parity := s.parity } = s

/-- The trigger that starts stands in its word with no other trigger of the word put off behind it (R117), and no trigger of an
earlier slot waits (R39). -/
def noneLate (s : State) : Bool :=
  ((wordRest s.trig.who s.agenda).filter Task.isLate).isEmpty && s.self.cont.all fun k => s.trig.slot ≤ k.slot

/-- (R37) The count with which a result of a word starts in a unit: its latency, or, where a result of fixed latency of an earlier slot
of that word is still in flight there, what is left of that, if it is more. -/
def startsWith (b : Bank) (u : Nat) (cyc : W64) (lat : Nat) : Nat :=
  ((b.fly.filter fun q => decide (q.unit = u ∧ q.cyc = cyc ∧ q.div = false)).map (·.left)).foldl max lat

/-- (R22) A word by its header, bits [255:232], and its slots, slot 0 first. -/
def wordFrom (header : Nat) (slots : List Nat) : W256 :=
  BitVec.ofNat 256 (header * 2 ^ 232 + slots.foldr (fun x n => x + 2 ^ 29 * n) 0)

/-! ### Control, read off R85 to R99 and R122 -/

/-- (R85) The control transfers: port, target from W and T, and whether g1 := W + 3. -/
def transferForm : Instr → Option (BitVec 6 × (W64 → W64 → W64) × Bool)
  | .ctlJump => some (3, fun _ t => t, false)
  | .ctlJumpr => some (4, fun w t => w + t, false)
  | .ctlCall => some (5, fun _ t => t, true)
  | .ctlCallr => some (6, fun w t => w + t, true)
  | .ctlRet => some (7, fun _ t => t, false)
  | _ => none

/-- (R97) The allotment operations: the step, the range, and whether names are added. -/
def allotForm : Instr → Option (Bool × Bool)
  | .ctlGrowG => some (false, true)
  | .ctlShrinkG => some (false, false)
  | .ctlGrowV => some (true, true)
  | .ctlShrinkV => some (true, false)
  | _ => none

/-- (R97) The physical registers of a file that a tile's four contexts leave free. -/
def freeOf (s : State) (tile : Nat) (vector : Bool) : Nat :=
  if vector then 768 - ((whosOf tile).map fun c => (s.ctx c).vcountNow).sum
  else 256 - ((whosOf tile).map fun c => (s.ctx c).gcountNow).sum

/-- (R97) The count after an allotment operation with T, where none of the four conditions of R97 stands against it. -/
def allotTo (vector grow : Bool) (now free : Nat) (t : Int) : Option Nat :=
  let step : Int := if vector then 32 else 8
  let lo : Int := if vector then 0 else 8
  let hi : Int := if vector then 768 else 64
  let n : Int := if grow then now + t else now - t
  if 0 ≤ t ∧ step ∣ t ∧ lo ≤ n ∧ n ≤ hi ∧ (grow → t ≤ free) then some n.toNat else none

/-- (R25, R29 to R31) Whether slot `i` causes an illegal word: a reserved field; a long-literal move that claims no literal slot;
a literal slot that no move claims; a DEST that another move names too, or a control transfer beside another, unless their guards
name the same flag with opposite inversion bits. -/
def causesIllegal (vs : List SlotView) (i : Nat) : Prop :=
  let isLit (k : Nat) : Prop := ∃ x, vs[k]? = some (.lit x)
  let isLong (k : Nat) : Prop := ∃ g d, vs[k]? = some (.move g (some .long) d)
  let jumps (d : Dest) : Prop := ∃ p ∈ ([3, 4, 5, 6, 7, 12] : List (BitVec 6)), d = .port 0 p
  (∃ g a b, vs[i]? = some (.move g a b) ∧
    (a = none ∨ b = none ∨ (a = some .long ∧ ¬isLit (i + 1)) ∨
      ∃ (d e : Dest) (j : Nat) (h : Guard) (a' : Option Source), b = some d ∧ j ≠ i ∧ vs[j]? = some (.move h a' (some e)) ∧
        (d = e ∨ jumps d ∧ jumps e) ∧ ¬(g.flag = h.flag ∧ g.inv ≠ h.inv))) ∨
  (isLit i ∧ ¬(1 ≤ i ∧ isLong (i - 1)) ∧ ¬(2 ≤ i ∧ isLit (i - 1) ∧ isLong (i - 2)))

/-- (R33, R57) Whether slot `i` causes FLT_PORT in a word of context number `k`: it names an unassigned result slot or port, or its
move performs and reads a data-locked queue with nothing queued or in flight, or a receive queue that is not the context's. -/
def causesPort (t : Tile) (k : Nat) (x : Ctx) (qx : BitVec 4) (m : MoveWord) (i : Nat) : Prop :=
  (∃ g a b, m.slots[i]? = some (.move g a b) ∧
    ((∃ u r, a = .res u r ∧ resultBits u.toNat r.toNat = none) ∨
      ∃ u p, b = .port u p ∧ ¬(p.toNat < 3 ∧ u.toNat ≠ 0) ∧ ∀ j : Instr, portOf j ≠ some (u.toNat, p.toNat))) ∨
  ∃ mv u r, mv ∈ taken x (wordMoves m) ∧ mv.slot = i ∧ mv.src = .res u r ∧ statElsewhere (taken x (wordMoves m)) u.toNat r.toNat = false ∧
    if u.toNat = 13 ∧ 3 ≤ r.toNat then
      (t.rqs.get RQueue.init (r.toNat - 3)).reader ≠ k ∨ qx.getLsbD (r.toNat - 3) = true
    else
      let key := if r.toNat = 3 ∧ (u.toNat = 5 ∨ u.toNat = 6) then 16 + u.toNat else u.toNat
      (key ≠ u.toNat ∨ x.locked u.toNat = true) ∧ x.bank.queue key = [] ∧ (∀ f ∈ x.bank.fly, f.unit ≠ key) ∧
        ∀ o ∈ x.bank.outst, o.key ≠ key

/-- (R32) The file, vector or scalar, of the register above its allotment that a move names, its source before its destination. -/
def aboveAllotment (x : Ctx) (mv : MoveAt) : Option Bool :=
  let ofDest : Option Bool := match mv.dst with
    | .g n => if x.gcount ≤ n.toNat then some false else none
    | .v n => if x.vcount ≤ n.toNat then some true else none
    | _ => none
  match mv.src with
  | .g n => if x.gcount ≤ n.toNat then some false else ofDest
  | .v n => if x.vcount ≤ n.toNat then some true else ofDest
  | _ => ofDest

/-- (R63) Whether a move that performs reads `out` of a free-running unit a second time while a result of it is in flight, with latency
checking on. -/
def readsEarly (x : Ctx) (mv : MoveAt) : Prop :=
  x.check = true ∧ ∃ u, mv.src = .res u 0 ∧ x.locked u.toNat = false ∧ x.bank.marks.getLsbD u.toNat = true ∧
    ∃ r ∈ x.bank.fly, r.unit = u.toNat

/-- (R104) The three forms of ctl.rfe. -/
def rfeForm : Instr → Option Nat
  | .rfeResume => some 0
  | .rfeRetry => some 1
  | .rfeSkip => some 2
  | _ => none

/-- (R122, R123) The system registers whose value a context holds or shares with its job, by number. -/
def sysValue (s : State) (c : Who) : Nat → Option W64
  | 0x000 => some (coordOf (s.jobFor c) c.tile)
  | 0x001 => some (physOf c.tile)
  | 0x002 => some (BitVec.ofNat 64 c.ctx)
  | 0x003 => some ((s.ctx c).prio.zeroExtend 64)
  | 0x004 => some (BitVec.ofNat 64 (2 ^ 16 * (s.ctx c).vcount + (s.ctx c).gcount))
  | 0x005 => some ((s.ctx c).lock.zeroExtend 64)
  | 0x006 => some (if (s.ctx c).check then 1 else 0)
  | 0x010 => some ((s.ctx c).frm.zeroExtend 64)
  | 0x011 => some ((s.ctx c).fflags.zeroExtend 64)
  | 0x012 => some ((s.ctx c).trapbase.zeroExtend 64)
  | 0x013 => some ((s.ctx c).slim.zeroExtend 64)
  | 0x018 => some (s.ctx c).frec0
  | 0x019 => some (s.ctx c).frec1
  | 0x01A => some (s.ctx c).frec2
  | 0x01B => some (s.ctx c).frec3
  | 0x020 => some s.cycle
  | 0x021 => some (((if (s.jobFor c).abort then 1#32 else 0#32) ++ (s.jobFor c).phase : BitVec 64))
  | 0x022 => some ((s.jobFor c).asid.zeroExtend 64)
  | 0x023 => some ((s.jobFor c).cw.zeroExtend 64)
  | 0x024 => some (s.ctx c).disc
  | 0x025 => some s.bootcause
  | _ => none

/-- (R122, R123) What a writable register reads after a write of v: its reserved bits stay zero. -/
def sysWritten : Nat → W64 → Option W64
  | 0x010, v => some (v &&& 0x3)
  | 0x011, v => some (v &&& 0x1F)
  | 0x012, v => some (v &&& 0x1FFF)
  | 0x013, v => some (v &&& 0xFFFFFFFFFFFF)
  | 0x01A, v => some v
  | 0x01B, v => some v
  | _, _ => none

/-- (R124) The counters: those of the tile, and those of its die. -/
def counterValue (s : State) (c : Who) (n : Nat) : Option W64 :=
  if n ∈ [0, 1, 5, 9, 10] then some ((s.tile c.tile).ctrs.get 0 n)
  else if n ∈ [2, 3, 4, 6, 7, 8] then some (s.dctrs.get 0 (16 * (c.tile / 144) + n))
  else none

/-- (R121) The value that a form of sys delivers, where T names something. -/
def sysForm (s : State) : Instr → Option W64
  | .sysRd => sysValue s s.trig.who s.opT64.toNat
  | .sysRdc => counterValue s s.trig.who s.opT64.toNat
  | .sysFrec => match s.opT64.toNat with
    | 0 => some s.self.frec0
    | 1 => some s.self.frec1
    | 2 => some s.self.frec2
    | 3 => some s.self.frec3
    | _ => none
  | _ => none

/-- A record of trap entry for a trigger fault of the word that starts: LEVEL 1, QUEUED 0, its slot, and FREC1 and FREC2. -/
def trapRecorded (s : State) (y : Ctx) (code : Nat) (info : BitVec 16) (f1 : W64) : Prop :=
  frec0Fields y.frec0 (s.trig.word % 8192) info false (!s.self.applyLater.xfer.isEmpty) true (s.trig.slot % 8) code ∧
    y.frec1 = f1 ∧ y.frec2 = s.opT64 ∧ y.frec3 = s.self.applyLater.bank.latencyMap

/-! ### Memory operations, read off R114 to R120 and R150 to R166 -/

/-- (R117) A mema or memb trigger that starts in its place: none of its word is put off or waits, and no mema trigger of the word
comes before it in the tile's order. -/
def startsNow (s : State) (u : Nat) : Prop :=
  s.trig.late = false ∧ noneLate s = true ∧ s.self.cont = [] ∧ (u = 6 → s.memaLeft = false)

/-- (R170) No wait, lock, pop, phase or drain of the trigger's word has still to complete; one that has not holds the later accesses
of its word. -/
def acquiresNothing (s : State) : Prop := ∀ b ∈ s.self.block, ∃ o, b = .copy o

/-- (R165, R170, R354) An operation is over: it has performed, in its tile if it delivers a record. The reply of another may still be
lost or bear a status, and its return then performs it again in its old place. -/
def isOver (s : State) (o : MemOp) : Prop :=
  o.done = true ∧ ((match o.kind with
    | .ldq _ _ | .ldf _ | .lds _ | .amo _ _ _ => True
    | _ => False) → s.opLocal o = true)

/-- (R165, R170) Nothing holds the local accesses of the trigger's context: what its word acquires is complete, and no earlier
operation of it is an unfinished fence, strong load or atomic, or a local access. -/
def nothingHolds (s : State) : Prop :=
  acquiresNothing s ∧ ∀ o ∈ s.ops, o.who = s.trig.who → isOver s o ∨ (match o.kind with
    | .fence _ | .lds _ | .amo _ _ _ => False
    | .touch => True
    | _ => s.opLocal o = false)

/-- (R165, R170) What holds the later local accesses of the trigger's context: something that its word still acquires, or, outside a
handler, an earlier operation of it. -/
def somethingHolds (s : State) : Prop :=
  ¬acquiresNothing s ∨ s.self.shadow = none ∧ ∃ o ∈ s.ops, o.who = s.trig.who ∧ o.job = s.self.job ∧ ¬isOver s o ∧ (match o.kind with
    | .fence _ | .lds _ | .amo _ _ _ => True
    | .touch => False
    | _ => o.hold = none ∧ s.opLocal o = true)

/-- (R117, R165, R170) A trigger waits in its place: it stands last among those of its word that wait, and nothing else changes. -/
def putOff (s t : State) (i : Instr) : Prop :=
  t.self = { s.self with cont := s.self.cont ++ [.run { s.trig with late := true } i] } ∧ onlyContext s t s.trig.who

/-- (R16, R332) The storage location that a local address of a context names. -/
def localLoc (s : State) (c : Who) (p : W64) : Nat :=
  2 ^ 20 * c.tile + (4096 * (s.jobFor c).swbase + (p.extractLsb' 0 20).toNat) % 2 ^ 20

/-- (R114, R133) Whether a pointer names its context's own tile. -/
def namesOwnTile (s : State) (c : Who) (p : W64) : Bool :=
  p.extractLsb' 40 8 == 0xFF &&
    (s.jobFor c).phys (p.extractLsb' 38 2).toNat (p.extractLsb' 34 4).toNat (p.extractLsb' 30 4).toNat == some c.tile

/-- (R114, R130, R132) Whether a pointer is not canonical. -/
def notCanonical (p : W64) : Bool :=
  p.extractLsb' 48 10 != 0 || (p.extractLsb' 40 8 == 0xFF && p.extractLsb' 20 10 != 0)

/-- (R114, R332, R357) The code of the first fault of a local load, push or pop of n bytes at p; `limit` is the stack limit
that push checks, and `reads` whether uncorrectable data matters. -/
def localCheck (s : State) (c : Who) (p : W64) (n : Nat) (limit : Option (BitVec 48)) (reads : Bool) : Option Nat :=
  let off := (p.extractLsb' 0 20).toNat
  let loc := localLoc s c p
  if notCanonical p then some 0x07
  else if !namesOwnTile s c p then some 0x18
  else if off % n ≠ 0 then some 0x06
  else if limit.any (fun l => (p.extractLsb' 0 48) < l) then some 0x05
  else if (s.jobFor c).swcnt ≤ off / 4096 then some 0x0B
  else if (s.tile c.tile).owner.get 0 (loc % 2 ^ 20 / 4096) ≠ 0 then some 0x0C
  else if reads && s.poison.any (fun d => decide (8 * d < loc + n ∧ loc < 8 * d + 8)) then some 0x10
  else none

/-- (R115) The bytes of a load form, and what it delivers for the number that they hold. -/
def loadedBy (f : LoadForm) (v : Nat) : Nat × W512 :=
  match f with
  | .b => (1, ((BitVec.ofNat 8 v).signExtend 64).zeroExtend 512)
  | .bu => (1, (BitVec.ofNat 8 v).zeroExtend 512)
  | .h => (2, ((BitVec.ofNat 16 v).signExtend 64).zeroExtend 512)
  | .hu => (2, (BitVec.ofNat 16 v).zeroExtend 512)
  | .w => (4, ((BitVec.ofNat 32 v).signExtend 64).zeroExtend 512)
  | .wu => (4, (BitVec.ofNat 32 v).zeroExtend 512)
  | .d => (8, (BitVec.ofNat 64 v).zeroExtend 512)
  | .v => (64, BitVec.ofNat 512 v)

/-- Signed maximum and minimum of two doublewords. -/
def signedMax (a b : W64) : W64 := if a.toInt ≤ b.toInt then b else a
def signedMin (a b : W64) : W64 := if a.toInt ≤ b.toInt then a else b

/-- (R157, R159) round_rne(x + y) of two FP32 encodings. -/
def sumRne (x y : W64) : Nat :=
  (((Fmt.fp32.val (x.extractLsb' 0 32).toNat).add false (Fmt.fp32.val (y.extractLsb' 0 32).toNat)).into .fp32 .rne).bits

/-- (R116, R156, R157, R159) The forms that write memory: their unit, how many bytes, and the number that they store as a
function of o1, of the number that stood there, and of o2. -/
def storeForm : Instr → Option (Nat × Nat × (W512 → W64 → W64 → Nat))
  | .store u .b => some (u.num, 1, fun a _ _ => (a.extractLsb' 0 8).toNat)
  | .store u .h => some (u.num, 2, fun a _ _ => (a.extractLsb' 0 16).toNat)
  | .store u .w => some (u.num, 4, fun a _ _ => (a.extractLsb' 0 32).toNat)
  | .store u .d => some (u.num, 8, fun a _ _ => (a.extractLsb' 0 64).toNat)
  | .store u .v => some (u.num, 64, fun a _ _ => a.toNat)
  | .stS => some (6, 8, fun a _ _ => (a.extractLsb' 0 64).toNat)
  | .amoAdd true _ => some (6, 4, fun a old _ => (old.extractLsb' 0 32 + a.extractLsb' 0 32).toNat)
  | .amoAdd false _ => some (6, 8, fun a old _ => (old + a.extractLsb' 0 64).toNat)
  | .amoAnd _ => some (6, 8, fun a old _ => (old &&& a.extractLsb' 0 64).toNat)
  | .amoOr _ => some (6, 8, fun a old _ => (old ||| a.extractLsb' 0 64).toNat)
  | .amoXor _ => some (6, 8, fun a old _ => (old ^^^ a.extractLsb' 0 64).toNat)
  | .amoMax _ => some (6, 8, fun a old _ => (signedMax old (a.extractLsb' 0 64)).toNat)
  | .amoMaxu _ => some (6, 8, fun a old _ => max old.toNat (a.extractLsb' 0 64).toNat)
  | .amoMin _ => some (6, 8, fun a old _ => (signedMin old (a.extractLsb' 0 64)).toNat)
  | .amoMinu _ => some (6, 8, fun a old _ => min old.toNat (a.extractLsb' 0 64).toNat)
  | .amoSwap _ => some (6, 8, fun a _ _ => (a.extractLsb' 0 64).toNat)
  | .amoCas => some (6, 8, fun a old e => if old = e then (a.extractLsb' 0 64).toNat else old.toNat)
  | .amoFadd => some (6, 4, fun a old _ => sumRne old (a.extractLsb' 0 64))
  | .amoFaddLoose => some (6, 4, fun a old _ => sumRne old (a.extractLsb' 0 64))
  | .redAdd => some (6, 8, fun a old _ => (old + a.extractLsb' 0 64).toNat)
  | .redAnd => some (6, 8, fun a old _ => (old &&& a.extractLsb' 0 64).toNat)
  | .redOr => some (6, 8, fun a old _ => (old ||| a.extractLsb' 0 64).toNat)
  | .redXor => some (6, 8, fun a old _ => (old ^^^ a.extractLsb' 0 64).toNat)
  | .redMax => some (6, 8, fun a old _ => (signedMax old (a.extractLsb' 0 64)).toNat)
  | .redMin => some (6, 8, fun a old _ => (signedMin old (a.extractLsb' 0 64)).toNat)
  | .redFadd => some (6, 4, fun a old _ => sumRne old (a.extractLsb' 0 64))
  | _ => none

/-- (R157) What an atomic delivers for the number that stood in memory; none for a form that delivers nothing. -/
def atomicOut (i : Instr) (old : W64) : Option W512 :=
  match i with
  | .amoAdd true _ => some (((old.extractLsb' 0 32).signExtend 64).zeroExtend 512)
  | .amoFadd | .amoFaddLoose => some ((old.extractLsb' 0 32).zeroExtend 512)
  | .amoAdd false _ | .amoAnd _ | .amoOr _ | .amoXor _ | .amoMax _ | .amoMaxu _ | .amoMin _ | .amoMinu _ | .amoSwap _
  | .amoCas => some (old.zeroExtend 512)
  | _ => none

/-- (R47, R48, R152 to R162) The forms that may stay outstanding: unit and kind. -/
def queuedForm : Instr → Option (Nat × MemKind)
  | .ldq f => some (5, .ldq f false)
  | .ldqNf f => some (5, .ldq f true)
  | .ldF => some (5, .ldf false)
  | .ldFNf => some (5, .ldf true)
  | .touch => some (5, .touch)
  | .store u f => some (u.num, .store f)
  | .ldS => some (6, .lds false)
  | .ldSNf => some (6, .lds true)
  | .stS => some (6, .sts)
  | .stP => some (6, .stp)
  | .amoAdd w nc => some (6, .amo .add w nc)
  | .amoAnd nc => some (6, .amo .and false nc)
  | .amoOr nc => some (6, .amo .or false nc)
  | .amoXor nc => some (6, .amo .xor false nc)
  | .amoMax nc => some (6, .amo .max false nc)
  | .amoMaxu nc => some (6, .amo .maxu false nc)
  | .amoMin nc => some (6, .amo .min false nc)
  | .amoMinu nc => some (6, .amo .minu false nc)
  | .amoSwap nc => some (6, .amo .swap false nc)
  | .amoCas => some (6, .amo .cas false true)
  | .amoFadd => some (6, .amo .fadd true true)
  | .amoFaddLoose => some (6, .amo .faddLoose true false)
  | .redAdd => some (6, .red .add)
  | .redAnd => some (6, .red .and)
  | .redOr => some (6, .red .or)
  | .redXor => some (6, .red .xor)
  | .redMax => some (6, .red .max)
  | .redMin => some (6, .red .min)
  | .redFadd => some (6, .red .fadd)
  | _ => none

/-- (R48) The forms that deliver a record to ldq. -/
def delivers : MemKind → Bool
  | .ldq _ _ | .ldf _ | .lds _ | .amo _ _ _ => true
  | .store _ | .sts | .stp | .red _ | .touch | .fence _ => false

/-- (R120, R133, R152, R155, R157, R159, R325, R332) The code of the first fault of a queued form at its trigger. -/
def queuedCheck (s : State) (c : Who) (k : MemKind) (p o2 o3 : W64) : Option Nat :=
  let j := s.jobFor c
  let fmt := (p.extractLsb' 60 4).toNat
  let blk := (p.extractLsb' 58 2).toNat
  let element := if fmt ∈ [2, 5, 6] then 2 else if fmt ∈ [3, 4] then 4 else 1
  let n := 16 * 2 ^ blk
  let magnitude := if fmt = 9 then 2 else if fmt = 10 then 4 else 7
  let decodes : Bool := match k with
    | .ldf _ => true
    | _ => false
  let cross : Bool := match k with
    | .amo _ _ _ => o3.getLsbD 8
    | _ => false
  let size := if decodes then (if fmt ≤ 8 then 16 * element else (16 + n / 2 + n * (magnitude + 1) + 7) / 8) else k.bytes p
  let step := if decodes then (if fmt ≤ 8 then element else 1) else if k = .touch then 1 else k.bytes p
  let va : BitVec 48 := p.extractLsb' 0 48
  let bytes : List (BitVec 48) := (List.range size).map fun i => va + BitVec.ofNat 48 i
  let tileSpace (a : BitVec 48) : Bool := a.extractLsb' 40 8 == 0xFF
  let home (a : BitVec 48) : Option Nat := j.phys (a.extractLsb' 38 2).toNat (a.extractLsb' 34 4).toNat (a.extractLsb' 30 4).toNat
  let owner (a : BitVec 48) : BitVec 2 := (s.tile c.tile).owner.get 0 ((4096 * j.swbase + (a.extractLsb' 0 20).toNat) % 2 ^ 20 / 4096)
  if decodes && (fmt == 0 || 12 ≤ fmt || (9 ≤ fmt && (blk == 3 || 2 ^ blk ≤ (o2.extractLsb' 0 2).toNat))) then some 0x07
  else if p.extractLsb' 48 10 ≠ 0 then some 0x07
  else if (if decodes then bytes else [va]).any (fun a => tileSpace a && a.extractLsb' 20 10 != 0) then some 0x07
  else if cross && (o3.extractLsb' 9 55 != 0 || !tileSpace va) then some 0x07
  else if va.toNat % step ≠ 0 then some 0x06
  else if cross then (if j.group = 0 ∨ j.gsize ≤ (o3.extractLsb' 0 8).toNat then some 0x0B else none)
  else if bytes.any (fun a => tileSpace a && ((home a).isNone || j.swcnt ≤ (a.extractLsb' 12 8).toNat)) then some 0x0B
  else if k ≠ .touch ∧ bytes.any (fun a => tileSpace a && home a == some c.tile && owner a != 0) then some 0x0C
  else none

/-- What the trigger's word acquires is complete, and every operation of its context that was triggered before is over. -/
def allPerformed (s : State) : Prop := acquiresNothing s ∧ ∀ o ∈ s.ops, o.who = s.trig.who → isOver s o

/-- The trigger that starts faults at once with a code: outside a trap shadow, with none of its word put off (R117), its
context enters its handler and nothing else changes. -/
def traps (i : Instr) (s : State) (code : Nat) (info : BitVec 16) (f1 : W64) : Prop :=
  noneLate s = true → s.self.shadow = none →
    ∃ t, exec i s = .next t ∧ trapEntered s.self.applyLater t.self ∧ trapRecorded s t.self code info f1 ∧
      onlyContext s t s.trig.who

/-! ### Vector forms, read off the tables of R218 to R230 -/

/-- (R218) The lane width of an LF, and the format of its lanes; INT8 has none. -/
def laneTable (lf : BitVec 3) : Nat × Option Fmt :=
  match lf.toNat with
  | 0 => (32, some .fp32)
  | 1 => (16, some .fp16)
  | 2 => (16, some .bf16)
  | 4 => (8, some .e4m3)
  | 5 => (8, some .e5m2)
  | _ => (8, none)

/-- (R218, R219) The lane width and the lane format of a unit. -/
def unitLanes (s : State) : VecUnit → Nat × Option Fmt
  | .veca => laneTable s.self.bank.lfA
  | .vecb => laneTable s.self.bank.lfB

/-- (R218) Lane i of width w. -/
def lane (v : W512) (w i : Nat) : Nat := (v.extractLsb' (w * i) w).toNat

/-- A lane of w bits as a signed integer. -/
def asInt (w x : Nat) : Int := (BitVec.ofNat w x).toInt

/-- (R221 to R223) The lane forms: unit, latency, mask mode, what a lane gives in a floating-point format, and what it gives
before the clamp on INT8 lanes. -/
def laneForm : Instr → Option (VecUnit × Nat × MaskMode × (Fmt → RMode → Nat → Nat → Nat → FRes) × (Int → Int → Int → Int))
  | .vadd u k => some (u, 3, k, fun f m a b _ => ((f.val a).add (m == .rd) (f.val b)).into f m, fun a b _ => a + b)
  | .vsub u k => some (u, 3, k, fun f m a b _ => ((f.val a).add (m == .rd) (f.val b).negate).into f m, fun a b _ => a - b)
  | .vmul u k => some (u, 3, k, fun f m a b _ => ((f.val a).mul (f.val b)).into f m, fun a b _ => a * b)
  | .vfma u k => some (u, 4, k, fun f m a b c => (Val.fma (m == .rd) (f.val a) (f.val b) (f.val c)).into f m,
      fun a b c => a * b + c)
  | .vfms u k => some (u, 4, k, fun f m a b c => (Val.fma (m == .rd) (f.val a) (f.val b) (f.val c).negate).into f m,
      fun a b c => a * b - c)
  | .vmin u k => some (u, 3, k, fun f _ a b _ => minMaxOf f true a b, fun a b _ => if a ≤ b then a else b)
  | .vmax u k => some (u, 3, k, fun f _ a b _ => minMaxOf f false a b, fun a b _ => if a ≤ b then b else a)
  | .vabs u => some (u, 3, .plain, fun f _ _ b _ => { bits := b &&& (2 ^ f.signPos - 1), ff := 0 },
      fun _ b _ => if b < 0 then -b else b)
  | .vneg u => some (u, 3, .plain, fun f _ _ b _ => { bits := b ^^^ 2 ^ f.signPos, ff := 0 }, fun _ b _ => -b)
  | _ => none

/-- (R222, R223) The result of a lane: in its format, or clamped to [−128, 127] without a flag. -/
def laneResult (lf : Nat × Option Fmt) (m : RMode) (fp : Fmt → RMode → Nat → Nat → Nat → FRes) (int : Int → Int → Int → Int)
    (a b c : Nat) : FRes :=
  match lf.2 with
  | some f => fp f m a b c
  | none =>
    let r := int (asInt 8 a) (asInt 8 b) (asInt 8 c)
    { bits := (BitVec.ofInt 8 (if r < -128 then -128 else if 127 < r then 127 else r)).toNat, ff := 0 }

/-- (R231) The record of a vector form, on its way with its flags for FFLAGS. -/
def startsVec (i : Instr) (s : State) (u lat : Nat) (out aux : W512) (ff : BitVec 5) : Prop :=
  exec i s = .next (s.startFixed u lat { out := out, aux := aux, stat := ff.zeroExtend 64 }
    { flags := none, ptr := none, wd := none, ff := ff })

/-- (R224) The comparisons. -/
def cmpLanes (c : Cmp) (lf : Nat × Option Fmt) (a b : Nat) : FRes :=
  match lf.2, c with
  | some f, .eq => compareOf (f.val a) (f.val b) true (sameNumber (f.val a) (f.val b))
  | some f, .lt => compareOf (f.val a) (f.val b) false (lessThan (f.val a) (f.val b))
  | some f, .le => compareOf (f.val a) (f.val b) false (lessThan (f.val a) (f.val b) || sameNumber (f.val a) (f.val b))
  | none, .eq => { bits := if asInt 8 a = asInt 8 b then 1 else 0, ff := 0 }
  | none, .lt => { bits := if asInt 8 a < asInt 8 b then 1 else 0, ff := 0 }
  | none, .le => { bits := if asInt 8 a ≤ asInt 8 b then 1 else 0, ff := 0 }

/-- (R224, R226, R227, R229) The forms that move bits or compute on integer lanes: unit, latency, and the number in lane i of
out, as a function of the count n and the width w of lanes, of o1, T, o2, and o3. -/
def moveForm : Instr → Option (VecUnit × Nat × (Nat → Nat → W512 → W512 → W512 → Nat → Nat))
  | .vsel u => some (u, 3, fun _ w a b m i => if m.getLsbD i then lane a w i else lane b w i)
  | .vand u => some (u, 3, fun _ w a b _ i => lane (a &&& b) w i)
  | .vor u => some (u, 3, fun _ w a b _ i => lane (a ||| b) w i)
  | .vxor u => some (u, 3, fun _ w a b _ i => lane (a ^^^ b) w i)
  | .vnot u => some (u, 3, fun _ w _ b _ i => lane (~~~b) w i)
  | .vshl u => some (u, 3, fun _ w a b _ i => (BitVec.ofNat w (lane a w i) <<< ((b.extractLsb' 0 8).toNat % w)).toNat)
  | .vshr u => some (u, 3, fun _ w a b _ i => (BitVec.ofNat w (lane a w i) >>> ((b.extractLsb' 0 8).toNat % w)).toNat)
  | .vsar u => some (u, 3, fun _ w a b _ i => ((BitVec.ofNat w (lane a w i)).sshiftRight ((b.extractLsb' 0 8).toNat % w)).toNat)
  | .vaddI u => some (u, 3, fun _ w a b _ i => (BitVec.ofNat w (lane a w i) + BitVec.ofNat w (lane b w i)).toNat)
  | .vsubI u => some (u, 3, fun _ w a b _ i => (BitVec.ofNat w (lane a w i) - BitVec.ofNat w (lane b w i)).toNat)
  | .vmulI u => some (u, 3, fun _ w a b _ i => (BitVec.ofNat w (lane a w i) * BitVec.ofNat w (lane b w i)).toNat)
  | .vperm u => some (u, 3, fun n w a b _ i => lane b w ((a.extractLsb' (8 * i) 6).toNat % n))
  | .vbcast u => some (u, 3, fun n w a b _ _ => lane b w ((a.extractLsb' 0 6).toNat % n))
  | .vslide u => some (u, 3, fun n w a b m i =>
      let k := i + min (m.extractLsb' 0 7).toNat n
      if k < n then lane a w k else lane b w (k - n))
  | .vzip u => some (u, 3, fun n w a b m i =>
      let h := if m.getLsbD 0 then n / 2 else 0
      if i % 2 = 0 then lane a w (i / 2 + h) else lane b w (i / 2 + h))
  | .vunzip u => some (u, 3, fun n w a b m i =>
      let k := 2 * i + if m.getLsbD 0 then 1 else 0
      if k < n then lane a w k else lane b w (k - n))
  | _ => none

/-- (R225) The mask forms: unit, and out from o1, T and n. -/
def maskForm : Instr → Option (VecUnit × (W512 → W512 → Nat → W512))
  | .mand u => some (u, fun a b n => BitVec.ofFnLE fun i : Fin 512 => decide (i.val < n) && (a.getLsbD i.val && b.getLsbD i.val))
  | .mor u => some (u, fun a b n => BitVec.ofFnLE fun i : Fin 512 => decide (i.val < n) && (a.getLsbD i.val || b.getLsbD i.val))
  | .mnot u => some (u, fun _ b n => BitVec.ofFnLE fun i : Fin 512 => decide (i.val < n) && !b.getLsbD i.val)
  | .mpopc u => some (u, fun _ b n => BitVec.ofNat 512 ((List.range n).countP b.getLsbD))
  | .mfirst u => some (u, fun _ b n => BitVec.ofNat 512 ((List.range n).findIdx b.getLsbD))
  | _ => none

/-- (R111, R216, R228) One node of a reduction: of vredadd a sum rounded once, of vredmax and vredmin the maximum and the
minimum, each on FP32 encodings. -/
def redForm : Instr → Option (VecUnit × (RMode → Nat → Nat → FRes) × (Int → Int → Int))
  | .vredadd u => some (u, fun m a b => ((Fmt.val .fp32 a).add (m == .rd) (Fmt.val .fp32 b)).into .fp32 m, fun a b => a + b)
  | .vredmax u => some (u, fun _ a b => minMaxOf .fp32 false a b, fun a b => if a ≤ b then b else a)
  | .vredmin u => some (u, fun _ a b => minMaxOf .fp32 true a b, fun a b => if a ≤ b then a else b)
  | _ => none

/-- (R216) The pairwise tree over 2^k values from position i on: a node joins the results of its two halves, and ORs their
flags with its own. -/
def pairwise (node : Nat → Nat → FRes) (x : Nat → FRes) : Nat → Nat → FRes
  | 0, i => x i
  | k + 1, i =>
    let a := pairwise node x k i
    let b := pairwise node x k (i + 2 ^ k)
    let r := node a.bits b.bits
    { bits := r.bits, ff := a.ff ||| b.ff ||| r.ff }

/-- (R230) The functions: unit, and the result of a lane where the table gives it as a special case, as a scalar form, or as a
power or logarithm that is an integer. -/
def funcForm : Instr → Option (VecUnit × (Fmt → RMode → Nat → Nat → Option FRes))
  | .vdiv u => some (u, fun f m a b => some ((f.val a).divInto (f.val b) f m))
  | .vrcp u => some (u, fun f m _ b => some ((Val.fin false 1 0).divInto (f.val b) f m))
  | .vsqrt u => some (u, fun f m _ b => some ((f.val b).sqrtInto f m))
  | .vexp2 u => some (u, fun f m _ b => match f.val b with
      | .nan sig => some { bits := f.nan, ff := if sig then 16 else 0 }
      | .inf true => some { bits := 0, ff := 0 }
      | .inf false => some ((Val.inf false).into f m false)
      | .fin neg x e =>
        if 0 ≤ e then some ((Val.fin false 1 ((if neg then -1 else 1) * (x * 2 ^ e.toNat : Nat))).into f m false)
        else if x % 2 ^ (-e).toNat = 0 then
          some ((Val.fin false 1 ((if neg then -1 else 1) * (x / 2 ^ (-e).toNat : Nat))).into f m false)
        else none)
  | .vlog2 u => some (u, fun f m _ b => match f.val b with
      | .nan sig => some { bits := f.nan, ff := if sig then 16 else 0 }
      | .inf true => some { bits := f.nan, ff := 16 }
      | .inf false => some ((Val.inf false).into f m false)
      | .fin neg x e =>
        if x = 0 then some { bits := ((Val.inf true).into f m false).bits, ff := ((Val.inf true).into f m false).ff ||| 8 }
        else if neg then some { bits := f.nan, ff := 16 }
        else if x = 2 ^ Nat.log2 x then
          some ((Val.fin (e + Nat.log2 x < 0) (e + (Nat.log2 x : Nat)).natAbs 0).into f m false)
        else none)
  | .vrsqrt u => some (u, fun f m _ b => match f.val b with
      | .nan sig => some { bits := f.nan, ff := if sig then 16 else 0 }
      | .inf true => some { bits := f.nan, ff := 16 }
      | .inf false => some { bits := 0, ff := 0 }
      | .fin neg x _ =>
        if x = 0 then some { bits := ((Val.inf neg).into f m false).bits, ff := ((Val.inf neg).into f m false).ff ||| 8 }
        else if neg then some { bits := f.nan, ff := 16 }
        else none)
  | _ => none

/-- (R230) The number that is rounded once in place of the exact value of a function at v, where funcForm settles no result: of 1 ÷ √v that
value itself, of 2^v and log2 v, which no fraction is, one that stands nearer to it than any lane's value comes to a boundary of rounding. -/
def funcNear (i : Instr) (v x : ℝ) : Prop :=
  match i with
  | .vexp2 _ => |x - (2 : ℝ) ^ v| ≤ (2 : ℝ) ^ v / 2 ^ 100
  | .vlog2 _ => |x - Real.logb 2 v| ≤ 1 / 2 ^ 100
  | .vrsqrt _ => x = 1 / √v
  | _ => False

/-! ### Conversions, read off R210 to R213 and R233 to R242 -/

/-- (R233, R234) The pack forms: source and destination formats, and the rounding and saturation of a mode. An infinity stays one, but in
E4M3, where .sat gives ±448 without a flag. -/
def packForm : Instr → Option (Fmt × Fmt × PackMode)
  | .packBf16 p => some (.fp32, .bf16, p)
  | .packH p => some (.fp32, .fp16, p)
  | .packE4m3 p => some (.bf16, .e4m3, p)
  | .packE5m2 p => some (.fp16, .e5m2, p)
  | _ => none
def packed (p : PackMode) (src dst : Fmt) (m : RMode) (x : Nat) : FRes :=
  match p with
  | .plain => (src.val x).into dst m false
  | .sat => match src.val x with
    | .inf neg => { bits := if dst = .e4m3 then dst.signBit neg + 0x7E else (dst.infinite neg).bits, ff := 0 }
    | v => v.into dst m true
  | .ro => (src.val x).into dst .ro false

/-- (R234) The unpack forms: source and destination formats. -/
def unpackForm : Instr → Option (Fmt × Fmt)
  | .unpackBf16 => some (.bf16, .fp32)
  | .unpackH => some (.fp16, .fp32)
  | .unpackE4m3 => some (.e4m3, .bf16)
  | .unpackE5m2 => some (.e5m2, .fp16)
  | _ => none

/-- (R200) The bits of an encoding. -/
def fmtWidth (f : Fmt) : Nat := f.signPos + 1

/-- Lane j of two values one after the other. -/
def laneOfTwo (a b : W512) (w j : Nat) : Nat := if j < 512 / w then lane a w j else lane b w (j - 512 / w)

/-- (R236) The sr forms and their destination formats; and a control word that they accept. -/
def srForm : Instr → Option Fmt
  | .srBf16 => some .bf16
  | .srH => some .fp16
  | _ => none
def srAccepts (c : W64) : Bool :=
  c.extractLsb' 12 52 == 0 && c.extractLsb' 2 6 == 0 && decide (4 ≤ (c.extractLsb' 8 4).toNat) && decide ((c.extractLsb' 8 4).toNat ≤ 12)

/-- (R271) A spindle after j draws of length k. -/
def drawn (p : Spindle) (k j : Nat) : Spindle := (fun q => (q.next k).1)^[j] p

/-- (R207, R237) What sr gives for an FP32 encoding x, a draw r and a length k: y is the encoding delivered, and ff its flags. -/
def srGives (f : Fmt) (k r x y : Nat) (ff : BitVec 5) : Prop :=
  match Fmt.fp32.val x with
  | .nan sig => y = f.nan ∧ ff = if sig then 16 else 0
  | .inf neg => y = f.signBit neg + f.inf?.getD 0 ∧ ff = 0
  | .fin neg 0 _ => y = f.signBit neg ∧ ff = 0
  | .fin neg m e =>
    let v : ℚ := (m : ℚ) * (2 : ℚ) ^ e
    ∃ lo : Nat, f.gridPoint lo ≤ v ∧ v < f.gridPoint (lo + 1) ∧
      let d := ⌊(v - f.gridPoint lo) / (f.gridPoint (lo + 1) - f.gridPoint lo) * 2 ^ k⌋
      let c := if (2 : Int) ^ k ≤ d + r then lo + 1 else lo
      y = f.signBit neg + (if f.maxCode < c then f.inf?.getD 0 else c) ∧
        ff = if f.maxCode < c then 5 else if v = f.gridPoint lo ∧ c = lo then 0 else if c < 2 ^ f.frac then 3 else 1

/-- (R239) A control word that the SQ forms accept, and its n, k and QTR. -/
def sqAccepts (c : W64) : Bool :=
  c.extractLsb' 6 58 == 0 && c.extractLsb' 2 2 != 3 && c.extractLsb' 0 2 != 3 &&
    decide ((c.extractLsb' 4 2).toNat < 2 ^ (c.extractLsb' 2 2).toNat)
def sqBlk (c : W64) : Nat := 16 * 2 ^ (c.extractLsb' 2 2).toNat
def sqBits (c : W64) : Nat := if c.extractLsb' 0 2 = 0 then 2 else if c.extractLsb' 0 2 = 1 then 4 else 7
def sqQuarter (c : W64) : Nat := (c.extractLsb' 4 2).toNat

/-- (R210) The value of a finite scale. -/
def scaleOf (s : Nat) : ℚ :=
  if s / 256 = 0 then (s % 256 : Nat) * (2 : ℚ) ^ (-134 : Int)
  else (1 + ((s % 256 : Nat) : ℚ) / 256) * (2 : ℚ) ^ ((s / 256 : Nat) - 127 : Int)

/-- (R209) Q of a format with k magnitude bits. -/
def sqTop (k : Nat) : ℚ := ((2 : ℚ) ^ k - 1) * (2 : ℚ) ^ (1 - (k : Int))

/-- Magnitude and NaN of an FP32 encoding. -/
def magOf (x : Nat) : Nat := x % 2 ^ 31
def isNan32 (x : Nat) : Bool := 0x7F800000 < magOf x

/-- (R213, R240) S for an amax A: the scale, and whether none was large enough. -/
def scaleFor (k A S : Nat) (short : Bool) : Prop :=
  let a := (Fmt.fp32.val A).rat
  if isNan32 A then S = 0xFF80 ∧ short = false
  else if A = 0x7F800000 then S = 0xFF00 ∧ short = false
  else if A = 0 then S = 0 ∧ short = false
  else if short then S = 0xFEFF ∧ scaleOf 0xFEFF * sqTop k < a
  else S ≤ 0xFEFF ∧ a ≤ scaleOf S * sqTop k ∧ ∀ r, r < S → scaleOf r * sqTop k < a

/-- (R213) q rounds v to odd at 24 significand bits, without an exponent limit. -/
def roundsOdd (v q : ℚ) : Prop :=
  if v = 0 then q = 0
  else ∃ (lo : Nat) (e : Int), 2 ^ 23 ≤ lo ∧ lo < 2 ^ 24 ∧ (lo : ℚ) * 2 ^ e ≤ v ∧ v < ((lo + 1 : Nat) : ℚ) * 2 ^ e ∧
    q = (if v = lo * (2 : ℚ) ^ e then v else if lo % 2 = 1 then lo * (2 : ℚ) ^ e else ((lo + 1 : Nat) : ℚ) * 2 ^ e)

/-- (R203) n rounds v, at least 0, to nearest, ties to even. -/
def roundsRne (v : ℚ) (n : Nat) : Prop :=
  |v - n| < 1 / 2 ∨ (|v - n| = 1 / 2 ∧ n % 2 = 0)

/-- (R213, R241) The micro-exponent and the magnitude of an input x beside its partner y under a scale S. -/
def sqElement (k S x y mu m : Nat) : Prop :=
  if 0xFF00 < S then mu = 0 ∧ m = 0
  else if S = 0xFF00 then mu = 0 ∧ m = if magOf x = 0x7F800000 then 2 ^ k - 1 else 0
  else if S = 0 then mu = 0 ∧ m = 0
  else
    let fits (z : Nat) : Prop := isNan32 z = true ∨ (magOf z < 0x7F800000 ∧
      ∃ q n, roundsOdd ((Fmt.fp32.val (magOf z)).rat / scaleOf S) q ∧ roundsRne (q * 2 ^ k) n ∧ n ≤ 2 ^ k - 1)
    (mu = 1 ∧ fits x ∧ fits y ∨ mu = 0 ∧ ¬(fits x ∧ fits y)) ∧
    (isNan32 x = true → m = 0) ∧ (magOf x = 0x7F800000 → m = 2 ^ k - 1) ∧
    (magOf x < 0x7F800000 → ∃ q n, roundsOdd ((Fmt.fp32.val (magOf x)).rat / scaleOf S) q ∧
      roundsRne (q * 2 ^ (k - 1 + mu)) n ∧ m = min n (2 ^ k - 1))

/-! ### The matrix unit, read off R244 to R265 -/

/-- (R130) FMT and BLK of a pointer. -/
def fmtP (p : W64) : Nat := (p.extractLsb' 60 4).toNat
def blkP (p : W64) : Nat := (p.extractLsb' 58 2).toNat

/-- (R131) SQ formats, and the size of an element of the others. -/
def sqFmt (f : Nat) : Bool := f == 9 || f == 10 || f == 11
def elemSize (f : Nat) : Nat := if f = 4 then 4 else if f = 5 ∨ f = 6 then 2 else 1

/-- (R247) The pairings of mma and mmz, and of mrun. -/
def pairs (recurs : Bool) (a b : Nat) : Bool :=
  if recurs then (a == 6 && b == 6) || (a == 5 && b == 5) || (a == 4 && b == 4)
  else (a == 6 && b == 6) || (a == 5 && b == 5) || ((a == 7 || a == 8) && (b == 7 || b == 8)) || (a == 11 && b == 11) ||
    ((a == 9 || a == 10) && (b == 9 || b == 10))

/-- (R248) ACC, N, M and K of a shape. -/
def accIn (w : W64) : Nat := (w.extractLsb' 32 3).toNat
def nIn (w : W64) : Nat := (w.extractLsb' 24 7).toNat
def mIn (w : W64) : Nat := (w.extractLsb' 16 7).toNat
def kIn (w : W64) : Nat := (w.extractLsb' 0 13).toNat

/-- (R252) KC. -/
def kcOf (p : W64) : Nat := if sqFmt (fmtP p) then 16 * 2 ^ blkP p else 16

/-- (R248) A shape word within range. -/
def shapeFits (w : W64) : Bool :=
  w.extractLsb' 35 29 == 0 && !w.getLsbD 31 && !w.getLsbD 23 && w.extractLsb' 13 3 == 0 &&
    decide (1 ≤ nIn w ∧ nIn w ≤ 64 ∧ 1 ≤ mIn w ∧ mIn w ≤ 64 ∧ 1 ≤ kIn w ∧ kIn w ≤ 4096)

/-- (R256) A microprogram whose four steps are each in range. -/
def progFits (w : W64) : Bool :=
  (List.range 4).all fun k =>
    let x := w.extractLsb' (16 * k) 16
    let op := x.extractLsb' 13 3
    x == 0 || (op != 0 && op != 7 && (x.extractLsb' 9 3).ult 5 &&
      (if op == 6 then x.extractLsb' 6 3 == 0 else (x.extractLsb' 6 3).ult 5 && x.extractLsb' 0 6 == 0))

/-- A check's fault: its code, INFO and FREC1. -/
abbrev Raised := Nat × Nat × W64

/-- (R253) A fault of the first of two operands that a condition concerns; FREC1 holds its pointer. -/
def ofOperands (code info : Nat) (a b : W64) (badA badB : Bool) : Option Raised :=
  if badA then some (code, info, a) else if badB then some (code, info, b) else none

/-- (R253, R332, R355) Orders 3 to 6 over the two pointers and strides, then the job's window. Of order 5, which concerns both, FREC1 is
B's pointer (log 11). -/
def operandCheck (s : State) (c : Who) (shape a b : W64) (as bs : W32) : Option Raised :=
  let sq := sqFmt (fmtP a)
  let tile (p : W64) : Bool := p.extractLsb' 40 8 == 0xFF
  let outside (p : W64) : Bool := tile p && decide ((s.jobFor c).swcnt ≤ (p.extractLsb' 12 8).toNat)
  let unaligned (p : W64) (st : W32) : Bool := !sq && (p.toNat % elemSize (fmtP p) != 0 || st.toNat % elemSize (fmtP p) != 0)
  (ofOperands 0x07 0 a b (notCanonical a || (sq && blkP a == 3)) (notCanonical b || (sq && blkP b == 3))).or
    ((ofOperands 0x18 0 a b (tile a && !namesOwnTile s c a) (tile b && !namesOwnTile s c b)).or
      (if sq && (blkP a != blkP b || kIn shape % kcOf a != 0) then some (0x16, 9, b)
       else (ofOperands 0x06 0 a b (unaligned a as) (unaligned b bs)).or (ofOperands 0x0B 0 a b (outside a) (outside b))))

/-- (R247, R253) Order 2: no shape, or formats that do not pair. FREC1 is B's pointer where its format alone is none of R131's, and else
A's (log 11). -/
def formatCheck (recurs : Bool) (shape a b : W64) : Option Raised :=
  let legal (p : W64) : Bool := 1 ≤ fmtP p && fmtP p ≤ 11
  if shape = 0 ∨ pairs recurs (fmtP a) (fmtP b) = false then some (0x16, 8, if legal a && !legal b then b else a) else none

/-- (R245, R253, R355) The checks of mma, mmz and mrun. -/
def runCheck (s : State) (c : Who) (recurs : Bool) (t shape a b : W64) (as bs : W32) : Option Raised :=
  if t ≠ 0 then some (0x01, 0, t)
  else (formatCheck recurs shape a b).or
    (if (s.jobFor c).accx.getLsbD (accIn shape) then some (0x16, 23, t) else operandCheck s c shape a b as bs)

/-- (R263, R265, R355) The checks of mresume: K0, I and J of the progress word against the shape. -/
def resumeCheck (s : State) (c : Who) (t shape a b : W64) (as bs : W32) : Option Raised :=
  let k0 := (t.extractLsb' 0 13).toNat
  if t.getLsbD 63 = false ∨ t.extractLsb' 39 24 ≠ 0 ∨ t.extractLsb' 35 2 ≠ 0 ∨ t.extractLsb' 30 2 ≠ 0 ∨
    t.extractLsb' 22 2 ≠ 0 ∨ t.extractLsb' 13 3 ≠ 0 then some (0x01, 0, t)
  else if (s.jobFor c).accx.getLsbD (accIn t) then some (0x16, 23, t)
  else (formatCheck (t.getLsbD 37) shape a b).or ((operandCheck s c shape a b as bs).or
    (if accIn t ≠ accIn shape ∨ kIn shape ≤ k0 ∨ k0 % kcOf a ≠ 0 ∨ mIn shape ≤ (t.extractLsb' 16 6).toNat ∨
      nIn shape ≤ (t.extractLsb' 24 6).toNat then some (0x16, 10, t) else none))

/-- (R258, R355) A trigger word of mclear, mfill, mdrain, mrd or msave, and an accumulator of the share; R259's region for mfill and
mdrain, R55's ninth record for mrd and msave. -/
def accCheck (s : State) (i : Instr) : Option Raised :=
  let t := s.opT64
  let c := s.trig.who
  let p := s.opPort64 10 0
  let clear (hi n : Nat) : Bool := t.extractLsb' hi n == 0
  let fits := clear 3 5 && clear 14 2 && clear 18 14 &&
    (match i with
      | .mclear => clear 8 6 && clear 16 2
      | .mfill | .mdrain => clear 16 2 && clear 32 32
      | .mrd => clear 32 32
      | _ => clear 8 6 && clear 16 2 && clear 32 32)
  let last := (p.extractLsb' 0 20).toNat + 256 * ((t.extractLsb' 8 6).toNat + 1)
  if !fits then some (0x01, 0, t)
  else if (s.jobFor c).accx.getLsbD (t.extractLsb' 0 3).toNat then some (0x16, 23, t)
  else match i with
    | .mfill | .mdrain =>
      if notCanonical p then some (0x07, 0, p)
      else if !namesOwnTile s c p then some (0x18, 0, p)
      else if (p.extractLsb' 0 8) ≠ 0 then some (0x06, 0, p)
      else if 2 ^ 20 < last then some (0x18, 0, p)
      else if 4096 * (s.jobFor c).swcnt < last then some (0x0B, 0, p)
      else none
    | .mrd | .msave =>
      if 8 ≤ (s.self.bank.outst.filter fun o => o.key == 10).length + (s.self.bank.queue 10).length then some (0x16, 2, t) else none
    | _ => none

/-- (R244, R249, R251) An operation enters the matrix queue of the trigger's tile with the descriptors that the context holds;
an accumulator that it writes becomes Busy, every other one stays as it is. -/
def entersMatrix (s t : State) (o : MxOp) : Prop :=
  let c := s.trig.who
  let b := s.self.bank
  o.id = s.fresh ∧ o.who = c ∧ o.job = s.self.job ∧ o.word = s.trig.word ∧ o.slot = s.trig.slot ∧ o.t = s.opT64 ∧
    o.o1 = s.opPort64 10 0 ∧ o.a = b.mxA ∧ o.as = b.mxAs ∧ o.b = b.mxB ∧ o.bs = b.mxBs ∧ o.shape = b.mxShape ∧
    o.prog = b.mxProg ∧ o.const = b.mxConst ∧ (t.tile c.tile).mxq = (s.tile c.tile).mxq ++ [o] ∧
    (∀ m, m ≠ o.acc → (t.tile c.tile).acc m = (s.tile c.tile).acc m) ∧
    (match o.kind with
      | .mdrain _ | .mrd _ _ => (t.tile c.tile).acc o.acc = (s.tile c.tile).acc o.acc
      | _ => (t.tile c.tile).accBusy o.acc = true) ∧
    (t.tile c.tile).cells = (s.tile c.tile).cells ∧ (∀ u, u ≠ c.tile → t.tile u = s.tile u) ∧ t.mem = s.mem

/-- (R263) The record of a progress word: that of an operation that the loop nest runs. -/
def holdsProgress (r : Rec) (o : MxOp) : Prop :=
  let v := r.out
  r.aux = 0 ∧ r.stat = 0 ∧ v.extractLsb' 64 448 = 0 ∧ (o.k0 < 8192 → o.i < 64 → o.j < 64 → o.acc < 8 →
    v.getLsbD 63 = true ∧ v.getLsbD 38 = o.z ∧ v.getLsbD 37 = (o.kind == .mrun || o.kind == .mresume true) ∧
    (v.extractLsb' 32 3).toNat = o.acc ∧ (v.extractLsb' 24 6).toNat = o.j ∧ (v.extractLsb' 16 6).toNat = o.i ∧
    (v.extractLsb' 0 13).toNat = o.k0)

/-- Nothing of a context differs but one more record that it expects from a queue. -/
def oneMoreRecord (s t : State) (c : Who) (key : Nat) : Prop :=
  t.ctx c = { s.ctx c with
    bank := { (s.ctx c).bank with outst := (s.ctx c).bank.outst ++ [{ key := key, id := s.fresh, res := none }] } }

/-- (R150, R253, R357) An operand or region of n bytes at displacement d from a local pointer lies in swatches that the mxu owns,
within the job's window and the tile, and holds no uncorrectable data. -/
def arrayReads (s : State) (o : MxOp) (p : W64) (d n : Nat) : Prop :=
  let off := (p.extractLsb' 0 20).toNat + d
  let j := s.jobNo o.job
  p.extractLsb' 40 8 = 0xFF ∧ off + n ≤ 4096 * j.swcnt ∧ j.swbase + j.swcnt ≤ 256 ∧ s.poison = [] ∧
    ∀ x, off ≤ x → x < off + n → (s.tile o.who.tile).owner.get 0 (j.swbase + x / 4096) = 1

/-- (R332) The location of displacement d from a local pointer of an operation. -/
def arrayLoc (s : State) (o : MxOp) (p : W64) (d : Nat) : Nat :=
  2 ^ 20 * o.who.tile + 4096 * (s.jobNo o.job).swbase + (p.extractLsb' 0 20).toNat + d

/-- (R254, R255, R332, R357) Byte x of an operand from its pointer on: its location, or the fault that it meets, with INFO and the
address. A local one must lie in the tile, in the job's window (log 14) and in a swatch of the mxu; a streamed one is translated as a
load of the triggering context, modulo 2^48 (log 14). -/
def operandByte (s : State) (o : MxOp) (p : W64) (x : Nat) : State × Except (Flt × Nat × Nat) Nat :=
  let j := s.jobNo o.job
  let held (loc va : Nat) : Except (Flt × Nat × Nat) Nat := if s.poison.contains (loc / 8) then .error (.poison, 0, va) else .ok loc
  if p.extractLsb' 40 8 = 0xFF then
    let off := (p.extractLsb' 0 20).toNat + x
    let va := (p.extractLsb' 0 48).toNat + x
    let phys := (4096 * j.swbase + off % 2 ^ 20) % 2 ^ 20
    (s, if 2 ^ 20 ≤ off then .error (.nonlocal, 0, va)
      else if 4096 * j.swcnt ≤ off then .error (.tilemap, 0, va)
      else if (s.tile o.who.tile).owner.get 0 (phys / 4096) ≠ 1 then .error (.owner, 0, va)
      else held (2 ^ 20 * o.who.tile + phys) va)
  else
    let va := ((p.extractLsb' 0 48).toNat + x) % 2 ^ 48
    if va / 2 ^ 40 = 0xFF then (s, .error (.nonlocal, 0, va))
    else match s.translateEngine o.who.tile j.asid.toNat va .read with
      | (s1, .ok (loc, _)) => (s1, if s1.poison.contains (loc / 8) then .error (.poison, 0, va) else .ok loc)
      | (s1, .error (c, l)) => (s1, .error (c, l, va))

/-- (R254, R255) n bytes of an operand from displacement d on, lowest first: their locations, or the first fault. -/
def operandBytes (s : State) (o : MxOp) (p : W64) (d n : Nat) : State × Except (Flt × Nat × Nat) (List Nat) :=
  (List.range n).foldl (fun r i => match r.2 with
    | .error e => (r.1, .error e)
    | .ok ls => match operandByte r.1 o p (d + i) with
      | (s1, .ok l) => (s1, .ok (ls ++ [l]))
      | (s1, .error e) => (s1, .error e)) (s, .ok [])

/-- (R252) The state in which an operation reads its chunk: the clear of an mmz is made, and the operation owes neither it nor a check. -/
def chunkStart (s : State) (tile : Nat) (o : MxOp) : State :=
  (if o.z then s.updTile tile fun t => t.clearShape o else s).updTile tile fun t => t.updMx { o with verify := false, z := false }

/-- (R254, R353) An operation raises a fault after its start, in a context that still runs its job: with QUEUED, its word and slot, and
FREC1. -/
def mxFaults (s t : State) (o q : MxOp) (code : Flt) (info f1 : Nat) : Prop :=
  (s.ctx o.who).exit = none → (s.ctx o.who).job = o.job → ∃ p ∈ (t.ctx o.who).faults, p.code = code ∧ p.info = BitVec.ofNat 16 info ∧
    p.f1 = BitVec.ofNat 64 f1 ∧ p.f2 = o.t ∧ p.word = o.word ∧ p.slot = o.slot ∧ p.op = .mx q

/-- (R131, R200) The format of FMT 4 to 8. -/
def floatOf (f : Nat) : Fmt :=
  match f with
  | 4 => .fp32
  | 5 => .fp16
  | 6 => .bf16
  | 7 => .e4m3
  | _ => .e5m2

/-- (R212, R246) The bytes of a block of a pointer's format, and the values of the block whose bytes hold a number. -/
def blockSize (p : W64) : Nat :=
  let n := 16 * 2 ^ blkP p
  let k := if fmtP p = 9 then 2 else if fmtP p = 10 then 4 else 7
  (16 + n / 2 + n * (k + 1) + 7) / 8
def blockVals (p : W64) (v : Nat) : List Val :=
  let n := 16 * 2 ^ blkP p
  let k := if fmtP p = 9 then 2 else if fmtP p = 10 then 4 else 7
  (sqParse n k v).vals k

/-- (R131, R246) Element k of a chunk of a non-SQ operand whose bytes hold a number. -/
def elementAt (p : W64) (v k : Nat) : Val :=
  let w := 8 * elemSize (fmtP p)
  (floatOf (fmtP p)).val (v / 2 ^ (w * k) % 2 ^ w)

/-- (R252) One step of a cell: round_rne(acc + a × b), the product exact. -/
def macStep (acc : Nat) (a b : Val) : Nat := (((Fmt.fp32.val acc).add false (a.mul b).val).into .fp32 .rne).bits

/-- (R215) The exact sum of the exact products of a group: a value P for which every addition is exact. -/
def groupOf (xs ys : List Val) : Val :=
  match xs.zip ys with
  | [] => .fin false 0 0
  | p :: ps => ps.foldl (fun s q => (s.add false (q.1.mul q.2).val).val) (p.1.mul p.2).val

/-- (R257) The cell step of mrun over one pair of elements, with s, x, y, t, c and P. -/
def recurStep (prog : W64) (c : W32) (acc : Nat) (a b : Val) : Nat :=
  let fp (n : Nat) : Val := Fmt.fp32.val n
  let word (k : Nat) : BitVec 16 := prog.extractLsb' (16 * k) 16
  let step (r : Nat × Nat × Bool) (k : Nat) : Nat × Nat × Bool :=
    let (s, t, p) := r
    let w := word k
    let reg (n : Nat) : Nat :=
      match n with
      | 0 => s
      | 1 => (a.into .fp32 .rne false).bits
      | 2 => (b.into .fp32 .rne false).bits
      | 3 => t
      | _ => c.toNat
    let x := reg (w.extractLsb' 9 3).toNat
    let y := reg (w.extractLsb' 6 3).toNat
    let canon (v : Nat) : Nat := if (fp v).isNan then 0x7FC00000 else v
    let put (v : Nat) (p : Bool) : Nat × Nat × Bool := if w.getLsbD 12 then (canon v, t, p) else (s, canon v, p)
    match (w.extractLsb' 13 3).toNat with
    | 1 => put (((fp x).add false (fp y)).into .fp32 .rne).bits p
    | 2 => put (((fp x).mul (fp y)).into .fp32 .rne).bits p
    | 3 => put (minMaxOf .fp32 true x y).bits ((minMaxOf .fp32 true x y).bits == x)
    | 4 => put (minMaxOf .fp32 false x y).bits ((minMaxOf .fp32 false x y).bits == x)
    | 5 => put (if p then x else y) p
    | 6 => put (match fp x with
        | .fin n m e => (Val.fin n m (e + (w.extractLsb' 0 6).toInt)).into .fp32 .rne false
        | v => v.into .fp32 .rne false).bits p
    | _ => (s, t, p)
  ((List.range 4).foldl step (acc, 0, false)).1

/-! ### The yarn engine, read off R270 to R285 -/

/-- (R274) An op word without a set reserved bit, and its fields. -/
def opFits (t : W64) : Bool :=
  t.extractLsb' 22 42 == 0 && t.extractLsb' 18 2 == 0 && !t.getLsbD 15 && !t.getLsbD 11 && !t.getLsbD 7 && !t.getLsbD 3
def ydOf (t : W64) : Nat := (t.extractLsb' 0 3).toNat
def yaOf (t : W64) : Nat := (t.extractLsb' 4 3).toNat
def ybOf (t : W64) : Nat := (t.extractLsb' 8 3).toNat
def ycOf (t : W64) : Nat := (t.extractLsb' 12 3).toNat
def spOf (t : W64) : Nat := (t.extractLsb' 16 2).toNat

/-- (R270) The ones of a yarn. -/
def onesOf (y : Yarn) : Nat := ((List.range (2 ^ y.k)).filter fun i => y.bits.getLsbD i).length

/-- (R276) Whether two lineages conflict at spindle n. -/
def lotsClash (a b : Lineage) (n : Nat) : Bool :=
  a.mask.getLsbD n && b.mask.getLsbD n &&
    (a.ep.extractLsb' (8 * n) 8 == b.ep.extractLsb' (8 * n) 8 || a.mix.getLsbD n || b.mix.getLsbD n)
def clashBits (a b : Lineage) : Nat :=
  (if lotsClash a b 0 then 1 else 0) + (if lotsClash a b 1 then 2 else 0) + (if lotsClash a b 2 then 4 else 0) +
    (if lotsClash a b 3 then 8 else 0)

/-- (R276) r is the union of two lineages. -/
def isUnion (a b r : Lineage) : Prop :=
  r.mask = a.mask ||| b.mask ∧ ∀ n, n < 4 →
    (r.mix.getLsbD n = true ↔ a.mix.getLsbD n = true ∨ b.mix.getLsbD n = true ∨
      (a.mask.getLsbD n = true ∧ b.mask.getLsbD n = true ∧ a.ep.extractLsb' (8 * n) 8 ≠ b.ep.extractLsb' (8 * n) 8)) ∧
    r.ep.extractLsb' (8 * n) 8 = if a.mask.getLsbD n then a.ep.extractLsb' (8 * n) 8
      else if b.mask.getLsbD n then b.ep.extractLsb' (8 * n) 8 else 0

/-- (R278) The lineage of a yarn spun from spindle n at epoch e. -/
def isFreshLot (n : Nat) (e : BitVec 8) (r : Lineage) : Prop :=
  r.mix = 0 ∧ ∀ k, k < 4 → r.mask.getLsbD k = decide (k = n) ∧ r.ep.extractLsb' (8 * k) 8 = if k = n then e else 0

/-- (R268, R269) A form starts: the trigger's context becomes x, with a record more to come if the form delivers, and the
operation joins the engine queue of its tile. Nothing else changes. -/
def yarnStarts (i : Instr) (s : State) (x : Ctx) (k : SxKind) : Prop :=
  let c := s.trig.who
  ∃ t o, exec i s = .next t ∧
    t.self = (if k = .silent then x else { x with
      bank := { x.bank with outst := x.bank.outst ++ [{ key := 11, id := s.fresh, res := none }] } }) ∧
    (t.tile c.tile).sxq = (s.tile c.tile).sxq ++ [o] ∧ o.id = s.fresh ∧ o.who = c ∧ o.word = s.trig.word ∧ o.slot = s.trig.slot ∧
    o.t = s.opT64 ∧ o.kind = k ∧ (∀ d, d ≠ c → t.ctx d = s.ctx d) ∧ t.mem = s.mem

/-- (R55) Whether a further record of an engine has its place. -/
def hasRoom (s : State) (key : Nat) : Bool :=
  (s.self.bank.outst.filter fun o => o.key == key).length + (s.self.bank.queue key).length < 8

/-- A record of one doubleword. -/
def oneWord (v : W64) : Rec := { out := v.zeroExtend 512, aux := 0, stat := 0 }

/-- Only yarn `yd` and spindle `sp` of a context may differ. -/
def onlyYarn (x y : Ctx) (yd sp : Nat) : Prop :=
  (∀ n, n ≠ yd → y.yarn n = x.yarn n) ∧ (∀ n, n ≠ sp → y.spindle n = x.spindle n) ∧
    { y with
      yarns := x.yarns
      spindles := x.spindles } = x

/-- (R278) A yarn spun at length code k with value v from the op word's spindle. -/
def spun (x y : Ctx) (t : W64) (k v : Nat) : Prop :=
  let p := x.spindle (spOf t)
  onlyYarn x y (ydOf t) (spOf t) ∧ (y.yarn (ydOf t)).k = k ∧
    (∀ j, j < 2 ^ k → j < 4096 → (y.yarn (ydOf t)).bits.getLsbD j = decide (((drawn p k j).next k).2 < v)) ∧
    isFreshLot (spOf t) p.epoch (y.yarn (ydOf t)).lin ∧
    y.spindle (spOf t) = if t.getLsbD 21 then p else drawn p k (2 ^ k)

/-- (R280) The bitwise forms: the pairs of yarns checked for length, those checked for lineage, and a bit of the result from
those of YA, YB and YC. -/
def yarnForm (t : W64) : Instr → Option (List (Nat × Nat) × List (Nat × Nat) × (Bool → Bool → Bool → Bool))
  | .knit => some ([(yaOf t, ybOf t)], [(yaOf t, ybOf t)], fun a b _ => a && b)
  | .knitCor => some ([(yaOf t, ybOf t)], [], fun a b _ => a && b)
  | .xnor => some ([(yaOf t, ybOf t)], [(yaOf t, ybOf t)], fun a b _ => a == b)
  | .yarnOr => some ([(yaOf t, ybOf t)], [(yaOf t, ybOf t)], fun a b _ => a || b)
  | .mux => some ([(ycOf t, yaOf t), (ycOf t, ybOf t)], [(ycOf t, yaOf t), (ycOf t, ybOf t)], fun a b c => if c then b else a)
  | .purl => some ([], [], fun a _ _ => !a)
  | _ => none

/-- (R280) The lineage of a bitwise form. -/
def formLineage (i : Instr) (a b c r : Lineage) : Prop :=
  match i with
  | .purl => r = a
  | .mux => ∃ u, isUnion a b u ∧ isUnion u c r
  | _ => isUnion a b r

/-- (R282) Weight j of draw. -/
def weightAt (s : State) (j : Nat) : Nat :=
  let v := if j < 4 then s.opPort64 11 0 else if j < 8 then s.opPort64 11 1 else if j < 12 then s.opPort64 11 2 else s.opT64
  (v.extractLsb' (16 * (j % 4)) 16).toNat

/-- (R284, R332, R355) The checks of sdot at its trigger, each for o1, then for o2; FREC1 holds the pointer, or T. -/
def sdotCheck (s : State) : Option Raised :=
  let a := s.opPort64 11 0
  let b := s.opPort64 11 1
  let c := s.trig.who
  let each (code info : Nat) (bad : W64 → Bool) : Option Raised := ofOperands code info a b (bad a) (bad b)
  if !opFits s.opT64 then some (0x01, 0, s.opT64)
  else (each 0x16 11 fun p => fmtP p != 12).or ((each 0x07 0 notCanonical).or ((each 0x18 0 fun p => !namesOwnTile s c p).or
    ((each 0x06 0 fun p => p.extractLsb' 0 6 != 0).or
      ((each 0x0B 0 fun p => decide ((s.jobFor c).swcnt ≤ (p.extractLsb' 12 8).toNat)).or
        (if !hasRoom s 11 then some (0x16, 2, s.opT64) else none)))))

/-- (R283, R284, R332, R357) An array at a local pointer with a header of length code k and count n that passes checks 6 to 8,
and whose storage holds no uncorrectable data: its lineage is l. -/
def arrayFits (s : State) (c : Who) (p : W64) (k n : Nat) (l : Lineage) : Prop :=
  let loc := localLoc s c p
  let off := (p.extractLsb' 0 20).toNat
  let size := 64 + n * 2 ^ (k - 3)
  let d := Memory.readLe s.mem loc 8
  let w : W64 := BitVec.ofNat 64 d
  4 ≤ k ∧ k ≤ 12 ∧ 1 ≤ n ∧ (w.extractLsb' 44 4).toNat = k ∧ w.extractLsb' 48 16 = 0 ∧ w.extractLsb' 40 4 = 0 ∧
    l.mask = w.extractLsb' 32 4 ∧ l.mix = w.extractLsb' 36 4 ∧ l.ep = w.extractLsb' 0 32 ∧
    Memory.readLe s.mem (loc + 8) 4 = n ∧ (∀ x, x < 52 → Memory.read s.mem (loc + 12 + x) = 0) ∧
    off + size ≤ 4096 * (s.jobFor c).swcnt ∧ (s.jobFor c).swbase + (s.jobFor c).swcnt ≤ 256 ∧
    (∀ w, off / 4096 ≤ w → w ≤ (off + size - 1) / 4096 → (s.tile c.tile).owner.get 0 ((s.jobFor c).swbase + w) = 2) ∧
    s.poison = []

/-! ### Copies and reels, read off R290 to R298 -/

/-- (R291) Fields of the shape word, the output row length and the pitches. -/
def narrowIn (w : W64) : Nat := (w.extractLsb' 0 2).toNat
def lenIn (w : W64) : Nat := (w.extractLsb' 4 20).toNat
def rowsIn (w : W64) : Nat := (w.extractLsb' 24 16).toNat
def strideIn (w : W64) : Nat := (w.extractLsb' 40 24).toNat
def outLen (w : W64) : Nat := if narrowIn w = 0 then lenIn w else lenIn w / 2
def srcPitch (w : W64) : Nat := if w.getLsbD 2 then lenIn w else strideIn w
def dstPitch (w : W64) : Nat := if w.getLsbD 2 then strideIn w else outLen w

/-- (R133, R292, R332) Whether n bytes of a row at VA va stay where they may. -/
def rowStays (j : Job) (va n : Nat) : Bool :=
  let v : BitVec 48 := BitVec.ofNat 48 va
  let w : BitVec 48 := BitVec.ofNat 48 (va + n - 1)
  if v.extractLsb' 40 8 != 0xFF && w.extractLsb' 40 8 != 0xFF then true
  else v.extractLsb' 40 8 == 0xFF && v.extractLsb' 20 10 == 0 &&
    (j.phys (v.extractLsb' 38 2).toNat (v.extractLsb' 34 4).toNat (v.extractLsb' 30 4).toNat).isSome &&
    decide ((v.extractLsb' 0 20).toNat + n ≤ 2 ^ 20) && decide ((v.extractLsb' 0 20).toNat + n ≤ 4096 * j.swcnt)
def rowsStay (j : Job) (p : W64) (pitch n count : Nat) : Bool :=
  (List.range count).all fun r => rowStays j ((p.extractLsb' 0 48).toNat + r * pitch) n

/-- (R290, R292, R332, R355) The checks of push and try: code, INFO and FREC1. -/
def copyCheck (s : State) : Option Raised :=
  let t := s.opT64
  let c := s.trig.who
  let j := s.jobFor c
  let src := s.opPort64 12 0
  let dst := s.opPort64 12 1
  let w := s.opPort64 12 2
  if t.extractLsb' 4 60 ≠ 0 ∨ w.getLsbD 3 = true ∨ lenIn w = 0 ∨ rowsIn w = 0 ∨ narrowIn w = 3 ∨
    (narrowIn w ≠ 0 ∧ lenIn w % 4 ≠ 0) ∨ (w.getLsbD 2 = true ∧ strideIn w < outLen w) then some (0x01, 0, w)
  else if j.reelx.getLsbD (t.extractLsb' 0 4).toNat then some (0x16, 23, t)
  else if ((s.tile c.tile).reel (t.extractLsb' 0 4).toNat).size = 0 then some (0x16, 16, t)
  else (ofOperands 0x07 0 src dst (notCanonical src) (notCanonical dst)).or
    ((ofOperands 0x0B 0 src dst (!rowsStay j src (srcPitch w) (lenIn w) (rowsIn w)) (!rowsStay j dst (dstPitch w) (outLen w) (rowsIn w))).or
      (if narrowIn w = 0 then none
        else ofOperands 0x06 0 src dst ((src.extractLsb' 0 48).toNat % 4 != 0 || srcPitch w % 4 != 0)
          ((dst.extractLsb' 0 48).toNat % 2 != 0 || dstPitch w % 2 != 0)))

/-- (R293) Whether a request of a reel can be accepted: a free entry, and fewer than SIZE slots pushed and not released. -/
def canAccept (t : Tile) (reel : Nat) : Bool :=
  t.cpq.length < 64 && ((t.reel reel).pushed - (t.reel reel).released).toNat < (t.reel reel).size

/-- (R293, R296) The trigger's request is accepted: it has an entry, and its reel one more slot pushed. -/
def copyAccepted (s t : State) : Prop :=
  let c := s.trig.who
  let n := (s.opT64.extractLsb' 0 4).toNat
  let r := (s.tile c.tile).reel n
  ∃ o, (t.tile c.tile).cpq = (s.tile c.tile).cpq ++ [o] ∧ o.who = c ∧ o.word = s.trig.word ∧ o.slot = s.trig.slot ∧
    o.src = s.opPort64 12 0 ∧ o.dst = s.opPort64 12 1 ∧ o.shape = s.opPort64 12 2 ∧ o.t = s.opT64 ∧ o.reel = n ∧ o.k = r.pushed ∧
    o.rank = s.fresh ∧ o.place = r.pushAt ∧ o.st = .offered ∧ o.refused = 0 ∧ o.age = 0 ∧
    ∀ m, (t.tile c.tile).reel m = if m = n then { r with pushed := r.pushed + 1, pushAt := (r.pushAt + 1) % r.size } else (s.tile c.tile).reel m

/-- A record that lands at its trigger, with nothing of the context else changed. -/
def landsAtOnce (s t : State) (key : Nat) (r : Rec) : Prop :=
  t.self = ({ s.self with
    bank := { s.self.bank with outst := s.self.bank.outst ++ [{ key := key, id := s.fresh, res := none }] } } : Ctx).landRec
      key s.fresh r

/-- (R174, R298) Whether the slot that a request is to refill may be: if a rel has freed it, each access that its context
triggered before that rel has performed at tile scope, and is over if it touches what the request writes. -/
def mayFill (s : State) (tile : Nat) (o : CopyReq) : Prop :=
  ∀ c job id, ((s.tile tile).reel o.reel).rels.get? o.place = some (c, job, id) →
    ∀ x ∈ s.ops, x.who = c → x.job = job → x.id < id → s.performedAt 1 x = true ∧
      (isOver s x ∨ ((∀ va ∈ x.kind.vas x.addr, va ∉ o.dstVas) ∧ ∀ l ∈ x.locs, l ∉ (s.copySide o true).locs))

/-- (R294, R296) Of a request only its state differs, in the queue of its tile. -/
def onlyRequest (s t : State) (tile : Nat) (o : CopyReq) (f : CopyReq → CopyReq) : Prop :=
  (t.tile tile).cpq = (s.tile tile).cpq.map (fun x => if x.id = o.id then f x else x) ∧ t.mem = s.mem ∧
    (∀ d, t.ctx d = s.ctx d) ∧ ∀ u, u ≠ tile → t.tile u = s.tile u

/-! ### Messages and rotates, read off R303 to R310 -/

/-- (R303, R332, R355) The checks of a destination word: code, INFO and FREC1, which is the word. -/
def sendCheck (s : State) : Option Raised :=
  let t := s.opT64
  let j := s.jobFor s.trig.who
  let far := t.getLsbD 24
  let pkg := (t.extractLsb' 16 8).toNat
  if t.extractLsb' 32 32 ≠ 0 ∨ t.extractLsb' 25 6 ≠ 0 ∨ t.extractLsb' 14 2 ≠ 0 ∨ t.extractLsb' 2 2 ≠ 0 ∨ (far = false ∧ pkg ≠ 0) then
    some (0x01, 0, t)
  else if far = true ∧ (j.group = 0 ∨ j.gsize ≤ pkg) then some (0x0B, 0, t)
  else if far = false ∧ j.phys (t.extractLsb' 12 2).toNat (t.extractLsb' 8 4).toNat (t.extractLsb' 4 4).toNat = none then some (0x0B, 0, t)
  else if j.qx.getLsbD (t.extractLsb' 0 2).toNat then some (0x16, 23, t)
  else none

/-- (R303, R349) Whether a destination word of a job names a queue of another member's package. -/
def namesAbroad (j : Job) (w : W64) : Bool := w.getLsbD 24 && (w.extractLsb' 16 8).toNat != j.member

/-- (R305) An earlier message of the trigger's context to the same queue of another package waits in its tile. -/
def behindWaiting (s : State) (w : W64) : Bool :=
  namesAbroad (s.jobFor s.trig.who) w && s.msgs.any fun x =>
    x.who == s.trig.who && x.job == s.self.job && x.t.extractLsb' 0 25 == w.extractLsb' 0 25 && decide (x.id < s.fresh) && x.st == .waiting

/-- (R305) Every message that waits in its tile is a release, or stands behind one that waits there. -/
def noneMayLeave (s : State) : Prop := ∀ x ∈ s.msgs, x.st = .waiting → x.rls = true ∨ s.mayDepart x = false

/-- (R304) A header of a message from context c of a job: `far` where it leaves the package. -/
def headerIs (j : Job) (c : Who) (wide far : Bool) (h : W64) : Prop :=
  h.extractLsb' 26 38 = 0 ∧ h.getLsbD 25 = wide ∧ h.getLsbD 24 = far ∧
    (h.extractLsb' 16 8).toNat = (if far then j.member else 0) ∧ (h.extractLsb' 14 2).toNat = c.ctx ∧
    h.extractLsb' 0 4 = 0 ∧
    ∀ d y x, j.logical c.tile = some (d, y, x) →
      (h.extractLsb' 12 2).toNat = d ∧ (h.extractLsb' 8 4).toNat = y ∧ (h.extractLsb' 4 4).toNat = x

/-- (R310) The first location of a swatch of a job on a tile. -/
def swatchLoc (j : Job) (tile sw : Nat) : Nat := 2 ^ 20 * tile + 4096 * (j.swbase + sw) % 2 ^ 20

/-! ### Events and phases, read off R176 to R196 -/

/-- (R176) The MODE that a context sees of a line of its cluster: 0 where its job does not hold the line. -/
def modeSeen (s : State) (n : Nat) : BitVec 2 :=
  let l := s.line (32 * clusterOf s.trig.who.tile + n)
  if l.job.isSome && l.job == s.self.job then l.mode else 0

/-- (R178, R355) The checks of a form that names a line; FREC1 is T. -/
def lineCheck (s : State) (modes : List (BitVec 2)) : Option Raised :=
  if 32 ≤ s.opT64.toNat then some (0x01, 0, s.opT64) else if modes.contains (modeSeen s s.opT64.toNat) then none
  else some (0x16, 3, s.opT64)

/-- (R179) The trigger's request sets out for its line, and nothing but its own context changes beside. -/
def requested (s t : State) (k : EvKind) : Prop :=
  let c := s.trig.who
  ∃ r, t.evreqs = s.evreqs ++ [r] ∧ r.who = c ∧ r.job = s.self.job ∧ r.line = 32 * clusterOf c.tile + s.opT64.toNat ∧ r.kind = k ∧
    r.id = s.fresh ∧ r.rid = s.fresh ∧ r.word = s.trig.word ∧ r.slot = s.trig.slot ∧ r.t = s.opT64 ∧ t.lines = s.lines ∧ (∀ d, d ≠ c → t.ctx d = s.ctx d) ∧ t.mem = s.mem

/-- (R55, R179) A context that waits for a record of evt, with a reason to be blocked. -/
def waitsFor (x : Ctx) (id : Nat) (b : Block) : Ctx :=
  { x with
    bank := { x.bank with outst := x.bank.outst ++ [{ key := 14, id := id, res := none }] }
    block := x.block ++ [b] }

/-- (R179) Whether an event of a tile cycle finds a tile's issue slot not yet given: then its context issues from the next one on. -/
def beforeIssue (s : State) (tile : Nat) : Bool := !s.worked || s.agenda.contains (.select tile)

/-- (R179) A context whose blocked operation completes with a value: its record lands, and it is ready from the next tile cycle on. -/
def wokenWith (s : State) (c : Who) (rid : Nat) (v : W64) : Ctx :=
  { (s.ctx c).landRec 14 rid (oneWord v) with
    block := (s.ctx c).block.filter fun b => !b.isEvent rid
    woken := beforeIssue s c.tile }

/-- (R114, R130, R189, R332, R355) The checks of watch; FREC1 is T or the pointer. -/
def watchCheck (s : State) : Option Raised :=
  let t := s.opT64
  let j := s.jobFor s.trig.who
  let p := s.opPort64 14 0
  let n := (s.opPort64 14 1).toNat
  let off := (p.extractLsb' 0 20).toNat
  if t.extractLsb' 16 48 ≠ 0 ∨ t.extractLsb' 3 5 ≠ 0 then some (0x01, 0, t)
  else if j.cmpx.getLsbD (t.extractLsb' 0 3).toNat then some (0x16, 23, t)
  else if notCanonical p then some (0x07, 0, p)
  else if !namesOwnTile s s.trig.who p then some (0x18, 0, p)
  else if n = 0 ∨ 2 ^ 20 < off + n then some (0x01, 0, t)
  else if j.swcnt ≤ (off + n - 1) / 4096 then some (0x0B, 0, p)
  else none

/-- (R193) The phase status word. -/
def statusWord (phase : BitVec 32) (abort opened : Bool) : W64 :=
  (0#30 ++ (if opened then 1#1 else 0#1) ++ (if abort then 1#1 else 0#1) ++ phase : BitVec 64)

/-- (R180) A line releases: the generation counts up, arrivals and pending bits are clear, the waits of the contexts that had
arrived complete with the new generation, each clearing its bit of REL, and every lower line that arrived is sent a RELEASE. -/
def releasesAt (s t : State) (k : Nat) (l : Line) : Prop :=
  let bits := l.rel ||| l.pend
  (∃ r : BitVec 32, t.line k = { l with
      gen := l.gen + 1
      arr := 0
      pend := 0
      rel := r
      waiters := l.waiters.filter (fun w => !bits.getLsbD (evIndex w.1))
      arrived := [] } ∧
    ∀ n, n < 32 → r.getLsbD n = (bits.getLsbD n && !(l.waiters.any fun w => evIndex w.1 == n))) ∧
    (∀ w ∈ l.waiters, bits.getLsbD (evIndex w.1) = true → t.ctx w.1 = wokenWith s w.1 w.2 ((l.gen + 1).zeroExtend 64)) ∧
    (∀ c, (∀ w ∈ l.waiters, w.1 ≠ c ∨ bits.getLsbD (evIndex w.1) = false) → t.ctx c = s.ctx c) ∧
    ∀ d ∈ l.arrived, ∃ m ∈ t.lmsgs, m.lower = d ∧ m.upper = k ∧ m.release = true

/-- (R180) An arrival at a line, which stands as `l` once the arrival is noted, is counted; the one that completes the
generation goes up as one ARRIVE, or releases. -/
def countsAt (s t : State) (k : Nat) (l : Line) : Prop :=
  (l.arr + 1 ≠ l.count.toNat → t.line k = { l with arr := l.arr + 1 } ∧ (∀ c, t.ctx c = s.ctx c) ∧ t.lmsgs = s.lmsgs) ∧
  (l.arr + 1 = l.count.toNat →
    (∀ u, upperLine k l = some u → t.line k = { l with arr := l.arr + 1 } ∧ (∀ c, t.ctx c = s.ctx c) ∧
      ∃ m, t.lmsgs = s.lmsgs ++ [m] ∧ m.lower = k ∧ m.upper = u ∧ m.release = false) ∧
    (upperLine k l = none → releasesAt s t k l))


/-- (R349, R363) A job that has heard from another member of its phase group: of an arrival in a phase, of one taken back, of a phase
touched by a link fault, or of a completion. -/
def toldOf (j : Job) (m : Nat) : GroupNote → Job
  | .arrived p => { j with members := j.members ++ [(m, p)] }
  | .withdrawn p => { j with members := j.members.erase (m, p) }
  | .touched p => if p = j.phase then { j with touched := true } else { j with marks := j.marks ++ [p] }
  | .completed => { j with gone := j.gone ++ [m] }

/-- (R349) A job of a phase group that has not ended. -/
def goesOnIn (j : Job) (g : Nat) : Prop := j.group = g ∧ g ≠ 0 ∧ j.st ≠ .completed ∧ j.st ≠ .failed

/-- Two doublewords of memory share no byte. -/
def apart (a b : Nat) : Prop := a + 8 ≤ b ∨ b + 8 ≤ a

/-- (R163, R195) The staged stores of a job's phase in memory: each value, D set in each leaf entry, and no other byte changed. -/
def stagedCommitted (s t : State) (j : Job) : Prop :=
  let due (g : Staged) : Prop := g ∈ s.staged ∧ g.job = j.id ∧ g.phase = j.phase
  (∀ a, (∀ g, due g → (a < g.loc ∨ g.loc + 8 ≤ a) ∧ ∀ l, g.leaf = some l → a < l ∨ l + 8 ≤ a) →
    Memory.read t.mem a = Memory.read s.mem a) ∧
  (∀ g, due g → (∀ h, due h → (h = g ∨ apart h.loc g.loc) ∧ ∀ l, h.leaf = some l → apart l g.loc) →
    Memory.readLe t.mem g.loc 8 = g.value.toNat) ∧
  ∀ g l, due g → g.leaf = some l → (∀ h, due h → apart h.loc l ∧ ∀ k, h.leaf = some k → k = l ∨ apart k l) →
    Memory.readLe t.mem l 8 = Memory.readLe s.mem l 8 ||| 0x20

/-- (R365) The journal entry of a packet that was accepted moves to a state, with a reason. -/
def packetEnds (s t : State) (queue : Nat) (seq : W32) (st : BitVec 3) (reason : BitVec 16) : Prop :=
  ∀ e ∈ s.journal, e.queue = queue → e.seq = seq → e.st = 1 → ∃ f ∈ t.journal, f.queue = queue ∧ f.seq = seq ∧ f.st = st ∧ f.reason = reason

/-- (R346) A context with the status `x` as one that rejoins a new image: the registers of its layout kept and all others 0, its banks
empty but for the record `r` of a blocked evt.phase `rid`, which has landed. -/
def rejoins (x y : Ctx) (o : Role) (entry rid : Nat) (r : Rec) : Prop :=
  y.pc = entry ∧ y.trapbase = BitVec.ofNat 13 o.trapEntry ∧ y.shadow = none ∧ y.xfer = [] ∧ y.stall = 0 ∧ y.loop.active = false ∧
    y.cont = [] ∧ y.faults = [] ∧ y.block = [] ∧ y.yarns = x.yarns ∧ y.spindles = x.spindles ∧
    (∀ n, y.readG n = if n < o.gkeep then x.readG n else 0) ∧ (∀ n, y.readV n = if n < o.vkeep then x.readV n else 0) ∧
    y.f = x.f &&& o.fkeep ∧ (∀ n, y.readA n = if o.akeep.getLsbD n then x.readA n else 0) ∧
    y.bank = ({ Bank.init with outst := x.bank.outst.filter fun q => q.key == 14 && q.id == rid } : Bank).landRec 14 rid r

/-- (R336, R365) The journal says why a job failed. -/
def journalSays (s t : State) (j : Job) (reason : BitVec 16) : Prop :=
  ∀ e ∈ s.journal, e.queue = j.queue → e.seq = j.pseq → e.st = 1 →
    ∃ f ∈ t.journal, f.queue = e.queue ∧ f.seq = e.seq ∧ f.st = 3 ∧ f.reason = reason

/-- (R341) The location of offset `off` of the slot of the n-th tile of an area. -/
def slotLoc (area n off : Nat) : Nat := paLoc (area + 2097152 * n + off)
/-! ### Translation and accesses at their homes, read off R134 to R149 and R152 to R166 -/

/-- (R139, R140, R141, R142, R144) What a legal leaf entry of a level that stands at `loc` answers an access of an address:
FLT_PERM where R or W is missing, copy-on-write where COW is set and the access writes, and otherwise where its byte is. -/
def leafAnswer (e : W64) (level loc va : Nat) (acc : Acc) : Tr :=
  let size := if level = 1 then 2 ^ 29 else 2 ^ 19
  let pa := (e.extractLsb' 19 33).toNat * 2 ^ 19 / size * size + va % size
  if (acc ≠ .write ∧ e.getLsbD 1 = false) ∨ (acc ≠ .read ∧ e.getLsbD 2 = false) then .bad .perm level
  else if acc ≠ .read ∧ e.getLsbD 4 = true then .cow
  else .ok (placeLoc (e.extractLsb' 7 2).toNat (e.extractLsb' 9 2).toNat (e.extractLsb' 11 2).toNat pa) loc pa

/-- (R353, R354) An operation faults after its start: the fault waits for its context's next word boundary. -/
def faultsLate (s t : State) (o : MemOp) (code : Flt) (info : BitVec 16) (f1 : W64) : Prop :=
  s.takesFaults o.who o.job = true → (∃ x ∈ t.ops, x.id = o.id ∧ x.st = .faulted) ∧
    ∃ p ∈ (t.ctx o.who).faults, p.code = code ∧ p.info = info ∧ p.f1 = f1 ∧ p.f2 = o.addr ∧ p.word = o.word ∧ p.slot = o.slot

/-- (R134, R150, R161, R357, R363, R364) Nothing on the way to the storage of an access or at its home is against it: no link
that is down or retrains, no line that gathers, no poison, no swatch that an engine owns. -/
def wayClear (s : State) (o : MemOp) (locs : List Nat) : Prop :=
  (∀ l ∈ ({ o with locs := locs } : MemOp).outLinks, s.link l = .up) ∧
    s.hlines = [] ∧ s.poison = [] ∧ ∀ l ∈ locs, l < 2 ^ 40 → (s.tile (l / 2 ^ 20)).owner.get 0 (l % 2 ^ 20 / 4096) = 0

/-- (R170, R314, R315, R328) A remote access may reach its home at once: no switch has taken it in, its context's order lets it
leave its tile, no switch on its way queues an older access to its doublewords, and nothing has come to its home by a higher port in
this tile cycle. -/
def mayReach (s : State) (o : MemOp) : Prop :=
  s.areq? o.id = none ∧ s.canDepart o = true ∧ s.mayLand (s.located o) = true

/-- (R142, R144) The storage of byte b of a page at PA p, with the placement of a leaf entry. -/
def pageByte (e : W64) (p b : Nat) : Nat :=
  placeLoc (e.extractLsb' 7 2).toNat (e.extractLsb' 9 2).toNat (e.extractLsb' 11 2).toNat (p + b)

/-- (R142) The page at PA p stands apart from that of a leaf entry and from the entry, and each of its bytes from the others. -/
def standsApart (f : Leaf) (p : Nat) : Prop :=
  let old := (f.ent.extractLsb' 19 33).toNat * 2 ^ 19
  ∀ b c, b < 2 ^ 19 → c < 2 ^ 19 → (pageByte f.ent p b = pageByte f.ent p c → b = c) ∧ pageByte f.ent p b ≠ pageByte f.ent old c ∧
    (pageByte f.ent p b < f.loc ∨ f.loc + 8 ≤ pageByte f.ent p b)

/-- (R159, R160) A reduction has entered the line of its cluster that gathers its physical line: with others of the same operation,
whose element it meets, or alone in a line that asks the home to JOIN, after a line of another operation has flushed. `n` and `f`
are its bytes and its operation. -/
def gathersAt (s t : State) (o : MemOp) (op : RedOp) (loc n : Nat) (f : W512 → W64 → W64 → Nat) : Prop :=
  let cl := clusterOf o.who.tile
  let line := loc / 64
  let el := loc % 64 / n
  let own : W64 := BitVec.ofNat 64 (o.o1.toNat % 2 ^ (8 * n))
  let mine (g : GLine) : Bool := g.cluster == cl && g.line == line
  (∃ x ∈ t.ops, x.id = o.id ∧ x.st = .gathered) ∧ ∃ g, t.glines.find? mine = some g ∧ g.op = op ∧
    (o.who.ctx < 4 → g.contrib.getLsbD (4 * ringPos o.who.tile + o.who.ctx) = true) ∧
    (∀ p, s.glines.find? mine = some p → p.op = op → t.gmsgs = s.gmsgs ∧ g.ops = p.ops ++ [o.id] ∧
      (∀ e, e ≠ el → g.elems.get? e = p.elems.get? e) ∧ (p.elems.get? el = none → g.elems.get? el = some own) ∧
      ∀ v, p.elems.get? el = some v → v.toNat < 2 ^ (8 * n) → g.elems.get? el = some (BitVec.ofNat 64 (f o.o1 v 0))) ∧
    ((∀ p, s.glines.find? mine = some p → p.op ≠ op) → g.elems = [(el, own)] ∧ g.ops = [o.id] ∧
      (∃ m ∈ t.gmsgs, m.cluster = cl ∧ m.line = line ∧ m.kind = .join) ∧
      ∀ p, s.glines.find? mine = some p → ∃ m ∈ t.gmsgs, m.cluster = cl ∧ m.line = line ∧ m.kind = .flush p.op p.elems p.ops)

/-- (R152, R155, R156) What a load delivers for the number that its bytes hold. -/
def deliveredOf (o : MemOp) (v : Nat) : Option Rec :=
  match o.kind with
  | .ldq f _ => some { out := (loadedBy f v).2, aux := 0, stat := 0 }
  | .lds _ => some (oneWord (BitVec.ofNat 64 v))
  | .ldf _ => some { out := ldfOut o.addr o.o2 v, aux := 0, stat := 0 }
  | _ => none

/-- (R48, R116, R152 to R159, R164) An operation performs at its storage. A load reads its bytes, and its reply is on its way; a
store or reduction writes its number in its own bytes and no other, and is outstanding no longer; an atomic writes so too, and
the number that stood there is its reply. -/
def performsAt (s t : State) (o : MemOp) (locs : List Nat) : Prop :=
  (∀ r, deliveredOf o (leNat (locs.map (Memory.read s.mem))) = some r →
    t.mem = s.mem ∧ ∃ x ∈ t.ops, x.id = o.id ∧ x.st = .performed ∧ x.res = r ∧ x.status = o.status) ∧
  ∀ (i : Instr) (u n : Nat) (f : W512 → W64 → W64 → Nat), queuedForm i = some (u, o.kind) → storeForm i = some (u, n, f) →
    locs = (List.range n).map (locs.headD 0 + ·) → s.memOk →
    (o.kind.delivers = false → ∀ x ∈ t.ops, x.id ≠ o.id) ∧
    (∀ v, atomicOut i (BitVec.ofNat 64 (Memory.readLe s.mem (locs.headD 0) n)) = some v →
      ∃ x ∈ t.ops, x.id = o.id ∧ x.st = .performed ∧ x.res = { out := v, aux := 0, stat := 0 } ∧ x.status = o.status) ∧
    (∀ a, a < locs.headD 0 ∨ locs.headD 0 + n ≤ a → Memory.read t.mem a = Memory.read s.mem a) ∧
    Memory.readLe t.mem (locs.headD 0) n =
      f o.o1 (BitVec.ofNat 64 (Memory.readLe s.mem (locs.headD 0) n)) o.o2 % 2 ^ (8 * n)

/-! ### Gathering and switches, read off R160, R161 and R312 to R325 -/

/-- Nothing holds a gather message back: it has its identifier alone, and the links of its way stand (R160, R363). -/
def gatherGoes (s : State) (m : GMsg) : Prop :=
  s.gmsgs.find? (fun x => x.id == m.id) = some m ∧ s.heldOn m.links = false ∧ s.downOn m.links = none

/-- (R318, R325) Nothing at its home is against an atomic: no gathered copy, no poison, no swatch that an engine owns. -/
def homeClear (s : State) (locs : List Nat) : Prop :=
  s.hlines = [] ∧ s.poison = [] ∧ ∀ l ∈ locs, l < 2 ^ 40 → (s.tile (l / 2 ^ 20)).owner.get 0 (l % 2 ^ 20 / 4096) = 0

/-- (R9, R316, R317, R325) The way of a reply: back over the switches that the request entered where it could combine, otherwise by
the fixed route. -/
def wayBack (r : AReq) (o : MemOp) : List Nat :=
  if o.kind.combines && !o.kind.cross o.o3 then o.home :: r.seen else route 3 o.home o.who.tile

/-- (R314, R325) The window of a request that may combine; another has none. -/
def windowOf (s : State) (o : MemOp) : Nat := if o.kind.combines && !o.kind.cross o.o3 then (s.jobNo o.job).cw.toNat else 0

/-- (R324, R325) What leaves the package of an atomic: the group, the member it goes to, and the member, tile and context that send it, a memb
port of its form, its address, its operands and its tag. -/
def namesAtomic (s : State) (o : MemOp) (ws : List W64) : Prop :=
  let j := s.jobNo o.job
  ∃ port : Nat, ws = [BitVec.ofNat 64 j.group, o.o3 &&& 0xFF, BitVec.ofNat 64 j.member, BitVec.ofNat 64 (4 * o.who.tile + o.who.ctx),
      BitVec.ofNat 64 port, o.addr, lo64 o.o1, o.o2, o.tag.zeroExtend 64] ∧
    ∀ i, queuedForm i = some (6, o.kind) → ∃ k, membOp port = some k ∧ storeForm k = storeForm i ∧ atomicOut k = atomicOut i

/-- (R318) An atomic's step at its home: its number is stored where it found the old one, which is the reply, and no other byte
changes; the request is gone. -/
def appliesAt (s t : State) (r : AReq) (o : MemOp) : Prop :=
  ∀ (i : Instr) (u n : Nat) (f : W512 → W64 → W64 → Nat), queuedForm i = some (u, o.kind) → storeForm i = some (u, n, f) →
    s.memOk → let loc := o.locs.headD 0
    let old := Memory.readLe s.mem loc n
    (∀ a, a < loc ∨ loc + n ≤ a → Memory.read t.mem a = Memory.read s.mem a) ∧
    Memory.readLe t.mem loc n = f (r.operand.zeroExtend 512) (BitVec.ofNat 64 old) o.o2 % 2 ^ (8 * n) ∧
    (∃ q ∈ t.areplies, q.id = r.id ∧ q.value = BitVec.ofNat 64 old ∧ q.status = none ∧ q.path = wayBack r o) ∧
    ∀ q ∈ t.areqs, q.id ≠ r.id

/-- (R317, R323) An atomic is answered with a status in place of a value, and memory is as it was. -/
def answeredWith (s t : State) (r : AReq) (o : MemOp) (c : Flt) : Prop :=
  t.mem = s.mem ∧ (∃ q ∈ t.areplies, q.id = r.id ∧ q.status = some (c, 0) ∧ q.path = wayBack r o) ∧ ∀ q ∈ t.areqs, q.id ≠ r.id

/-- (R48, R313, R324) Whether a sequence number of a tag is older than another: by at most the 32 atomics that a context can have outstanding
(log 23). -/
def tagOlder (a b : Nat) : Prop := ∃ d, 1 ≤ d ∧ d ≤ 32 ∧ (a + d) % 1024 = b % 1024

/-- (R161, R167) The entry of a line that gathers at its home. -/
def entryOf (s : State) (line : Nat) : HLine :=
  (s.hlines.find? fun h => h.line == line).getD { line := line, pa := 0, mask := 0, held := [], refused := [], late := [] }

/-- (R363, R364) No link of a way is down or retrains. -/
def linksUp (s : State) (ls : List Nat) : Prop := ∀ l ∈ ls, s.link l = .up

/-- (R315, R363) A request may take its next step: it is the oldest of its switch to its doublewords, the port by which it comes
is free, and the link before the switch stands. -/
def mayHop (s : State) (r : AReq) (o : MemOp) (sw : Nat) : Prop :=
  (r.at' = none ∨ s.headOf r o = true) ∧ s.portFree r.at' sw = true ∧ linksUp s (r.at'.bind fun a => linkBetween a sw).toList

/-! ### Links, checks and soft errors, read off R321, R322 and R357 to R364 -/

/-- (R8, R12, R124) The compute dies on which a link ends; a mesh link, 64 and above, lies on one. -/
def linkEnds (l : Nat) : List Nat :=
  match l with
  | 0 => [0, 1]
  | 1 => [2, 3]
  | 2 => [0, 2]
  | 3 => [1, 3]
  | 4 | 5 | 6 | 7 => [l - 4]
  | _ => if 64 ≤ l ∧ l < 1216 then [(l - 64) / 2 / 144] else []

/-- (R336) A job that was placed has failed: its strands have halted, and its staged stores are gone. -/
def jobFailed (s t : State) (j : Job) : Prop :=
  (∃ k, t.job? j.id = some k ∧ k.st = .failed) ∧ (∀ c ∈ j.whos, (s.ctx c).job = some j.id → (t.ctx c).exit ≠ none) ∧
    ∀ g ∈ t.staged, g.job ≠ j.id

/-- (R330, R334, R335) A job has been placed and has not ended: no entry of the dependence table waits for it. -/
def isPlaced (s : State) (j : Job) : Prop :=
  j.st ≠ .waiting ∧ j.st ≠ .completed ∧ j.st ≠ .failed ∧ ∀ e ∈ s.deps, e.2.job = j.id → ∀ n, e.2.st ≠ .waiting n

/-! ### Packets, jobs and the host, read off R329 to R351 and R386 to R395 -/

/-- (R330, R365, R387) A packet whose turn it is, both in the transport and in its queue, which is otherwise empty and has room;
its header is in order. -/
def comesUp (s : State) (h : MsgHdr) (p : Packet) : Prop :=
  s.power = .running ∧ s.tether.session = some h.session ∧ h.seq = s.tether.rxNext ∧ s.journalRoom p.queue = true ∧
    (s.qnext.get? p.queue = none ∨ s.qnext.get? p.queue = some p.seq) ∧ s.qwait = [] ∧ s.qhold = [] ∧ s.headerBad p = none

/-- (R365) The journal has a packet in a state, with a REASON. -/
def entered (t : State) (p : Packet) (st : BitVec 3) (reason : BitVec 16) : Prop :=
  ∃ e ∈ t.journal, e.queue = p.queue ∧ e.seq = p.seq ∧ e.kind = BitVec.ofNat 8 p.kind ∧ e.st = st ∧ e.reason = reason

/-- (R365) The entries of a queue that are not in a final state. -/
def openIn (s : State) (q : Nat) : List JEntry := s.journal.filter fun e => e.queue == q && !(e.st == 2 || e.st == 3 || e.st == 4)

/-- (R329) A body word that names a job, and that job. -/
def namesJob (s : State) (w : W64) (j : Job) : Prop :=
  w.extractLsb' 38 26 = 0 ∧ s.jobs.find? (fun j => j.queue == (w.extractLsb' 32 6).toNat && j.pseq == w.extractLsb' 0 32) = some j ∧
    s.job? j.id = some j

/-- (R331) A job stands on its tiles. -/
def stands (j : Job) : Prop := j.st = .running ∨ j.st = .preempting

/-- (R12, R14) The rectangles of a job lie on the package's dies. -/
def inGrid (j : Job) : Prop := ∀ r ∈ j.rects, r.pdie < 4 ∧ r.oy + r.h ≤ 12 ∧ r.ox + r.w ≤ 12

/-- (R332, R334, R377) Two jobs need the same thing on a tile: a context slot, an accumulator, a reel, a comparator, a receive queue, swatches
of their windows, or places of the instruction store for images that are not one image. -/
def needSame (j k : Job) (t : Nat) : Prop :=
  (∃ c ∈ j.ctxsOn t, c ∈ k.ctxsOn t) ∨ (∃ n, n < 8 ∧ j.accx.getLsbD n = false ∧ k.accx.getLsbD n = false) ∨
    (∃ n, n < 16 ∧ j.reelx.getLsbD n = false ∧ k.reelx.getLsbD n = false) ∨
    (∃ n, n < 8 ∧ j.cmpx.getLsbD n = false ∧ k.cmpx.getLsbD n = false) ∨ (∃ n, n < 4 ∧ j.qx.getLsbD n = false ∧ k.qx.getLsbD n = false) ∨
    (j.swbase < k.swbase + k.swcnt ∧ k.swbase < j.swbase + j.swcnt) ∨
    ∃ a b, j.roleAt t = some a ∧ k.roleAt t = some b ∧ a.origin < b.origin + b.words.length ∧ b.origin < a.origin + a.words.length ∧
      ¬(j.obj.same k.obj = true ∧ a.role = b.role)

/-- (R70, R334, R340) The registers of one kind that the contexts of a tile hold, but for those of jobs `gone`. -/
def heldRegs (s : State) (t : Nat) (gone : List Nat) (count : Ctx → Nat) : Nat :=
  (((s.tile t).ctxs.filter fun e => match e.2.job with
    | some k => !gone.contains k
    | none => false).map fun e => count e.2).sum

/-- (R70, R333, R340) The registers of one kind that a job needs on a tile: `each` for a context that a launch starts, or those of its image. -/
def neededRegs (j : Job) (t : Nat) (count : Ctx → Nat) (each : Rect → Nat) : Nat :=
  match j.images.get? (j.tiles.idxOf t) with
  | some im => (im.tile.ctxs.map fun e => count e.2).sum
  | none => match j.rects.find? fun r => r.holds t with
    | some r => (j.ctxsOn t).length * each r
    | none => 0

/-- (R334) A job fits once the jobs `gone` have left: no other job that stands on a tile of it needs the same there, and each tile
has the registers. -/
def fitsWithout (s : State) (j : Job) (gone : List Nat) : Prop :=
  (∀ k ∈ s.jobs, stands k → k.id ≠ j.id → k.id ∉ gone → ∀ t ∈ j.tiles, t ∈ k.tiles → ¬ needSame j k t) ∧
    ∀ t ∈ j.tiles, heldRegs s t gone (·.gcount) + neededRegs j t (·.gcount) (·.gc) ≤ 256 ∧
      heldRegs s t gone (·.vcount) + neededRegs j t (·.vcount) (·.vc) ≤ 768

/-- (R334) The jobs that a launch may displace: those that stand on a tile of it, with a lower PRIO. -/
def lowerJobs (s : State) (j : Job) : List Job :=
  s.jobs.filter fun k => k.resident && k.id != j.id && k.tiles.any j.tiles.contains && k.prio.toNat < j.prio.toNat

/-- (R334) No other job holds an event line that a job names. -/
def linesOpen (s : State) (j : Job) : Prop := ∀ e ∈ j.events, ∀ k, (s.line (eventKey e)).job = some k → k = j.id

/-- A field of a word. -/
def bitsIn (w : W64) (lo n : Nat) : Nat := (w.extractLsb' lo n).toNat

/-- (R333) Whether a launch descriptor has a set reserved bit, a nonzero word of a rectangle that it lacks, or another length than its own. -/
def wordsReserved (ws : List W64) : Prop :=
  let w (i : Nat) : W64 := ws.getD i 0
  let dies := bitsIn (w 0) 24 2 + 1
  ws.length ≠ 34 + bitsIn (w 33) 0 16 ∨ bitsIn (w 0) 0 22 ≠ 0 ∨
    (∃ d, d < 4 ∧ (d < dies → bitsIn (w (2 + d)) 56 8 ≠ 0 ∨ bitsIn (w (2 + d)) 0 15 ≠ 0) ∧ (dies ≤ d → w (2 + d) ≠ 0)) ∨
    bitsIn (w 6) 52 12 ≠ 0 ∨ bitsIn (w 6) 0 12 ≠ 0 ∨ bitsIn (w 8) 0 4 ≠ 0 ∨ (∃ i, i < 16 ∧ bitsIn (w (17 + i)) 23 41 ≠ 0) ∨
    bitsIn (w 33) 16 48 ≠ 0 ∨ ∃ e ∈ ws.drop 34, bitsIn e 17 33 ≠ 0

/-- (R14, R333) The logical coordinate (y, x) of rectangle word `r` is that of a physical tile. -/
def standsOn (r : W64) (y x tile : Nat) : Prop :=
  y < bitsIn r 42 4 + 1 ∧ x < bitsIn r 38 4 + 1 ∧ tile = 144 * bitsIn r 54 2 + 12 * (bitsIn r 50 4 + y) + (bitsIn r 46 4 + x)

/-- (R176, R334) An event word that a placement with the rectangle words `rs` does not allow. -/
def eventIllegal (rs : List W64) (e : W64) : Prop :=
  let mode := bitsIn e 0 2
  let count := bitsIn e 2 8
  let clevel := bitsIn e 15 2
  let die := bitsIn e 50 2
  clevel = 3 ∨ match bitsIn e 62 2 with
    | 0 => 18 ≤ bitsIn e 52 5 ∨ (∀ r ∈ rs, ∀ y x tile, standsOn r y x tile → clusterOf tile ≠ 18 * die + bitsIn e 52 5) ∨
        (mode = 1 ∧ (count = 0 ∨ 32 < count))
    | 1 => (∀ r ∈ rs, bitsIn r 54 2 ≠ die) ∨ mode ≠ 1 ∨ count = 0 ∨ clevel = 1
    | 2 => mode ≠ 1 ∨ count = 0 ∨ clevel ≠ 0
    | _ => True

/-- (R176) Two event words name one line. -/
def sameLine (e f : W64) : Prop :=
  bitsIn e 62 2 = bitsIn f 62 2 ∧ bitsIn e 57 5 = bitsIn f 57 5 ∧ (bitsIn e 62 2 = 2 ∨ (bitsIn e 50 2 = bitsIn f 50 2 ∧
    (bitsIn e 62 2 = 1 ∨ bitsIn e 52 5 = bitsIn f 52 5)))

/-- (R334, R377) A launch of a loaded object that is refused. -/
def launchIllegal (o : Obj) (ws : List W64) : Prop :=
  let w (i : Nat) : W64 := ws.getD i 0
  let rs := (List.range (bitsIn (w 0) 24 2 + 1)).map fun d => w (2 + d)
  let swcnt := if bitsIn (w 7) 48 8 = 0 then 256 else bitsIn (w 7) 48 8
  let started (r : W64) : Nat := ((List.range 4).filter (r.extractLsb' 34 4).getLsbD).length
  (∃ r ∈ rs, 12 < bitsIn r 50 4 + (bitsIn r 42 4 + 1) ∨ 12 < bitsIn r 46 4 + (bitsIn r 38 4 + 1) ∨ bitsIn r 34 4 = 0 ∨
    bitsIn r 27 7 % 8 ≠ 0 ∨ bitsIn r 27 7 < 8 ∨ 64 < bitsIn r 27 7 ∨ bitsIn r 17 10 % 32 ≠ 0 ∨ 768 < bitsIn r 17 10 ∨
    bitsIn (w 0) 30 2 < bitsIn r 15 2 ∨ 256 < started r * bitsIn r 27 7 ∨ 768 < started r * bitsIn r 17 10) ∨
  (∃ d e, d < e ∧ e < rs.length ∧ ∃ y x y' x' tile, standsOn (rs.getD d 0) y x tile ∧ standsOn (rs.getD e 0) y' x' tile) ∨
  (∃ i, i < 16 ∧ bitsIn (w (17 + i)) 22 1 = 0 ∧ bitsIn (w (17 + i)) 0 22 ≠ 0) ∨
  (∃ e ∈ ws.drop 34, eventIllegal rs e) ∨
  (∃ a b, a < b ∧ b < (ws.drop 34).length ∧ sameLine ((ws.drop 34).getD a 0) ((ws.drop 34).getD b 0)) ∨
  (bitsIn (w 8) 48 16 ≠ 0 ∧ bitsIn (w 8) 32 8 < bitsIn (w 8) 40 8) ∨
  256 < bitsIn (w 7) 40 8 + swcnt ∨ 4096 * swcnt ≤ bitsIn (w 7) 20 20 ∨ 4096 * swcnt ≤ bitsIn (w 7) 0 20 ∨
  (∃ x ∈ o.data, 4096 * swcnt < x.2.1 + x.2.2.length) ∨
  768 * 2 ^ 30 < 4096 * bitsIn (w 6) 12 40 + 2 ^ 21 * (rs.map fun r => (bitsIn r 42 4 + 1) * (bitsIn r 38 4 + 1)).sum ∨
  ∃ d y x tile, d < rs.length ∧ standsOn (rs.getD d 0) y x tile ∧ ∀ n role, o.roleNo d y x = some n →
    o.roles.find? (fun q => q.role == n) = some role → bitsIn (rs.getD d 0) 27 7 < role.gmin ∨ bitsIn (rs.getD d 0) 17 10 < role.vmin

/-- (R368) A little-endian field of `n` bytes at an offset of a byte string. -/
def num (bs : List Byte) (off n : Nat) : Nat := leNat ((bs.drop off).take n)

/-- (R368) Section `i` of an object: its type, offset, size and bytes. -/
def secType (bs : List Byte) (i : Nat) : Nat := num bs (0x40 + 16 * i) 2
def secOff (bs : List Byte) (i : Nat) : Nat := num bs (0x48 + 16 * i) 4
def secSize (bs : List Byte) (i : Nat) : Nat := num bs (0x4C + 16 * i) 4
def secBytes (bs : List Byte) (i : Nat) : List Byte := (bs.drop (secOff bs i)).take (secSize bs i)

/-- (R368) A header, or a section table as a whole, that breaks a rule. -/
def headBreaks (bs : List Byte) : Prop :=
  num bs 0 4 ≠ 0x4F434B5A ∨ num bs 4 2 ≠ 1 ∨ num bs 6 2 < 5 ∨ 64 < num bs 6 2 ∨ 2 ^ 26 < num bs 8 8 ∨
    num bs 8 8 < 0x40 + 16 * num bs 6 2 ∨ num bs 0x30 16 ≠ 0 ∨
    (∃ i, i < 32 ∧ (128 ≤ num bs (0x10 + i) 1 ∨ (num bs (0x10 + i) 1 = 0 ∧ ∃ k, i < k ∧ k < 32 ∧ num bs (0x10 + k) 1 ≠ 0)))

/-- (R368) How many sections of a type an object has, and whether a count breaks a rule. -/
def secCount (bs : List Byte) (ty : Nat) : Nat := ((List.range (num bs 6 2)).filter fun i => secType bs i == ty).length
def countBreaks (bs : List Byte) : Prop :=
  secCount bs 1 ≠ 1 ∨ secCount bs 2 = 0 ∨ 16 < secCount bs 2 ∨ secCount bs 3 ≠ 1 ∨ secCount bs 4 ≠ 1 ∨ 1 < secCount bs 5 ∨
    1 < secCount bs 6 ∨ secCount bs 15 ≠ 1

/-- (R368 to R373) Section `i` of an object, by its entry or its contents, breaks a rule. The signature's own fields are check 2's (R374). -/
def secBreaks (bs : List Byte) (i : Nat) : Prop :=
  let b := secBytes bs i
  let inside (a : Nat) : Prop := num b 4 2 ≤ a ∧ a < num b 4 2 + num b 2 2
  num bs (0x42 + 16 * i) 6 ≠ 0 ∨ secOff bs i % 8 ≠ 0 ∨ num bs 8 8 < secOff bs i + secSize bs i ∨
    (∃ k, k < i ∧ secOff bs k < secOff bs i + secSize bs i ∧ secOff bs i < secOff bs k + secSize bs k) ∨
    match secType bs i with
    | 1 => 255 < num b 6 2 ∨ b.length < 0x10 + 8 * num b 6 2 ∨ num b 5 1 ≠ 0 ∨ num b 8 8 ≠ 0 ∨
        ∃ e, e < num b 6 2 ∧ num b (0x14 + 8 * e) 4 ≠ 0
    | 2 => 15 < num b 0 2 ∨ num b 2 2 = 0 ∨ 8192 < num b 4 2 + num b 2 2 ∨ b.length < 0x80 + 32 * num b 2 2 ∨
        ¬inside (num b 6 2) ∨ ¬inside (num b 8 2) ∨ (num b 0x0A 2 ≠ 0xFFFF ∧ ¬inside (num b 0x0A 2)) ∨
        BitVec.ofNat 16 (num b 0x0C 2) &&& 0x7C01 ≠ 0 ∨ num b 0x0E 1 % 8 ≠ 0 ∨ num b 0x0E 1 < 8 ∨ 64 < num b 0x0E 1 ∨
        num b 0x0E 1 < num b 0x0F 1 ∨ num b 0x10 2 % 32 ≠ 0 ∨ 768 < num b 0x10 2 ∨ num b 0x10 2 < num b 0x12 2 ∨ num b 0x18 8 ≠ 0 ∨
        ∃ k, k < i ∧ secType bs k = 2 ∧ num (secBytes bs k) 0 2 = num b 0 2
    | 3 => num b 0 2 = 0 ∨ 64 < num b 0 2 ∨ b.length < 8 + 8 * num b 0 2 ∨ num b 2 6 ≠ 0 ∨
        ∃ e, e < num b 0 2 ∧ let f (k : Nat) : Nat := num b (8 + 8 * e + k) 1
          num b (14 + 8 * e) 2 ≠ 0 ∨ 3 < f 0 ∨ f 2 < f 1 ∨ f 4 < f 3 ∨ 11 < f 2 ∨ 11 < f 4 ∨
            ∀ k, k < num bs 6 2 → secType bs k = 2 → num (secBytes bs k) 0 2 ≠ f 5
    | 4 => b.length ≠ 8 ∨ BitVec.ofNat 64 (num b 0 8) &&& ~~~0x103#64 ≠ 0
    | 5 | 6 => False
    | 7 => b.length < 16 + num b 8 4 ∨ num b 3 1 ≠ 0 ∨ 4095 < num b 4 2 ∨ num b 6 2 ≠ 0 ∨ num b 12 4 ≠ 0 ∨
        2 ^ 20 < 4096 * num b 2 1 + num b 4 2 + num b 8 4
    | 15 => i + 1 ≠ num bs 6 2 ∨ secOff bs i + secSize bs i ≠ num bs 8 8
    | _ => True

/-- The value is that of the first condition that holds, or none. -/
def firstOf {α : Type} (v : Option α) : List (Prop × α) → Prop
  | [] => v = none
  | (p, a) :: rest => (p → v = some a) ∧ (¬p → firstOf v rest)

/-- (R368 to R375, R378) The verdict of loading a byte string: LERR and LIDX of the first check that fails. -/
def loadVerdict (s : State) (queue ref : Nat) (bs : List Byte) : Prop :=
  let v := s.loadError queue ref bs
  let n := num bs 6 2
  (headBreaks bs → v = some (1, 0xFFFFFFFF)) ∧
  (¬headBreaks bs → countBreaks bs → (∀ i, i < n → secType bs i ∈ [1, 2, 3, 4, 5, 6, 7, 15]) → v = some (1, 0xFFFFFFFF)) ∧
  (¬headBreaks bs → ¬countBreaks bs → ∀ i, i < n → secBreaks bs i → (∀ k, k < i → ¬secBreaks bs k) → v = some (1, i)) ∧
  (¬headBreaks bs → ¬countBreaks bs → (∀ i, i < n → ¬secBreaks bs i) → ∀ a, a < n → secType bs a = 1 →
    let note := secBytes bs a
    let sg := secBytes bs (n - 1)
    let timing := num note 4 1
    let free : Prop := ∃ i, i < n ∧ secType bs i = 2 ∧ num (secBytes bs i) 0x0C 2 ≠ 0
    let old := ((List.range (num note 6 2)).map fun e => num note (0x10 + 8 * e) 2).find? fun e => e == 907 || !Config.erratum e
    firstOf v [
      (¬∃ key, s.keys.get? (num sg 0 4) = some key ∧ sg.length = 104 ∧ num sg 4 4 = 0 ∧
        ecdsaVerify key (bs.take (bs.length - 104)) (sg.drop 8) = true, (2, n - 1)),
      (1 < num note 0 2, (3, a)), (timing ≠ 0 ∧ timing ≠ 1 ∧ free, (4, a)), (old.isSome = true, (5, old.getD 0)),
      (timing = 0 ∧ free, (6, a)),
      (256 ≤ s.objs.length ∨ ∃ o ∈ s.objs, o.queue = queue ∧ o.ref = ref, (7, 0xFFFFFFFF))])

/-- (R341, R348) The sections of a save slot that a debug packet may name: first and last offset, and the size of one context's part. -/
def slotParts : List (Nat × Nat × Option Nat) :=
  [(0x1000, 0x9000, some 0x2000), (0x9000, 0x29000, some 0x8000), (0x29000, 0x49000, some 0x8000), (0x49000, 0x51000, some 0x2000),
   (0x51000, 0x5D000, none), (0x5D000, 0x5F000, none), (0x5F000, 0x63000, none), (0x63000, 0x65000, none), (0x80000, 0xA0000, none),
   (0x100000, 0x200000, none)]

/-- (R332, R348) Whether a doubleword of a save slot is in a job's share. Where progress words, reel counters, receive queues and
comparators stand within their sections is the model's (log 9). -/
def inShare (j : Job) (a : Nat) : Prop :=
  let part (lo hi size : Nat) (out : Nat → Bool) : Prop := lo ≤ a → a < hi → out ((a - lo) / size) = false
  part 0x100000 0x200000 4096 (fun n => decide (j.swcnt ≤ n)) ∧ part 0x80000 0xA0000 0x4000 j.accx.getLsbD ∧
    part 0x5D000 0x5E000 512 j.accx.getLsbD ∧ part 0x5E800 0x5EC00 128 j.accx.getLsbD ∧ part 0x5F000 0x63000 1024 j.reelx.getLsbD ∧
    part 0x63000 0x63600 96 j.reelx.getLsbD ∧ part 0x63600 0x64A00 1280 j.qx.getLsbD ∧ part 0x64A00 0x64C00 64 j.cmpx.getLsbD

/-- (R348) Whether a debug packet may read or write `n` doublewords of a slot: in one section, every context whose state that is halted, and
in the job's share. -/
def mayTouch (s : State) (j : Job) (tile off n : Nat) : Prop :=
  ∃ x ∈ slotParts, x.1 ≤ off ∧ off + 8 * n ≤ x.2.1 ∧
    (∀ c, (match x.2.2 with
        | some k => c < 4 ∧ off < x.1 + k * (c + 1) ∧ x.1 + k * c < off + 8 * n
        | none => c ∈ j.ctxsOn tile) → c ∈ j.ctxsOn tile ∧ ((s.ctx ⟨tile, c⟩).dbgHalt = true ∨ (s.ctx ⟨tile, c⟩).exit ≠ none)) ∧
    ∀ i, i < n → inShare j (off + 8 * i)
/-- (R387, R390) A message of the open session whose turn it is. -/
def onTurn (s : State) (h : MsgHdr) : Prop :=
  s.power = .running ∧ s.tether.session = some h.session ∧ h.seq = s.tether.rxNext

/-- (R387) A message of the device as it leaves: in the open session, with the time, and where nothing has come ahead of its turn, ACK is
the next message of the host and SACK marks none. -/
def leaves (s t : State) (r : Reply) (ack : Nat) : Prop :=
  t.hostOut = s.hostOut ++ [r] ∧ some r.session = s.tether.session ∧ r.sent = s.cycle ∧ (s.tether.rxBuf = [] → r.ack = ack ∧ r.sack = 0)

/-- (R387) A message is answered once: its reply has the next number of the device, leaves, and is kept. -/
def answered (s t : State) (h : MsgHdr) (status : Nat) (words : List W64) (bytes : List Byte) : Prop :=
  ∃ r : Reply, leaves s t r ((h.seq + 1) % 2 ^ 32) ∧ r.kind = 6 ∧ r.seq = s.tether.txNext ∧ r.re = h.seq ∧ r.status = status ∧ r.words = words ∧
    r.bytes = bytes ∧ t.tether.txNext = (s.tether.txNext + 1) % 2 ^ 32 ∧ t.tether.rxNext = (h.seq + 1) % 2 ^ 32 ∧
    r ∈ t.tether.unacked ∧ (h.seq, some r) ∈ t.tether.stored

/-- (R387) A message of the device leaves once more, with a header of now. -/
def leavesAgain (s t : State) (r : Reply) : Prop :=
  ∃ m : Reply, leaves s t m s.tether.rxNext ∧ m.kind = r.kind ∧ m.seq = r.seq ∧ m.re = r.re ∧ m.status = r.status ∧ m.words = r.words ∧
    m.bytes = r.bytes

/-- Nothing but the transport differs, and the fields that a change `f` makes. -/
def onlyHost (s t : State) (f : State → State) : Prop :=
  { t with
    tether := s.tether
    hostOut := s.hostOut } = f s

/-- (R390, R392) The package does not run in minimal mode. -/
def fullMode (s : State) : Prop := s.bootcause.getLsbD 0 = false

/-- (R329, R389) A message of the host that bears a packet or an operation of a few kinds. -/
def bears (h : MsgHdr) (i : Instr) : Prop :=
  (∃ p, packetOf h p = some i) ∨ (∃ w, i = .setPowerLimit h w) ∨ (∃ n, i = .revokeKey h n) ∨ (∃ d on, i = .prefetchEnable h d on) ∨
    i = .readTelemetry h

/-- (R388, R389, R392) A window access, or a management operation that minimal mode does not serve. -/
def notInMinimal (h : MsgHdr) (i : Instr) : Prop :=
  (∃ a n, i = .windowRead h a n) ∨ (∃ a bs, i = .windowWrite h a bs) ∨ (∃ a p x y, i = .windowAtomic h a p x y) ∨
    (∃ asid root, i = .setAddressSpace h asid root) ∨ (∃ sc, i = .invalidate h sc) ∨ (∃ ps, i = .addSnapshotPool h ps) ∨
    (∃ d m, i = .dieCounterControl h d m) ∨ (∃ d on, i = .prefetchEnable h d on) ∨ (∃ l, i = .linkEnable h l) ∨
    (∃ w, i = .setPowerLimit h w) ∨ ∃ n, i = .attestation h n
end Sys2Proof.Machine
end

