-- ==== Sys2Proof/Certificates/Slice0/Obligations.lean ====
section
/-! DEFINITION. The statements about the machine, from the numbered rules of the manual. -/

open Sys2Proof Sys2Proof.Machine

/-- (R44, R107) Every fixed-latency integer form takes A from o1 and B from T, completes, and starts the result of its
row, which lands in its unit after its latency. No form raises a fault or changes a flag. -/
def Obligations.IntegerForms : Prop :=
  ∀ (i : Instr) (u : IntUnit) (lat : Nat) (f : W64 → W64 → W64 → Pair 64), intForm i = some (u, lat, f) →
    ∀ s : State, exec i s = .next
      (s.startFixed u.num lat (pairRec (f (s.opPort64 u.num 0) s.opT64 (s.opPort64 u.num 1))) Effects.none)

/-- (R108) Every divide and remainder completes and starts the quotient and the remainder of its row, which land within
22 tile cycles for a `.w` form and 38 for the others. None faults, by zero or at the most negative dividend.
(R109) fpack delivers flags f8 to f15 as they stand at the trigger; funpack delivers T[7:0] and, as the result lands, writes
them to f8 to f15 and to no other flag. -/
def Obligations.DividesAndFlagPacking : Prop :=
  (∀ (i : Instr) (u : IntUnit) (w : Bool) (f : W64 → W64 → Pair 64), divForm i = some (u, w, f) →
    ∀ s : State, exec i s = .next
      (s.startDiv u.num (if w then 22 else 38) (pairRec (f (s.opPort64 u.num 0) s.opT64)))) ∧
  ∀ (u : IntUnit) (s : State),
    exec (.intFpack u) s = .next (s.startFixed u.num 1 (pairRec ((s.self.f.extractLsb' 8 8).zeroExtend 64, 0)) Effects.none) ∧
    ∃ e : Effects, exec (.intFunpack u) s =
        .next (s.startFixed u.num 1 (pairRec ((s.opT64.extractLsb' 0 8).zeroExtend 64, 0)) e) ∧
      ∀ (x : Ctx) (n : Nat), n < 16 →
        (x.applyEffects e).readF n = if 8 ≤ n then s.opT64.getLsbD (n - 8) else x.readF n

/-- (R45, R46, R110 to R113) Every scalar floating-point form completes, rounds in the FRM.MODE of its trigger, delivers
the encoding of its row with the flags in `stat`, and carries the same flags to FFLAGS at its landing. None faults. -/
def Obligations.FloatForms : Prop :=
  ∀ (i : Instr) (u lat : Nat) (f : RMode → W64 → W64 → W64 → FRes), fpForm i = some (u, lat, f) →
    ∀ s : State,
      let r := f (RMode.ofFrm s.self.frm) (s.opPort64 u 0) s.opT64 (s.opPort64 u 1)
      exec i s = .next (s.startFixed u lat (fpRecord r) { flags := none, ptr := none, wd := none, ff := r.ff })

/-- (R203) A magnitude x = m × 2^e is rounded to the grid of a format as its mode chooses: x itself if it lies on the
grid, exactly and without a sign of inexactness; otherwise that neighbour of x which the table names. (R204, R207) Rounded
into the format, with its sign, it is the encoding of that number with inexact and underflow as they arise, or what an
overflow delivers, with overflow and inexact. -/
def Obligations.RoundingChooses : Prop :=
  ∀ (f : Fmt) (mode : RMode) (neg : Bool) (m : Nat) (e : Int),
    let x : ℚ := (m : ℚ) * (2 : ℚ) ^ e
    let r := ({ m := m, e := e, sticky := false } : Mag).code f.frac f.low mode neg
    (∃ lo : Nat, f.gridPoint lo ≤ x ∧ x < f.gridPoint (lo + 1) ∧
      (x = f.gridPoint lo → r = (lo, false)) ∧ (x ≠ f.gridPoint lo → r = (f.choose mode neg lo x, true))) ∧
    ∀ sat : Bool, f.rounded mode sat neg (x : ℝ) ((Val.fin neg m e).into f mode sat)

/-- (R200, R201, R204, R207) A finite encoding of a format stands for a finite value which, rounded into that format in
any mode, is that encoding again, without a flag; the encoding's number in the grid is the encoding without its sign. A result
above the largest finite value overflows: what each mode delivers, by sign, in every format. -/
def Obligations.EncodingsAndOverflow : Prop :=
  (∀ (f : Fmt) (mode : RMode) (sat : Bool) (n : Nat), n < 2 ^ (f.signPos + 1) → n % 2 ^ f.signPos ≤ f.maxCode →
    (f.val n).isFin = true ∧ (f.val n).rat = (if n.testBit f.signPos then -1 else 1) * f.gridPoint (n % 2 ^ f.signPos) ∧
      (f.val n).into f mode sat = { bits := n, ff := 0 }) ∧
  ∀ (f : Fmt) (mode : RMode) (sat neg : Bool),
    let max := f.signBit neg + f.maxCode
    let infinite := match f.inf? with
      | some i => f.signBit neg + i
      | none => 0x7F
    f.overflow mode sat neg =
      if sat then max
      else match mode with
        | .rne => infinite
        | .rz | .ro => max
        | .rd => if neg then infinite else max
        | .ru => if neg then max else infinite

/-- (R205) The sum of finite values is exact, an exact zero sum of unlike signs is +0, or −0 in RD, a sum of two zeros of
one sign keeps it, and the product of finite values is exact with the exclusive OR of the signs. (R113) So is a × b + c,
which the zero rule of a sum signs; 0 × ∞ is invalid, whatever c is, and so is ∞ − ∞. The quotient and the square root of
numbers are the exact ones rounded once; what zeros, infinities and NaNs give is as the table says. (R111, R199) A value
becomes the integer that its mode chooses, or the nearer end of the range with invalid, and `rnd` gives that integer as a
number of the format without a flag. -/
def Obligations.ExactSumsAndProducts : Prop :=
  (∀ (rd x y : Bool) (m n : Nat) (e d : Int),
    let a := Val.fin x m e
    let b := Val.fin y n d
    ((a.add rd b).ff = 0 ∧ (a.add rd b).val.isFin = true ∧ (a.add rd b).val.rat = a.rat + b.rat ∧
      (a.rat + b.rat = 0 → (a.add rd b).val.neg? = if m = 0 ∧ n = 0 ∧ x = y then x else rd)) ∧
    (a.mul b).ff = 0 ∧ (a.mul b).val.isFin = true ∧ (a.mul b).val.rat = a.rat * b.rat ∧ (a.mul b).val.neg? = (x != y)) ∧
  (∀ (rd x y z : Bool) (m n k : Nat) (e d c : Int),
    let a := Val.fin x m e
    let b := Val.fin y n d
    let o := Val.fin z k c
    (Val.fma rd a b o).ff = 0 ∧ (Val.fma rd a b o).val.isFin = true ∧ (Val.fma rd a b o).val.rat = a.rat * b.rat + o.rat ∧
      (a.rat * b.rat + o.rat = 0 →
        (Val.fma rd a b o).val.neg? = if a.rat * b.rat = 0 ∧ k = 0 ∧ (x != y) = z then z else rd)) ∧
  (∀ (rd x y q : Bool) (m : Nat) (e : Int) (v c : Val),
    ((Val.inf x).add rd (.fin y m e) = { val := .inf x, ff := 0 } ∧ (Val.fin y m e).add rd (.inf x) = { val := .inf x, ff := 0 } ∧
      (Val.inf x).add rd (.inf y) = (if x = y then { val := .inf x, ff := 0 } else { val := .nan false, ff := 16 })) ∧
    ((Val.inf x).mul (.inf y) = { val := .inf (x != y), ff := 0 } ∧
      (m ≠ 0 → (Val.inf x).mul (.fin y m e) = { val := .inf (x != y), ff := 0 } ∧
        (Val.fin y m e).mul (.inf x) = { val := .inf (y != x), ff := 0 }) ∧
      (Val.inf x).mul (.fin y 0 e) = { val := .nan false, ff := 16 } ∧ (Val.fin y 0 e).mul (.inf x) = { val := .nan false, ff := 16 }) ∧
    ((Val.nan q).add rd v = { val := .nan false, ff := if q || v.isSnan then 16 else 0 } ∧
      v.add rd (.nan q) = { val := .nan false, ff := if q || v.isSnan then 16 else 0 } ∧
      (Val.nan q).mul v = { val := .nan false, ff := if q || v.isSnan then 16 else 0 } ∧
      v.mul (.nan q) = { val := .nan false, ff := if q || v.isSnan then 16 else 0 }) ∧
    (Val.fma rd (.inf x) (.fin y 0 e) c = { val := .nan false, ff := 16 } ∧
      Val.fma rd (.fin y 0 e) (.inf x) c = { val := .nan false, ff := 16 } ∧
      (m ≠ 0 → Val.fma rd (.inf x) (.fin y m e) (.inf (x == y)) = { val := .nan false, ff := 16 }))) ∧
  (∀ (f : Fmt) (mode : RMode) (x y q : Bool) (m n : Nat) (e d : Int) (v : Val),
    let zero (neg : Bool) : FRes := { bits := f.signBit neg, ff := 0 }
    (n ≠ 0 → f.rounded mode false (x != y) (((m : ℚ) * (2 : ℚ) ^ e / ((n : ℚ) * (2 : ℚ) ^ d) : ℚ) : ℝ)
      ((Val.fin x m e).divInto (.fin y n d) f mode)) ∧
    (m ≠ 0 → (Val.fin x m e).divInto (.fin y 0 d) f mode =
      { bits := (f.infinite (x != y)).bits, ff := (f.infinite (x != y)).ff ||| 8 }) ∧
    (Val.fin x 0 e).divInto (.fin y 0 d) f mode = f.notANumber true ∧
    (Val.inf x).divInto (.inf y) f mode = f.notANumber true ∧
    (Val.inf x).divInto (.fin y n d) f mode = f.infinite (x != y) ∧
    (Val.fin x m e).divInto (.inf y) f mode = zero (x != y) ∧
    (Val.nan q).divInto v f mode = f.notANumber (q || v.isSnan) ∧
    v.divInto (.nan q) f mode = f.notANumber (q || v.isSnan) ∧
    f.rounded mode false false (Real.sqrt (((m : ℚ) * (2 : ℚ) ^ e : ℚ) : ℝ)) ((Val.fin false m e).sqrtInto f mode) ∧
    (Val.fin x 0 e).sqrtInto f mode = zero x ∧
    (m ≠ 0 → (Val.fin true m e).sqrtInto f mode = f.notANumber true) ∧
    (Val.inf false).sqrtInto f mode = f.infinite false ∧
    (Val.inf true).sqrtInto f mode = f.notANumber true ∧
    (Val.nan q).sqrtInto f mode = f.notANumber q ∧
    (Val.nan q).into f mode false = f.notANumber q ∧ (Val.inf x).into f mode false = f.infinite x) ∧
  (∀ (mode : RMode) (lo hi : Int) (x : Bool) (m : Nat) (e : Int) (q : Bool),
    let v := Val.fin x m e
    let z := intPick mode v.rat
    v.toInt lo hi mode = (if z < lo then (lo, 16) else if hi < z then (hi, 16) else (z, if (z : ℚ) = v.rat then 0 else 1)) ∧
    (Val.nan q).toInt lo hi mode = (hi, 16) ∧ (Val.inf x).toInt lo hi mode = (if x then lo else hi, 16)) ∧
  ∀ (f : Fmt) (mode : RMode) (n : Nat), n < 2 ^ (f.signPos + 1) →
    (n % 2 ^ f.signPos ≤ f.maxCode → (f.rnd n mode).ff = 0 ∧ (f.rnd n mode).bits.testBit f.signPos = n.testBit f.signPos ∧
      (f.val (f.rnd n mode).bits).isFin = true ∧ (f.val (f.rnd n mode).bits).rat = ((intPick mode (f.val n).rat : Int) : ℚ)) ∧
    ((f.val n).isNan = true → f.rnd n mode = f.notANumber (f.val n).isSnan) ∧
    ∀ neg : Bool, f.val n = .inf neg → f.rnd n mode = { bits := n, ff := 0 }
/-- (R22, R36, R37, log 1) When a context takes up its next word and the bits at its program counter decode to a word m, a
step is what `exec` does with m in that state, for that context, with the forced step taken up. A trigger, or an event that a
cycle forces, is run by the step that takes it up, and between cycles a scheduled event that is due is run by the next step:
each is what `exec` does with it. -/
def Obligations.StepRunsTheDecodedInstruction : Prop :=
  (∀ (s : State) (c : Who) (rest : List Task) (m : MoveWord), s.agenda = .issue c :: rest → (s.ctx c).pc < 8192 →
    ((s.tile c.tile).badWords.contains (s.ctx c).pc) = false → decodeMoves ((s.tile c.tile).word (s.ctx c).pc) = .ok m →
    step s = exec (.wordIssue m) { s with agenda := rest, trig := { s.trig with who := c } }) ∧
  (∀ (s : State) (tr : Trig) (i : Instr) (rest : List Task), s.agenda = .run tr i :: rest →
    step s = exec i { s with agenda := rest, trig := tr }) ∧
  ∀ (s : State) (n : Nat) (i : Instr) (rest : List (Nat × Instr)), s.agenda = [] → s.worked = false →
    s.sched = (n, i) :: rest → n ≤ s.cycle.toNat → portOf i = none → (∀ m, i ≠ .wordIssue m) →
    step s = exec i { s with sched := rest }

/-- (R30, R36) A word that nothing holds back or faults completes. All its reads are made first: each register, flag and
operand port that one of its moves names alone holds the value which that move read before the word; every other one is as
it was. Its triggers are left to start in slot order, then the word ends. (R74) Its context has waited for nothing yet. Memory and the other contexts are unchanged. Second
(R32, R57, R358), a legal word whose moves carry registers, flags and constants to registers and flags within the allotment is
one that nothing holds back or faults, while no parity error stands. Third (R29, R34, R41), what a move carries is what its source
holds, put onto the bus of its slot and taken into its destination by the table.
Points that the rules leave open stand as the model reads them (log 10). -/
def Obligations.WordsPerform : Prop :=
  (∀ (m : MoveWord) (s : State), let c := s.trig.who
    let u := s.trialled c
    let ms := taken (u.ctx c) (wordMoves m)
    u.verdict c m none = .go →
    ∃ t, exec (.wordIssue m) s = .next t ∧
      (∀ k ∈ ms, destIsStore k.dst = true → (∀ k' ∈ ms, k'.dst = k.dst → k' = k) →
        (t.ctx c).holds k.dst = destTakes k.dst (moveValue (u.tile c.tile) (u.ctx c) ms k)) ∧
      (∀ d : Dest, destIsStore d = true → (∀ k ∈ ms, k.dst ≠ d) → (t.ctx c).holds d = (u.ctx c).holds d) ∧
      t.agenda = triggersOf c (u.ctx c).pc (moveValue (u.tile c.tile) (u.ctx c) ms) ms ++ .wordEnd c :: s.agenda ∧
      (t.ctx c).waits = 0 ∧ (t.ctx c).stalled = false ∧ t.mem = s.mem ∧ ∀ d, d ≠ c → t.ctx d = s.ctx d) ∧
  (∀ (m : MoveWord) (s : State), m.wf = true → s.parity = [] →
    (∀ k ∈ wordMoves m, k.plain (s.ctx s.trig.who) = true) → (s.trialled s.trig.who).verdict s.trig.who m none = .go) ∧
  ∀ (t : Tile) (x : Ctx) (ms : List MoveAt) (k : MoveAt) (v : Bused), k.gives t x ms = some v →
    moveValue t x ms k = offBus (wideDest k.dst) (ontoBus k.slot v)

/-- (R54, R56, R63, R84) A result whose count has run out lands: at the tail of the queue of a data-locked unit, or in the
result slots of a free-running one, whose read mark it clears. (R37, R108) A divide lands as soon as no result of an earlier slot of
its word and unit is in flight, or, once its bound has run out, right behind those, which land with it. Its flags, pointer, walk descriptor and FFLAGS are written in the same step,
and it is no longer in flight; the context keeps everything else, its pc, lock mask, loop and ports among it, and nothing else of
the state but the unit's parity mark changes.
Points that the rules leave open stand as the model reads them (log 26). -/
def Obligations.ResultsLand : Prop :=
  (∀ (s : State) (c : Who) (r : InFlight), (s.ctx c).bank.fly.find? (fun y => y.id == r.id) = some r → r.div = true → r.left = 0 →
    let ahead := (s.ctx c).bank.fly.filter fun q => decide (q.unit = r.unit ∧ q.cyc = r.cyc ∧ q.id < r.id)
    ∃ t, exec (.divideLanding c r.id) s = .next t ∧ t.mem = s.mem ∧ (∀ d, d ≠ c → t.ctx d = s.ctx d) ∧
      (t.ctx c).bank.fly = (s.ctx c).bank.fly.filter (fun q => q.id != r.id && !ahead.any fun a => a.id == q.id) ∧
      ((s.ctx c).locked r.unit = true →
        (t.ctx c).bank.queue r.unit = (s.ctx c).bank.queue r.unit ++ ahead.map (·.res) ++ [r.res]) ∧
      ((s.ctx c).locked r.unit = false → (t.ctx c).bank.slot r.unit = r.res)) ∧
  ∀ (s : State) (c : Who) (r : InFlight) (i : Instr), (s.ctx c).bank.fly.find? (fun y => y.id == r.id) = some r →
    (i = .resultLanding c r.id ∧ r.div = false ∧ r.left = 0 ∨ i = .divideLanding c r.id ∧ r.div = true ∧
      ∀ q ∈ (s.ctx c).bank.fly, q.unit = r.unit → q.cyc = r.cyc → r.id ≤ q.id) →
    ∃ t, exec i s = .next t ∧
      ((s.ctx c).locked r.unit = true → (t.ctx c).bank.queue r.unit = (s.ctx c).bank.queue r.unit ++ [r.res] ∧
        (t.ctx c).bank.slots = (s.ctx c).bank.slots ∧ (t.ctx c).bank.marks = (s.ctx c).bank.marks) ∧
      ((s.ctx c).locked r.unit = false → (t.ctx c).bank.slot r.unit = r.res ∧
        (r.unit < 16 → (t.ctx c).bank.marks.getLsbD r.unit = false) ∧ (t.ctx c).bank.queues = (s.ctx c).bank.queues) ∧
      (∀ u, u ≠ r.unit → (t.ctx c).bank.queue u = (s.ctx c).bank.queue u ∧ (t.ctx c).bank.slot u = (s.ctx c).bank.slot u ∧
        (u < 16 → r.unit < 16 → (t.ctx c).bank.marks.getLsbD u = (s.ctx c).bank.marks.getLsbD u)) ∧
      (t.ctx c).bank.fly = (s.ctx c).bank.fly.filter (fun q => q.id != r.id) ∧
      (∀ n, n < 16 → (t.ctx c).readF n = match r.eff.flags with
        | some b => if 8 ≤ n then b.getLsbD (n - 8) else (s.ctx c).readF n
        | none => (s.ctx c).readF n) ∧
      (∀ n, (t.ctx c).readA n = match r.eff.ptr with
        | some (k, v) => if n = k then v else (s.ctx c).readA n
        | none => (s.ctx c).readA n) ∧
      (t.ctx c).wd = (match r.eff.wd with
        | some (k, v) => (s.ctx c).wd.set k v
        | none => (s.ctx c).wd) ∧
      (t.ctx c).fflags = (s.ctx c).fflags ||| r.eff.ff ∧
      { (t.ctx c).bank with
        queues := (s.ctx c).bank.queues
        slots := (s.ctx c).bank.slots
        marks := (s.ctx c).bank.marks
        fly := (s.ctx c).bank.fly } = (s.ctx c).bank ∧
      { t.ctx c with
        bank := (s.ctx c).bank
        f := (s.ctx c).f
        a := (s.ctx c).a
        wd := (s.ctx c).wd
        fflags := (s.ctx c).fflags } = s.ctx c ∧
      onlyCtx s { t with parity := s.parity } c ∧ t.agenda = s.agenda

/-- (R54, R56) The frame of every operation of fixed latency: if its next state is that in which its result starts, then only
that result is added to what the trigger's context has in flight, to land no sooner than the results of fixed latency of its word
and unit that started before it; (R37) divides among those, whose time is open, land no later than it. Nothing else of the context, of any other or of the tiles changes, and no byte of memory: everything else
of the state is as it was, but for the number that the result takes.
Points that the rules leave open stand as the model reads them (log 26). -/
def Obligations.StartingResultsFrame : Prop :=
  ∀ (i : Instr) (s t : State) (u lat : Nat) (r : Rec) (e : Effects), exec i s = .next t → t = s.startFixed u lat r e →
    let cyc := s.self.curCyc
    let left := startsWith s.self.bank u cyc lat
    t.self = { s.self with
      bank := { s.self.bank with
        fly := (s.self.bank.fly.map fun q =>
            if q.unit = u ∧ q.cyc = cyc ∧ q.div = true then { q with left := min q.left left } else q)
          ++ [{ unit := u, id := s.fresh, left := left, cyc := cyc, div := false, res := r, eff := e }] } } ∧
    (∀ a, Memory.read t.mem a = Memory.read s.mem a) ∧ onlyCtx s { t with fresh := s.fresh } s.trig.who ∧ t.agenda = s.agenda

/-- (R28, R53, R74, R80, R93) The steps that end a count complete: a stall count and an idle that stand at their last cycle
reach zero, which makes the context ready; a context whose wait count has reached 240 issues its next word, which sets the wait
count to zero. Where a context of a tile has counted for 240 tile cycles without a context cycle, the cycle without issue
completes: every context of the tile that counts and is not at its last count runs down by one, a stall count before an idle;
one at its last count has the end of that count left as a step. Every other context, and memory, stays as it is.
Points that the rules leave open stand as the model reads them (log 24). -/
def Obligations.CountsEnd : Prop :=
  (∀ (s : State) (c : Who),
    ((s.ctx c).counting = true → (s.ctx c).stall = 1 → ∃ t, exec (.stallCountEnd c) s = .next t ∧ (t.ctx c).stall = 0 ∧
      (t.ctx c).idle = (s.ctx c).idle ∧ (∀ d, d ≠ c → t.ctx d = s.ctx d) ∧ t.mem = s.mem) ∧
    ((s.ctx c).counting = true → (s.ctx c).stall = 0 → (s.ctx c).idle = 1 → ∃ t, exec (.idleEnd c) s = .next t ∧
      (t.ctx c).stall = 0 ∧ (t.ctx c).idle = 0 ∧ (∀ d, d ≠ c → t.ctx d = s.ctx d) ∧ t.mem = s.mem) ∧
    (240 ≤ (s.ctx c).waits → exec (.waitCountLimit c) s = .next { s with agenda := .issue c :: s.agenda } ∧
      ∀ (m : MoveWord) (t : State), s.trig.who = c → (s.trialled c).verdict c m none = .go →
        exec (.wordIssue m) s = .next t → (t.ctx c).waits = 0)) ∧
  ∀ (s : State) (tile : Nat), (∃ c ∈ s.countingOn tile, 240 ≤ (s.ctx c).starved) →
    ∃ t, exec (.stallFloorIdleCycle tile) s = .next t ∧ t.mem = s.mem ∧
      (∀ c, c ∉ s.countingOn tile → t.ctx c = s.ctx c) ∧
      ∀ c ∈ s.countingOn tile,
        (2 ≤ (s.ctx c).stall → (t.ctx c).stall = (s.ctx c).stall - 1 ∧ (t.ctx c).idle = (s.ctx c).idle) ∧
        ((s.ctx c).stall = 0 → 2 ≤ (s.ctx c).idle → (t.ctx c).idle = (s.ctx c).idle - 1) ∧
        ((s.ctx c).stall = 1 → t.ctx c = s.ctx c ∧ .run { Trig.init with who := c } (.stallCountEnd c) ∈ t.agenda) ∧
        ((s.ctx c).stall = 0 → (s.ctx c).idle = 1 → t.ctx c = s.ctx c ∧ .run { Trig.init with who := c } (.idleEnd c) ∈ t.agenda)

/-- (R22 to R33) Decode undoes encode: a well-formed word, with every field at any value that its encoding admits, is what
decoding its 256 bits gives. -/
def Obligations.DecodeEncode : Prop :=
  ∀ m : MoveWord, m.wf = true → decodeWord (encodeMoves m) = .ok m

/-- (R22, R24, R26, R29 to R31, R33) A word that decodes is well-formed, has zeros in XH and KIND, and SC, KEEP and BANK are its bits. A
word in which two move slots that are not empty have the same DEST, under guards that do not name the same flag with opposite
inversion bits, is illegal: it does not decode. -/
def Obligations.DecodingIsStrict : Prop :=
  (∀ (w : W256) (m : MoveWord), decodeWord w = .ok m →
    m.wf = true ∧ w.extractLsb' 236 4 = 0 ∧ w.extractLsb' 232 4 = 0 ∧ m.sc = w.extractLsb' 252 4 ∧
      m.keep = w.getLsbD 243 ∧ m.bank = w.extractLsb' 240 3) ∧
  (∀ (w : W256) (i j : Nat) (g h : Guard) (a b : Option Source) (d : Dest), i < j →
    (views w)[i]? = some (.move g a (some d)) → (views w)[j]? = some (.move h b (some d)) →
    ¬(g.flag = h.flag ∧ g.inv ≠ h.inv) → ∀ m, decodeWord w ≠ .ok m)

/-- (R43 to R51, R83) A trigger port names one operation: an operation is decoded from the port that encodes it, for some
operand, and from no other. -/
def Obligations.PortsNameOperations : Prop :=
  (∀ (u p : Nat) (t : W512) (i : Instr), opOf u p t = some i → portOf i = some (u, p) ∧ u < 16 ∧ 3 ≤ p ∧ p < 64) ∧
  ∀ (i : Instr) (u p : Nat), portOf i = some (u, p) → ∃ t, opOf u p t = some i

/-- (R22 to R30) Words written out from the encoding tables decode to the moves that they stand for: the worked word
`g5 -> inta.o1 | #300 -> inta.add | #100000 -> g7 ~2`, and a move of each of several units' ports and result slots. -/
def Obligations.WordsDecode : Prop :=
  decodeWord (wordFrom 0x208000 [0x5840, 0xD2C843, 0xFFF007, 0x186A0, 0x10000000, 0x10000000, 0x10000000, 0x10000000]) =
    .ok { sc := 2, keep := false, bank := 0,
          slots := [.move ⟨false, 0⟩ (.g 5) (.port 1 0), .move ⟨false, 0⟩ (.imm 0x52C) (.port 1 3),
            .move ⟨false, 0⟩ .long (.g 7), .lit 0x186A0, .empty, .empty, .empty, .empty] } ∧
  ∀ e ∈ ([(0xC05B83, .imm 0x405, .port 14 3), (0xC05B84, .imm 0x405, .port 14 4), (0x170000, .res 14 0, .g 0),
      (0xC1ABC4, .imm 0x41A, .port 15 4), (0xC10B44, .imm 0x410, .port 13 4), (0x150B40, .res 10 0, .port 13 0),
      (0x16B200, .res 13 3, .v 0), (0x16A002, .res 13 2, .g 2), (0xC00B8C, .imm 0x400, .port 14 12)] : List (Nat × Source × Dest)),
    decodeWord (wordFrom 0 (e.1 :: List.replicate 7 0x10000000)) =
      .ok { sc := 0, keep := false, bank := 0, slots := .move ⟨false, 0⟩ e.2.1 e.2.2 :: List.replicate 7 .empty }

/-- (R39, R60, R89, R100 to R103, R353) Taking a fault at a trigger, with no other trigger of the word put off and an empty
trap shadow: the context enters its handler, FREC0 to FREC3 hold the record, and nothing else of the machine changes but the
hold on the loop buffer, which is released. With the trap shadow occupied the context halts instead, and (R336) the job that stands
there fails. -/
def Obligations.TrapEntry : Prop :=
  ∀ (s : State) (i : Instr) (f : FaultAt), noneLate s = true →
    (s.self.shadow = none →
      let t := s.faultTrigger i f
      trapEntered s.self.applyLater t.self ∧
        trapRecorded s t.self f.code.num f.info (f.f1.getD (s.opPort64 (unitOf i) 0)) ∧
        onlyContext s t s.trig.who) ∧
    (s.self.shadow ≠ none → ((s.faultTrigger i f).ctx s.trig.who).exit ≠ none ∧
      ∀ k j, s.self.job = some k → s.job? k = some j → j.st = .running →
        ((s.faultTrigger i f).job? k).map (fun j => j.st) = some .failed)

/-- (R22, R32, R33, R35, R57, R63, R100 to R103) A word that decode refuses faults in place of performing: none of its moves
writes a register, flag or pointer, and the context enters its handler with LEVEL 0, the word and the slot of the refusal. (R25, R26,
R29 to R31, R35, R385) Bits that make no legal word are refused at the lowest slot that makes them so, or at slot 0 for XH and KIND
alone, and raise FLT_XWORD: at once where no slot reads a result or triggers, and else the step may leave all as it is, while the word
waits. A legal word raises FLT_PORT at the lowest slot that causes it: also one that reads a receive queue without being its reader (R306), or
one outside its job's share (R332, as log 11 reads it). Where none does and it waits for nothing, it raises
FLT_REGBOUND at the lowest slot that names a register above an allotment, with the free registers of that file in FREC1, and else
FLT_LATENCY at the lowest that reads too early.
FREC2 of a fault that bits raise is 0: by R385 for XH and KIND, else the choice of the model (log 26).
Points that the rules leave open stand as the model reads them (log 10, log 11). -/
def Obligations.WordsFaultAtDecode : Prop :=
  (∀ (m : MoveWord) (s : State) (slot : Nat) (code : Flt) (f1 : W64), let c := s.trig.who
    let x := ((s.trialled c).ctx c).applyLater
    (s.trialled c).verdict c m none = .decode slot code f1 [] → x.shadow = none →
    ∃ t, exec (.wordIssue m) s = .next t ∧ trapEntered x (t.ctx c) ∧
      frec0Fields (t.ctx c).frec0 (((s.trialled c).ctx c).pc % 8192) 0 false (!x.xfer.isEmpty) false (slot % 8) code.num ∧
      (t.ctx c).frec1 = f1 ∧ (t.ctx c).frec3 = x.bank.latencyMap ∧ onlyContext s t c) ∧
  (∀ (w : W256) (i : Nat), decodeMoves w = .error (.illegal i) ↔
    causesIllegal (views w) i ∧ ∀ j, j < i → ¬causesIllegal (views w) j) ∧
  (∀ w : W256, decodeMoves w = .error .extension ↔ (∀ i, ¬causesIllegal (views w) i) ∧ w.extractLsb' 232 8 ≠ 0) ∧
  (∀ (s : State) (c : Who) (rest : List Task) (e : DecodeError), let w := (s.tile c.tile).word (s.ctx c).pc
    let x := ((s.trialled c).ctx c).applyLater
    s.agenda = .issue c :: rest → (s.ctx c).pc < 8192 → (s.tile c.tile).badWords.contains (s.ctx c).pc = false →
    decodeMoves w = .error e → x.shadow = none →
    let refused (t : State) : Prop := trapEntered x (t.ctx c) ∧
      frec0Fields (t.ctx c).frec0 (s.ctx c).pc 0 false (!x.xfer.isEmpty) false
        (match e with | .illegal i => i | _ => 0) 1 ∧
      (e = .extension → (t.ctx c).frec1 = w.extractLsb' 192 64) ∧ (t.ctx c).frec2 = 0 ∧
      (t.ctx c).frec3 = x.bank.latencyMap ∧ onlyContext s t c
    (∃ t, step s = .next t ∧ (t = { s with agenda := rest } ∨ refused t)) ∧
    ((∀ k ∈ wordMoves (waitWord w), (∀ u r, k.src ≠ .res u r) ∧ ∀ u p, k.dst = .port u p → p.toNat < 3) →
      ∃ t, step s = .next t ∧ refused t)) ∧
  ∀ (m : MoveWord) (s : State) (c : Who),
    let x := s.ctx c
    let port (i : Nat) : Prop := causesPort (s.tile c.tile) c.ctx x (s.jobFor c).qx m i
    let early (i : Nat) : Prop := ∃ mv ∈ taken x (wordMoves m), mv.slot = i ∧ readsEarly x mv
    (∀ i, port i → (∀ j, j < i → ¬port j) → ∃ f1, s.verdict c m none = .decode i .port f1 []) ∧
    ((∀ i, ¬port i) → (∀ l, s.verdict c m none ≠ .wait l) →
      (∀ mv ∈ wordMoves m, ∀ file, aboveAllotment x mv = some file →
        (∀ k ∈ wordMoves m, k.slot < mv.slot → aboveAllotment x k = none) →
        s.verdict c m none = .decode mv.slot .regbound (BitVec.ofNat 64 (freeOf s c.tile file)) []) ∧
      ((∀ mv ∈ wordMoves m, aboveAllotment x mv = none) → ∀ i, early i → (∀ j, j < i → ¬early j) →
        ∃ f1, s.verdict c m none = .decode i .latency f1 []))

/-- (R65, R85, R86, R89) Every control transfer completes: its target is pending for the word's end and two delay words, an
active loop ends, and call and callr write g1 with W + 3. Nothing else changes, in this context or elsewhere. -/
def Obligations.ControlTransfers : Prop :=
  ∀ (i : Instr) (port : BitVec 6) (target : W64 → W64 → W64) (link : Bool), transferForm i = some (port, target, link) →
    ∀ s : State, ∃ t, exec i s = .next t ∧
      (∃ d, t.self.xfer = s.self.xfer ++ [d] ∧ d.left = 3 ∧ d.target = target (BitVec.ofNat 64 s.trig.word) s.opT64 ∧
        d.word = s.trig.word ∧ d.slot = s.trig.slot ∧ d.port = port ∧ d.t = s.opT64) ∧
      t.self.loop.active = false ∧
      (∀ n, t.self.readG n = if link = true ∧ n = 1 then BitVec.ofNat 64 s.trig.word + 3 else s.self.readG n) ∧
      { t.self with xfer := s.self.xfer, loop := s.self.loop, g := s.self.g } = s.self ∧ onlyContext s t s.trig.who

/-- (R28, R36, R65, R66, R88, R92) How a word ends, where it neither halts its context nor starts a loop: its stall count
starts; the next word is the next in address order, or the active loop's first while passes are left and its last word has
issued, or the target of the transfer whose delay words are over, if that is an address of the store.
(R65, R66) Where that target is no address of the store, the context issues no word there: once the selector takes it, FLT_XWORD is
raised, FREC1 holding the target, FREC2 T, and FREC0 the word and slot of the transfer. (The selector of R72 to R74 takes it at once where
no other context of its tile runs.)
(R88, R90) ctl.loop completes where its operand is in range, and at the end of its word, beside no transfer, runs the N
words after it for P passes, or skips them if P is 0. Out of range it faults with FLT_XWORD, FREC1 holding T.
Points that the rules leave open stand as the model reads them (log 11, and that no loop is active after P = 0: log 12). -/
def Obligations.StreamOrder : Prop :=
  (∀ (s : State) (c : Who) (rest : List Task), s.agenda = .wordEnd c :: rest → (s.ctx c).later = [] →
    (s.ctx c).halting = none → (s.ctx c).rfeReq = none → (s.ctx c).cont = [] → (s.ctx c).loopReq = none →
    let x := s.ctx c
    ∃ t, step s = .next t ∧ (t.ctx c).stall = x.curSc ∧ t.mem = s.mem ∧ (∀ d, d ≠ c → t.ctx d = s.ctx d) ∧
      ((∀ d ∈ x.xfer, 1 < d.left) → (t.ctx c).xfer = x.xfer.map (fun d => { d with left := d.left - 1 }) ∧
        (x.loop.active = false → (t.ctx c).pc = x.curWord + 1) ∧
        (x.loop.active = true → x.curWord ≠ x.loop.stop → (t.ctx c).pc = x.curWord + 1 ∧ (t.ctx c).loop = x.loop) ∧
        (x.loop.active = true → x.curWord = x.loop.stop → 1 < x.loop.left →
          (t.ctx c).pc = x.loop.start ∧ (t.ctx c).loop = { x.loop with left := x.loop.left - 1 }) ∧
        (x.loop.active = true → x.curWord = x.loop.stop → x.loop.left = 1 →
          (t.ctx c).pc = x.loop.stop + 1 ∧ (t.ctx c).loop.active = false)) ∧
      ∀ (d : Transfer) (ds : List Transfer), x.xfer = d :: ds → d.left = 1 → (∀ e ∈ ds, 1 < e.left) →
        let late := ds.map (fun e => { e with left := e.left - 1 })
        (d.target.toNat < 8192 → (t.ctx c).pc = d.target.toNat ∧ (t.ctx c).xfer = late) ∧
        (8192 ≤ d.target.toNat → (t.ctx c).xfer = { d with left := 0 } :: late)) ∧
  (∀ (s : State) (c : Who) (rest : List Task) (d : Transfer), s.agenda = .select c.tile :: rest → c ∈ whosOf c.tile →
    s.runs? c = true → (∀ e ∈ whosOf c.tile, e ≠ c → s.runs? e = false) → let x := s.ctx c
    x.exit = none → x.dbgHalt = false → x.woken = false → x.faults = [] → x.stall = 0 → x.idle = 0 → x.block = [] → x.cont = [] →
    x.shadow = none → x.xfer.find? (fun e => e.left == 0) = some d →
    let y := { ((s.trialled c).ctx c).applyLater with xfer := x.xfer.erase d }
    ∃ t, step s = .next t ∧ trapEntered y (t.ctx c) ∧
      frec0Fields (t.ctx c).frec0 (d.word % 8192) 0 false (!y.xfer.isEmpty) false (d.slot % 8) 1 ∧
      (t.ctx c).frec1 = d.target ∧ (t.ctx c).frec2 = d.t ∧ (t.ctx c).frec3 = y.bank.latencyMap ∧
      (∀ e, e.tile ≠ c.tile → t.ctx e = s.ctx e) ∧ t.mem = s.mem ∧ t.agenda = rest) ∧
  ((∀ s : State, let n := (s.opT64.extractLsb' 16 7).toNat
    let p := (s.opT64.extractLsb' 0 16).toNat
    (1 ≤ n → n ≤ 64 → s.opT64.extractLsb' 23 41 = 0 → s.trig.word + n ≤ 8191 →
      ∃ t, exec .ctlLoop s = .next t ∧ t.self.loopReq = some (s.trig.word, n, p) ∧
        { t.self with loopReq := s.self.loopReq } = s.self ∧ onlyContext s t s.trig.who) ∧
    ((n = 0 ∨ 64 < n ∨ s.opT64.extractLsb' 23 41 ≠ 0 ∨ 8191 < s.trig.word + n) → noneLate s = true → s.self.shadow = none →
      ∃ t, exec .ctlLoop s = .next t ∧ trapEntered s.self.applyLater t.self ∧ trapRecorded s t.self 0x01 0 s.opT64)) ∧
  ∀ (s : State) (c : Who) (rest : List Task) (w n p : Nat), s.agenda = .wordEnd c :: rest → (s.ctx c).later = [] →
    (s.ctx c).halting = none → (s.ctx c).rfeReq = none → (s.ctx c).cont = [] → (s.ctx c).loopReq = some (w, n, p) → (s.ctx c).xfer = [] →
    ∃ t, step s = .next t ∧
      (p = 0 → (t.ctx c).pc = w + n + 1 ∧ (t.ctx c).loop.active = false) ∧
      (0 < p → (t.ctx c).pc = w + 1 ∧ (t.ctx c).loop = { start := w + 1, stop := w + n, left := p, active := true }))

/-- (R91 to R96, R105, R379) The issue controls complete. yield asks the selector to pass the context over in the next cycle; halt
stops it after its word with T[15:0]; idle counts T[31:0]; prio, within the job's PRIO, lock, where it clears no bit that the
image's RELEASE does not name (R379), and check take effect after the word. Nothing else changes. FLT_PRIV answers a level above the job's PRIO, a
nonzero T[63:2] or a lock bit cleared that the image does not release, and leaves PRIO and LOCKMASK as they were; FLT_XWORD a
ctl.rfe with an empty trap shadow. FREC1 holds T.
Points that the rules leave open stand as the model reads them (log 11). -/
def Obligations.IssueControls : Prop :=
  (∀ s : State,
    (∃ t, exec .ctlYield s = .next t ∧ (t.tile s.trig.who.tile).yielded = some s.trig.who.ctx ∧ t.self = s.self ∧
      onlyContext s t s.trig.who) ∧
    (∃ t, exec .ctlHalt s = .next t ∧ t.self = { s.self with halting := some (s.opT64.extractLsb' 0 16) } ∧
      onlyContext s t s.trig.who) ∧
    (∃ t, exec .ctlIdle s = .next t ∧ t.self = { s.self with idle := (s.opT64.extractLsb' 0 32).toNat } ∧
      onlyContext s t s.trig.who) ∧
    (s.opT64.extractLsb' 2 62 = 0 → s.opT64.extractLsb' 0 2 ≤ (s.jobFor s.trig.who).prio →
      ∃ t, exec .ctlPrio s = .next t ∧ t.self.applyLater.prio = s.opT64.extractLsb' 0 2 ∧
        { t.self with later := s.self.later } = s.self ∧ onlyContext s t s.trig.who) ∧
    ((∀ u, u < 16 → s.self.lock.getLsbD u = true → (s.opT64 ||| 0x7C01).getLsbD u = false → s.self.release.getLsbD u = true) →
      ∃ t, exec .ctlLock s = .next t ∧ t.self.applyLater.lock = s.opT64.extractLsb' 0 16 ||| 0x7C01 ∧
        { t.self with later := s.self.later } = s.self ∧ onlyContext s t s.trig.who) ∧
    (∃ t, exec .ctlCheck s = .next t ∧ t.self.applyLater.check = s.opT64.getLsbD 0 ∧
      { t.self with later := s.self.later } = s.self ∧ onlyContext s t s.trig.who)) ∧
  (∀ s : State, noneLate s = true → s.self.shadow = none →
    (s.opT64.extractLsb' 2 62 ≠ 0 ∨ (s.jobFor s.trig.who).prio < s.opT64.extractLsb' 0 2 →
      ∃ t, exec .ctlPrio s = .next t ∧ trapEntered s.self.applyLater t.self ∧ trapRecorded s t.self 0x17 0 s.opT64) ∧
    ((∃ u, u < 16 ∧ s.self.lock.getLsbD u = true ∧ (s.opT64 ||| 0x7C01).getLsbD u = false ∧ s.self.release.getLsbD u = false) →
      ∃ t, exec .ctlLock s = .next t ∧ trapEntered s.self.applyLater t.self ∧ trapRecorded s t.self 0x17 0 s.opT64) ∧
    ∀ (i : Instr) (mode : Nat), rfeForm i = some mode →
      ∃ t, exec i s = .next t ∧ trapEntered s.self.applyLater t.self ∧ trapRecorded s t.self 0x01 0 s.opT64)

/-- (R70, R97) An allotment operation with T = 0 changes nothing. One that R97 allows, as the word's earlier ones leave the
counts, completes and takes effect after the word. Any other faults with FLT_REGBOUND, FREC1 holding the free registers. -/
def Obligations.Allotments : Prop :=
  ∀ (i : Instr) (vector grow : Bool), allotForm i = some (vector, grow) → ∀ s : State,
    let now := if vector then s.self.vcountNow else s.self.gcountNow
    let free := freeOf s s.trig.who.tile vector
    (s.opT64 = 0 → exec i s = .next s) ∧
    (∀ n, s.opT64 ≠ 0 → allotTo vector grow now free s.opT64.toInt = some n →
      ∃ t, exec i s = .next t ∧ (if vector then t.self.vcountNow else t.self.gcountNow) = n ∧
        { t.self with later := s.self.later } = s.self ∧ onlyContext s t s.trig.who) ∧
    (s.opT64 ≠ 0 → allotTo vector grow now free s.opT64.toInt = none → noneLate s = true → s.self.shadow = none →
      ∃ t, exec i s = .next t ∧ trapEntered s.self.applyLater t.self ∧
        trapRecorded s t.self 0x02 0 (BitVec.ofNat 64 free))

/-- (R98 to R103, R347) ctl.trap takes FLT_SWTRAP, and ctl.brk takes FLT_BREAK, or debug-halts its context after the word when
the host has enabled debugging for its job. INFO is T[15:0], and FREC1 and FREC2 hold T. sys.swap.ctx takes FLT_PRIV (R51).
(R104, R105, R121) ctl.rfe with a mode below 3 and an occupied trap shadow completes: the context returns at the end of the word,
with FREC2 and FREC3 as they stand at the trigger. (R90, R105) Then, unless the word halts its context, the trap shadow empties and
LOCKMASK, and the stream's own bank, loop and transfers, are restored. After a decode fault, retry issues the same word again; resume
and skip go on with the next. After a trigger fault, skip leaves the word's later triggers to start; retry leaves the faulting one to
start first, with FREC2 in lanes [63:0] of its operand; resume lets a trigger of fixed latency deliver FREC3. After a bad target,
resume and skip go on at W + 3. The triggers left to start do so one after another, each as soon as it can. Memory is unchanged.
Points that the rules leave open stand as the model reads them (log 12, log 26). -/
def Obligations.TrapsAndReturns : Prop :=
  (∀ s : State,
    (noneLate s = true → s.self.shadow = none →
      ∃ t, exec .ctlTrap s = .next t ∧ trapEntered s.self.applyLater t.self ∧
        trapRecorded s t.self 0x14 (s.opT64.extractLsb' 0 16) s.opT64 ∧ onlyContext s t s.trig.who) ∧
    (noneLate s = true → s.self.shadow = none → (s.jobFor s.trig.who).debug = false →
      ∃ t, exec .ctlBrk s = .next t ∧ trapEntered s.self.applyLater t.self ∧
        trapRecorded s t.self 0x19 (s.opT64.extractLsb' 0 16) s.opT64 ∧ onlyContext s t s.trig.who) ∧
    ((s.jobFor s.trig.who).debug = true →
      ∃ t, exec .ctlBrk s = .next t ∧ t.self = { s.self with dbgHalt := true } ∧ onlyContext s t s.trig.who) ∧
    (noneLate s = true → s.self.shadow = none →
      ∃ t, exec .swapCtx s = .next t ∧ trapEntered s.self.applyLater t.self ∧ trapRecorded s t.self 0x17 0 s.opT64 ∧
        onlyContext s t s.trig.who)) ∧
  (∀ (i : Instr) (mode : Nat), rfeForm i = some mode → ∀ s : State, s.opT64.toNat < 3 → s.self.shadow ≠ none →
    ∃ t, exec i s = .next t ∧ t.self = { s.self with rfeReq := some (mode, s.self.frec2, s.self.frec3) } ∧
      onlyContext s t s.trig.who) ∧
  (∀ (s : State) (c : Who) (rest : List Task) (mode : Nat) (f2 f3 : W64) (sh : Shadow), s.agenda = .wordEnd c :: rest →
    (s.ctx c).rfeReq = some (mode, f2, f3) → (s.ctx c).cont = [] → (s.ctx c).shadow = some sh →
    (∀ e, (s.ctx c).halting = some e → ∃ t, step s = .next t ∧ (t.ctx c).exit = some e ∧ t.mem = s.mem) ∧
    ((s.ctx c).halting = none → ∃ t, step s = .next t ∧ (t.ctx c).shadow = none ∧ (t.ctx c).lock = sh.lock ∧ t.mem = s.mem ∧
      (sh.ret = .decode → (t.ctx c).bank = sh.bank ∧ t.agenda = rest ∧
        (mode = 1 → (t.ctx c).pc = sh.pc ∧ (t.ctx c).loop = sh.loop ∧ (t.ctx c).xfer = sh.xfer) ∧
        (mode ≠ 1 → sh.xfer = [] → sh.loop.active = false → sh.loopReq = none → (t.ctx c).pc = sh.pc + 1)) ∧
      (∀ tr j later, sh.ret = .trigger tr j later → t.agenda = .cont c :: rest ∧ (t.ctx c).loop = sh.loop ∧ (t.ctx c).xfer = sh.xfer ∧
        (mode = 2 → (t.ctx c).bank = sh.bank ∧ (t.ctx c).cont = later ++ sh.cont) ∧
        (mode = 1 → (t.ctx c).bank = sh.bank ∧ ∃ tr' j', (t.ctx c).cont = .run tr' j' :: later ++ sh.cont ∧
          tr'.slot = tr.slot ∧ lo64 tr'.t = f2) ∧
        (mode = 0 → tr.who = c → (t.ctx c).cont = later ++ sh.cont ∧
          ∀ l, delivery j = .fixed l → ∃ r ∈ (t.ctx c).bank.fly, r.unit = unitOf j ∧ r.left = startsWith sh.bank (unitOf j) sh.cyc l ∧
            r.res = rec64 f3)) ∧
      (∀ d, sh.ret = .target d → mode ≠ 1 → (t.ctx c).pc = d.word + 3))) ∧
  ∀ (s : State) (c : Who) (rest : List Task) (k : Task) (ks : List Task), s.agenda = .cont c :: rest → (s.ctx c).cont = k :: ks →
    ∃ t, step s = .next t ∧ t.mem = s.mem ∧
      (({ s with agenda := rest } : State).taskWaits c k = true → t = { s with agenda := rest }) ∧
      (({ s with agenda := rest } : State).taskWaits c k = false → t.agenda = k :: .cont c :: rest ∧
        t.ctx c = { s.ctx c with cont := ks } ∧ ∀ d, d ≠ c → t.ctx d = s.ctx d)

/-- (R12, R13, R15, R121 to R124) rd, rdc and frec complete for every number that names something, and deliver that register or
counter as it stands at the trigger, with latency 2. A number that names nothing faults with FLT_PRIV. COORD of a tile at logical die d, row y and
column x, whose stage is that of the last valid stage entry of the launch that holds it (R333), and PHYS, hold their fields at their bits.
Points that the rules leave open stand as the model reads them (log 11). -/
def Obligations.SystemReads : Prop :=
  (∀ (i : Instr), (i = .sysRd ∨ i = .sysRdc ∨ i = .sysFrec) → ∀ s : State,
    (∀ v, sysForm s i = some v → exec i s = .next (s.startFixed 15 2 (pairRec (v, 0)) Effects.none)) ∧
    (sysForm s i = none → noneLate s = true → s.self.shadow = none →
      ∃ t, exec i s = .next t ∧ trapEntered s.self.applyLater t.self ∧ trapRecorded s t.self 0x17 0 s.opT64)) ∧
  (∀ (j : Job) (tile d y x : Nat), tile < 576 → j.logical tile = some (d, y, x) → d < 4 → y < 12 → x < 12 →
    let v := coordOf j tile
    (v.extractLsb' 0 4).toNat = x ∧ (v.extractLsb' 4 4).toNat = y ∧ (v.extractLsb' 8 2).toNat = d ∧
      v.extractLsb' 10 10 = 0 ∧ (v.extractLsb' 20 3).toNat = ringPos tile ∧ (v.extractLsb' 23 5).toNat = clusterNo tile ∧
      v.extractLsb' 32 32 = 0 ∧
      let holds (e : BitVec 23) : Prop := e.getLsbD 22 = true ∧ (e.extractLsb' 16 2).toNat = d ∧ (e.extractLsb' 12 4).toNat ≤ y ∧
        y ≤ (e.extractLsb' 8 4).toNat ∧ (e.extractLsb' 4 4).toNat ≤ x ∧ x ≤ (e.extractLsb' 0 4).toNat
      (∀ (n : Nat) (e : BitVec 23), j.stages[n]? = some e → holds e → (∀ f ∈ j.stages.drop (n + 1), ¬ holds f) →
        v.extractLsb' 28 4 = e.extractLsb' 18 4) ∧
      ((∀ e ∈ j.stages, ¬ holds e) → v.extractLsb' 28 4 = 0) ∧
      let p := physOf tile
      (p.extractLsb' 0 4).toNat = tile % 12 ∧ (p.extractLsb' 4 4).toNat = tile % 144 / 12 ∧
        (p.extractLsb' 8 2).toNat = tile / 144 ∧ p.extractLsb' 10 54 = 0)

/-- (R101, R103, R121 to R125) wr completes for every register that a job may write. After its word the register reads the value
written, reserved bits zero, and every other register reads as before. Any other number faults with FLT_PRIV. Each form of
sys.pmu completes unless T[1] and T[2] are both set, which faults with FLT_PRIV: T[0] sets the tile's counters to zero, then
T[1] freezes them or T[2] lets them run; the contexts and memory are unchanged.
Points that the rules leave open stand as the model reads them (log 11). -/
def Obligations.SystemWrites : Prop :=
  (∀ s : State, let n := s.opT64.toNat
    (∀ v, s.self.later = [] → sysWritten n (s.opPort64 15 0) = some v →
      ∃ t, exec .sysWr s = .next t ∧ { t.self with later := [] } = s.self ∧ onlyContext s t s.trig.who ∧
        ∀ k, sysValue (t.updCtx s.trig.who Ctx.applyLater) s.trig.who k =
          if k = n then some v else sysValue s s.trig.who k) ∧
    (sysWritten n (s.opPort64 15 0) = none → noneLate s = true → s.self.shadow = none →
      ∃ t, exec .sysWr s = .next t ∧ trapEntered s.self.applyLater t.self ∧ trapRecorded s t.self 0x17 0 s.opT64)) ∧
  (∀ (i : Instr), (i = .pmuZero ∨ i = .pmuFreeze ∨ i = .pmuRun) → ∀ s : State, let tile := s.trig.who.tile
    (¬(s.opT64.getLsbD 1 = true ∧ s.opT64.getLsbD 2 = true) → ∃ t, exec i s = .next t ∧
      (∀ n, (t.tile tile).ctrs.get 0 n = if s.opT64.getLsbD 0 then 0 else (s.tile tile).ctrs.get 0 n) ∧
      ((t.tile tile).frozen = (s.opT64.getLsbD 1 || !s.opT64.getLsbD 2 && (s.tile tile).frozen)) ∧
      (∀ c, t.ctx c = s.ctx c) ∧ t.mem = s.mem) ∧
    (s.opT64.getLsbD 1 = true → s.opT64.getLsbD 2 = true → noneLate s = true → s.self.shadow = none →
      ∃ t, exec i s = .next t ∧ trapEntered s.self.applyLater t.self ∧ trapRecorded s t.self 0x17 0 s.opT64))

/-- (R16, R114, R115, R117) A local load that starts in its place: with none of the conditions of R114 against it, it completes
and delivers, at latency 5, what its form makes of the bytes at its address as they stand at the trigger; otherwise the first
condition in order faults, FREC1 and FREC2 holding the address. Memory is unchanged. (R165, R170) Behind an unfinished fence, strong
load, atomic or local access of its context it waits.
(R114, R118) push and pop, with a15 as the stack pointer. push moves a15 down by 8 and stores T at it, in the eight bytes
there and in no other byte; pop delivers the doubleword at a15, at latency 5, and moves a15 up by 8; a15[63:48] stays, and so
does every other pointer, scalar and vector register of every context. Out of order, R114 faults, push against SLIM too.
Points that the rules leave open stand as the model reads them (log 10, log 11, log 27). -/
def Obligations.LocalLoadsAndStack : Prop :=
  (∀ (u : MemUnit) (f : LoadForm) (s : State), startsNow s u.num → let p := s.opT64
    let n := (loadedBy f 0).1
    let check := localCheck s s.trig.who p n none true
    (check = none → nothingHolds s → exec (.localLoad u f) s = .next (s.startFixed u.num 5
      { out := (loadedBy f (Memory.readLe s.mem (localLoc s s.trig.who p) n)).2, aux := 0, stat := 0 } Effects.none)) ∧
    (check = none → somethingHolds s → ∃ t, exec (.localLoad u f) s = .next t ∧ putOff s t (.localLoad u f)) ∧
    ∀ code, check = some code → s.self.shadow = none → ∃ t, exec (.localLoad u f) s = .next t ∧
      trapEntered s.self.applyLater t.self ∧ trapRecorded s t.self code 0 p ∧ onlyContext s t s.trig.who) ∧
  (∀ s : State, startsNow s 5 → let c := s.trig.who
    let a := s.self.readA 15
    let np : W64 := (a.extractLsb' 48 16 ++ (a.extractLsb' 0 48 - 8#48) : BitVec 64)
    let up : W64 := (a.extractLsb' 48 16 ++ (a.extractLsb' 0 48 + 8#48) : BitVec 64)
    let pushCheck := localCheck s c np 8 (some s.self.slim) false
    let popCheck := localCheck s c a 8 none true
    (pushCheck = none → nothingHolds s → ∃ t, exec .push s = .next t ∧
      (∀ n, t.self.readA n = if n = 15 then np else s.self.readA n) ∧
      (∀ b, b < localLoc s c np ∨ localLoc s c np + 8 ≤ b → Memory.read t.mem b = Memory.read s.mem b) ∧
      (s.memOk → t.memOk ∧ Memory.readLe t.mem (localLoc s c np) 8 = s.opT64.toNat) ∧
      ∀ d, (t.ctx d).g = (s.ctx d).g ∧ (t.ctx d).v = (s.ctx d).v ∧ (t.ctx d).f = (s.ctx d).f ∧ (d ≠ c → (t.ctx d).a = (s.ctx d).a)) ∧
    (∀ code, pushCheck = some code → s.self.shadow = none → ∃ t, exec .push s = .next t ∧
      trapEntered s.self.applyLater t.self ∧ trapRecorded s t.self code 0 np ∧ onlyContext s t c) ∧
    (popCheck = none → nothingHolds s → ∃ t, exec .pop s = .next t ∧ (∀ n, t.self.readA n = if n = 15 then up else s.self.readA n) ∧
      t.self.bank = (s.startFixed 5 5 { out := BitVec.ofNat 512 (Memory.readLe s.mem (localLoc s c a) 8), aux := 0, stat := 0 }
        Effects.none).self.bank ∧
      { t.self with a := s.self.a, bank := s.self.bank } = s.self ∧ (∀ d, d ≠ c → t.ctx d = s.ctx d) ∧ t.mem = s.mem) ∧
    ((pushCheck = none → somethingHolds s → ∃ t, exec .push s = .next t ∧ putOff s t .push) ∧
      (popCheck = none → somethingHolds s → ∃ t, exec .pop s = .next t ∧ putOff s t .pop)) ∧
    ∀ code, popCheck = some code → s.self.shadow = none → ∃ t, exec .pop s = .next t ∧
      trapEntered s.self.applyLater t.self ∧ trapRecorded s t.self code 0 a ∧ onlyContext s t c)

/-- (R116, R117, R156, R157, R159) A store, strong store, atomic or reduction to a local address performs at its trigger, once
every earlier operation of its context is over and what its word acquires is complete; o3 means something to an atomic alone, whose bit 8
would send it to another package (R325): it stores its number at the address, in its own bytes and in no other byte of
memory; an atomic's record, the number that stood there, is on its way to ldq. Registers, flags and pointers of every
context stay.
Points that the rules leave open stand as the model reads them (log 11). -/
def Obligations.LocalStoresAndAtomics : Prop :=
  ∀ (i : Instr) (u n : Nat) (f : W512 → W64 → W64 → Nat), storeForm i = some (u, n, f) → ∀ s : State, startsNow s u →
    allPerformed s → s.memOk → ((atomicOut i 0).isSome = true → (s.opPort64 u 2).getLsbD 8 = false) → let c := s.trig.who
    let loc := localLoc s c s.opT64
    let old := Memory.readLe s.mem loc n
    localCheck s c s.opT64 n none (atomicOut i 0).isSome = none →
    ∃ t, exec i s = .next t ∧ t.memOk ∧
      (∀ b, b < loc ∨ loc + n ≤ b → Memory.read t.mem b = Memory.read s.mem b) ∧
      Memory.readLe t.mem loc n = f (s.opPort u 0) (BitVec.ofNat 64 old) (s.opPort64 u 1) % 2 ^ (8 * n) ∧
      (∀ v, atomicOut i (BitVec.ofNat 64 old) = some v → ∃ o ∈ t.ops, o.id = s.fresh ∧ o.st = .performed ∧
        o.res = { out := v, aux := 0, stat := 0 }) ∧
      ∀ d, (t.ctx d).g = (s.ctx d).g ∧ (t.ctx d).v = (s.ctx d).v ∧ (t.ctx d).f = (s.ctx d).f ∧ (t.ctx d).a = (s.ctx d).a

/-- (R120, R133, R152, R155 to R157, R159, R162, R325) What is checked at the trigger of a queued load, store, strong access,
atomic, reduction, ld.f, touch or cross-package atomic, and in which order: FLT_NONCANON, of ld.f also for its format and for every
byte that it reads, and of a cross-package atomic for a paged address or a set bit of o3[63:9]; FLT_ALIGN, but for touch, and of ld.f
by its elements; FLT_TILEMAP, of a cross-package atomic by its member alone; and for a local address, but for touch, FLT_OWNER. FREC1
and FREC2 hold the address. A .nf form goes on where only FLT_TILEMAP stands against it.
Points that the rules leave open stand as the model reads them (log 11). -/
def Obligations.QueuedChecks : Prop :=
  ∀ (i : Instr) (u : Nat) (k : MemKind), queuedForm i = some (u, k) →
    ∀ s : State, startsNow s u → s.self.shadow = none →
      ∀ code, queuedCheck s s.trig.who k s.opT64 (s.opPort64 u 1) (s.opPort64 u 2) = some code →
        (code = 0x0B → k.suppresses = false) →
      ∃ t, exec i s = .next t ∧ trapEntered s.self.applyLater t.self ∧ trapRecorded s t.self code 0 s.opT64 ∧
        onlyContext s t s.trig.who

/-- (R48, R116, R120, R152 to R162, R325, R354) A queued form that meets no fault at its trigger and does not name its own tile, or
is a cross-package atomic, completes: it is outstanding, with its operands copied as they stand at the trigger, and a record of it has its place in ldq
if it delivers one. Memory, and every context but for that place and the tag of an atomic, is unchanged. (R170) It waits in its place
while a wait, lock, pop, phase or drain of its word has still to complete. -/
def Obligations.QueuedFormsStart : Prop :=
  ∀ (i : Instr) (u : Nat) (k : MemKind), queuedForm i = some (u, k) → ∀ s : State, startsNow s u →
    queuedCheck s s.trig.who k s.opT64 (s.opPort64 u 1) (s.opPort64 u 2) = none →
    (¬acquiresNothing s → ∃ t, exec i s = .next t ∧ putOff s t i) ∧
    (acquiresNothing s → (namesOwnTile s s.trig.who s.opT64 = false ∨ (∃ op w nc, k = .amo op w nc) ∧ (s.opPort64 u 2).getLsbD 8 = true) → (k = .touch → s.opT64.extractLsb' 40 8 ≠ 0xFF) →
    ∃ t o, exec i s = .next t ∧ t.ops = s.ops ++ [o] ∧ o.id = s.fresh ∧ o.who = s.trig.who ∧ o.kind = k ∧ o.unit = u ∧
      o.addr = s.opT64 ∧ o.o1 = s.opPort u 0 ∧ o.o2 = s.opPort64 u 1 ∧ o.o3 = s.opPort64 u 2 ∧ o.st = .waiting ∧ o.word = s.trig.word ∧
      o.slot = s.trig.slot ∧
      t.self.bank.outst = s.self.bank.outst ++ (if delivers k then [{ key := 16 + u, id := s.fresh, res := none }] else []) ∧
      { t.self with bank := s.self.bank, seq := s.self.seq } = s.self ∧ t.self.bank.fly = s.self.bank.fly ∧
      (∀ d, d ≠ s.trig.who → t.ctx d = s.ctx d) ∧ t.mem = s.mem)

/-- (R84, R119, R120, R135, R136) The pointer forms complete, fault in nothing, and check no pointer. lea adds T to the
address, modulo 2^48, and keeps bits [63:48]; pset delivers the old walk descriptor of a(o2[3:0]) and installs T as it lands;
pinc delivers the walked pointer, which becomes a(o2[3:0]) as it lands; without a descriptor, or outside tile space, that is
lea. pref changes nothing but the lines in its die's memory cache, and outside paged memory nothing at all: where the address translates
to a location, the line of that comes to stand there (R148; that its translation leaves the tables and the TLBs as they are: log 13).
Nor does touch of an address in tile space that passes its checks change anything, once nothing is left that its word acquires.
(R136) A walk in tile space stays inside the walk box, whatever it starts from, and moves the offset only within its span, so that no
carry leaves it. -/
def Obligations.PointerForms : Prop :=
  (∀ s : State, let n := (s.opPort64 5 1).toNat % 16
    let a := s.self.readA n
    let plus (p : W64) : W64 := (p.extractLsb' 48 16 ++ (p.extractLsb' 0 48 + s.opT64.extractLsb' 0 48) : BitVec 64)
    exec .lea s = .next (s.startFixed 5 1 (pairRec (plus (s.opPort64 5 0), 0)) Effects.none) ∧
    (∃ e : Effects, exec .pset s = .next (s.startFixed 5 1 (pairRec (s.self.wd.get 0 n, 0)) e) ∧
      ∀ (x : Ctx) (k : Nat), (x.applyEffects e).wd.get 0 k = (if k = n then s.opT64 else x.wd.get 0 k) ∧
        (x.applyEffects e).readA k = x.readA k) ∧
    (∃ (p : W64) (e : Effects), exec .pinc s = .next (s.startFixed 5 1 (pairRec (p, 0)) e) ∧
      (s.self.wd.get 0 n = 0 ∨ a.extractLsb' 40 8 ≠ 0xFF → p = plus a) ∧ p.extractLsb' 48 16 = a.extractLsb' 48 16 ∧
      ∀ (x : Ctx) (k : Nat), (x.applyEffects e).readA k = (if k = n then p else x.readA k) ∧
        (x.applyEffects e).wd = x.wd) ∧
    ((notCanonical s.opT64 = true ∨ s.opT64.extractLsb' 40 8 = 0xFF) → exec .pref s = .next s) ∧
    (∃ t, exec .pref s = .next t ∧ { t with cache := s.cache, pfIn := s.pfIn } = s ∧
      ∀ loc leaf pa : Nat, (∀ h ∈ s.hlines, h.mask = 0) → notCanonical s.opT64 = false → s.opT64.extractLsb' 40 8 ≠ 0xFF →
        (s.translate s.trig.who.tile (s.jobFor s.trig.who).asid.toNat (s.opT64.extractLsb' 0 48).toNat .read true false).2 =
          .ok loc leaf pa →
        loc / 256 ∈ t.cache.get [] (cacheSet (loc / 256))) ∧
    (startsNow s 5 → acquiresNothing s → s.opT64.extractLsb' 40 8 = 0xFF →
      queuedCheck s s.trig.who .touch s.opT64 (s.opPort64 5 1) (s.opPort64 5 2) = none → exec .touch s = .next s)) ∧
  (∀ (dd jh jw : Nat) (a wd t : W64), 1 ≤ dd → dd ≤ 4 → 1 ≤ jh → jh ≤ 12 → 1 ≤ jw → jw ≤ 12 → wd ≠ 0 →
    a.extractLsb' 40 8 = 0xFF → let p := walk (dd, jh, jw) a wd t
    let s := min (max (wd.extractLsb' 0 5).toNat 6) 20
    p.extractLsb' 48 16 = a.extractLsb' 48 16 ∧ p.extractLsb' 40 8 = 0xFF ∧ p.extractLsb' 20 10 = a.extractLsb' 20 10 ∧
      (p.extractLsb' 38 2).toNat < dd ∧ (p.extractLsb' 34 4).toNat < jh ∧ (p.extractLsb' 30 4).toNat < jw ∧
      (p.extractLsb' 0 20).toNat / 2 ^ s = (a.extractLsb' 0 20).toNat / 2 ^ s ∧
      ((p.extractLsb' 0 20).toNat : Int) % 2 ^ s = ((a.extractLsb' 0 20).toNat + t.toInt) % 2 ^ s)

/-- (R117, R150, R151, R165, R166, R170) fence, drain and own complete. A fence of a scope up to 5 completes at once if every earlier
operation has performed there, or stays outstanding; a drain lets its context go on at once, or blocks it; own gives the
swatch T[7:0] of the job's window the owner T[9:8] and leaves every other swatch, every context and memory; it waits while the swatch
belongs to an engine that has an operation pending in it. Each waits while its word has still something to acquire. A scope above 5,
and T[63:10] ≠ 0 for own, fault with FLT_XWORD, and a swatch outside the window with FLT_TILEMAP.
Points that the rules leave open stand as the model reads them (log 11, log 27). -/
def Obligations.FenceDrainOwn : Prop :=
  ∀ s : State, startsNow s 6 → let c := s.trig.who
    let j := s.jobFor c
    let sw := (s.opT64.extractLsb' 0 8).toNat
    (¬acquiresNothing s → (s.opT64.toNat ≤ 5 → ∃ t, exec .fence s = .next t ∧ putOff s t .fence) ∧
      (∃ t, exec .drain s = .next t ∧ putOff s t .drain) ∧
      (s.opT64.toNat < 1024 → sw < j.swcnt → ∃ t, exec .own s = .next t ∧ putOff s t .own)) ∧
    (acquiresNothing s → s.opT64.toNat ≤ 5 → s.fenced c s.self.job s.fresh s.opT64.toNat s.self.shadow.isSome = true →
      exec .fence s = .next s) ∧
    (acquiresNothing s → s.opT64.toNat ≤ 5 → s.fenced c s.self.job s.fresh s.opT64.toNat s.self.shadow.isSome = false → ∃ t o, exec .fence s = .next t ∧
      t.ops = s.ops ++ [o] ∧ o.kind = .fence s.opT64.toNat ∧ o.who = c ∧ o.id = s.fresh ∧ (∀ d, t.ctx d = s.ctx d) ∧ t.mem = s.mem) ∧
    (acquiresNothing s → s.drained c = true → exec .drain s = .next s) ∧
    (acquiresNothing s → s.drained c = false → ∃ t, exec .drain s = .next t ∧ .drain ∈ t.self.block ∧
      { t.self with block := s.self.block } = s.self ∧ onlyContext s t c) ∧
    (s.opT64.toNat < 1024 → sw < j.swcnt → j.swbase + sw < 256 → (s.tile c.tile).owner.get 0 (j.swbase + sw) ≠ 0 →
      s.swatchBusy c.tile (j.swbase + sw) = true → ∃ t, exec .own s = .next t ∧ putOff s t .own) ∧
    (acquiresNothing s → s.opT64.toNat < 1024 → sw < j.swcnt → j.swbase + sw < 256 →
      ((s.tile c.tile).owner.get 0 (j.swbase + sw) = 0 ∨ s.swatchBusy c.tile (j.swbase + sw) = false) → ∃ t, exec .own s = .next t ∧
      (∀ n, (t.tile c.tile).owner.get 0 n = if n = j.swbase + sw then s.opT64.extractLsb' 8 2 else (s.tile c.tile).owner.get 0 n) ∧
      (∀ d, t.ctx d = s.ctx d) ∧ t.mem = s.mem) ∧
    (s.self.shadow = none →
      (5 < s.opT64.toNat → ∃ t, exec .fence s = .next t ∧ trapRecorded s t.self 0x01 0 s.opT64) ∧
      (1024 ≤ s.opT64.toNat → ∃ t, exec .own s = .next t ∧ trapRecorded s t.self 0x01 0 s.opT64) ∧
      (s.opT64.toNat < 1024 → j.swcnt ≤ sw → ∃ t, exec .own s = .next t ∧ trapRecorded s t.self 0x0B 0 s.opT64))

/-- (R218 to R223, R231, R355) The lane forms complete. Lane j of `out` is what the row of the form gives for lane j of o1, T and o3,
in the lane format of the unit at the trigger; under `.mm`, where bit j of o2 is 0, it is lane j of o3. The flags in `stat`
and for FFLAGS are those of the lanes that the mask takes in, and of no other lane. vfmt (R218) sets the lane format, and faults with
FLT_XWORD for an operand above 5, FREC1 holding T (R355 as log 11 reads it). -/
def Obligations.VectorLaneForms : Prop :=
  (∀ (i : Instr) (u : VecUnit) (lat : Nat) (k : MaskMode) (fp : Fmt → RMode → Nat → Nat → Nat → FRes)
      (int : Int → Int → Int → Int), laneForm i = some (u, lat, k, fp, int) → ∀ s : State,
    let lf := unitLanes s u
    let r (j : Nat) := laneResult lf (RMode.ofFrm s.self.frm) fp int (lane (s.opPort u.num 0) lf.1 j) (lane s.opT lf.1 j)
      (lane (s.opPort u.num 2) lf.1 j)
    let on (j : Nat) : Prop := k = .plain ∨ (s.opPort u.num 1).getLsbD j = true
    ∃ (out : W512) (ff : BitVec 5), startsVec i s u.num lat out 0 ff ∧
      (∀ j, j < 512 / lf.1 → (on j ∨ k = .ma → lane out lf.1 j = (r j).bits % 2 ^ lf.1) ∧
        (¬ on j → k = .mm → lane out lf.1 j = lane (s.opPort u.num 2) lf.1 j)) ∧
      ∀ n, n < 5 → (ff.getLsbD n = true ↔ ∃ j, j < 512 / lf.1 ∧ on j ∧ (r j).ff.getLsbD n = true)) ∧
  ∀ (u : VecUnit) (s : State),
    (s.opT64.toNat < 6 → exec (.vecVfmt u) s = .next (s.updSelf fun x => { x with bank := match u with
      | .veca => { x.bank with lfA := s.opT64.extractLsb' 0 3 }
      | .vecb => { x.bank with lfB := s.opT64.extractLsb' 0 3 } })) ∧
    (6 ≤ s.opT64.toNat → traps (.vecVfmt u) s 0x01 0 s.opT64)

/-- (R224 to R227, R229) The comparisons, and the forms that move bits or compute on masks and integer lanes, complete: a
comparison gives bit j of `out` for lane j, zero above, with the flags of its lanes; a move gives each lane of its row without
a flag; vdot4 adds to each signed word of o3 the four products of its bytes; a mask form gives its row. -/
def Obligations.VectorBitForms : Prop :=
  (∀ (u : VecUnit) (c : Cmp) (s : State), let lf := unitLanes s u
    let r (j : Nat) := cmpLanes c lf (lane (s.opPort u.num 0) lf.1 j) (lane s.opT lf.1 j)
    ∃ (out : W512) (ff : BitVec 5), startsVec (.vcmp u c) s u.num 3 out 0 ff ∧
      (∀ j, j < 512 → out.getLsbD j = (decide (j < 512 / lf.1) && (r j).bits == 1)) ∧
      ∀ n, n < 5 → (ff.getLsbD n = true ↔ ∃ j, j < 512 / lf.1 ∧ (r j).ff.getLsbD n = true)) ∧
  (∀ (i : Instr) (u : VecUnit) (lat : Nat) (f : Nat → Nat → W512 → W512 → W512 → Nat → Nat), moveForm i = some (u, lat, f) →
    ∀ s : State, let w := (unitLanes s u).1
    ∃ out : W512, startsVec i s u.num lat out 0 0 ∧
      ∀ j, j < 512 / w → lane out w j = f (512 / w) w (s.opPort u.num 0) s.opT (s.opPort u.num 1) j) ∧
  (∀ (u : VecUnit) (s : State), ∃ out : W512, startsVec (.vdot4 u) s u.num 4 out 0 0 ∧ ∀ j, j < 16 →
    let p (t : Nat) : W32 := BitVec.ofInt 32 (asInt 8 (lane (s.opPort u.num 0) 8 (4 * j + t)) * asInt 8 (lane s.opT 8 (4 * j + t)))
    out.extractLsb' (32 * j) 32 = (s.opPort u.num 2).extractLsb' (32 * j) 32 + p 0 + p 1 + p 2 + p 3) ∧
  ∀ (i : Instr) (u : VecUnit) (f : W512 → W512 → Nat → W512), maskForm i = some (u, f) → ∀ s : State,
    startsVec i s u.num 3 (f (s.opPort u.num 0) s.opT (512 / (unitLanes s u).1)) 0 0

/-- (R216, R223, R228, R230) The reductions complete: on floating-point lanes the pairwise tree over the lanes widened to FP32,
with the flags of every lane and node; on INT8 lanes the exact sum, maximum or minimum. The functions complete on
floating-point lanes: a lane that the table of R230 settles, among them all of vdiv, vrcp and vsqrt, holds its result; another holds the
exact value rounded once, by R203, R204 and R207, where 2^b and log2 b stand to 100 binary places or more in place of the exact value
(log 15). Each flag of the record is raised where some lane raises it. On INT8 lanes they fault with FLT_ENGINE, INFO 6.
Points that the rules leave open stand as the model reads them (log 15, and FREC1 = T of FLT_ENGINE: log 11). -/
def Obligations.VectorReductionsAndFunctions : Prop :=
  (∀ (i : Instr) (u : VecUnit) (node : RMode → Nat → Nat → FRes) (int : Int → Int → Int), redForm i = some (u, node, int) →
    ∀ s : State, let lf := unitLanes s u
    let m := RMode.ofFrm s.self.frm
    (∀ f, lf.2 = some f →
      let r := pairwise (node m) (fun j => (f.val (lane s.opT lf.1 j)).into .fp32 m false) (Nat.log2 (512 / lf.1)) 0
      startsVec i s u.num 5 (BitVec.ofNat 512 r.bits) 0 r.ff) ∧
    (lf.2 = none → startsVec i s u.num 5 ((BitVec.ofInt 64
      ((List.range 63).foldl (fun x j => int x (asInt 8 (lane s.opT 8 (j + 1)))) (asInt 8 (lane s.opT 8 0)))).zeroExtend 512) 0 0)) ∧
  ∀ (i : Instr) (u : VecUnit) (fn : Fmt → RMode → Nat → Nat → Option FRes), funcForm i = some (u, fn) → ∀ s : State,
    let lf := unitLanes s u
    (∀ f, lf.2 = some f → ∃ (out : W512) (ff : BitVec 5) (r : Nat → FRes), startsVec i s u.num 10 out 0 ff ∧
      (∀ j, j < 512 / lf.1 → lane out lf.1 j = (r j).bits % 2 ^ lf.1 ∧
        match fn f (RMode.ofFrm s.self.frm) (lane (s.opPort u.num 0) lf.1 j) (lane s.opT lf.1 j) with
        | some x => r j = x
        | none => ∃ (neg : Bool) (x : ℝ), 0 ≤ x ∧ funcNear i ((f.val (lane s.opT lf.1 j)).rat : ℝ) (if neg then -x else x) ∧
            f.rounded (RMode.ofFrm s.self.frm) false neg x (r j)) ∧
      ∀ n, n < 5 → (ff.getLsbD n = true ↔ ∃ j, j < 512 / lf.1 ∧ (r j).ff.getLsbD n = true)) ∧
    (lf.2 = none → traps i s 0x16 6 s.opT64)

/-- (R199, R206, R232 to R235) The pack, unpack, i2f and f2i forms complete: each lane of `out`, and of an unpack form's `aux`,
is the value of its source lane in the destination format, rounded as the form says. The flags are those of the lanes.
Points that the rules leave open stand as the model reads them (log 28). -/
def Obligations.NarrowingAndWidening : Prop :=
  (∀ (i : Instr) (src dst : Fmt) (p : PackMode), packForm i = some (src, dst, p) → ∀ s : State,
    let w := fmtWidth dst
    let r (j : Nat) := packed p src dst (RMode.ofFrm s.self.frm) (laneOfTwo (s.opPort 9 0) s.opT (fmtWidth src) j)
    ∃ (out : W512) (ff : BitVec 5), startsVec i s 9 4 out 0 ff ∧ (∀ j, j < 512 / w → lane out w j = (r j).bits) ∧
      ∀ n, n < 5 → (ff.getLsbD n = true ↔ ∃ j, j < 512 / w ∧ (r j).ff.getLsbD n = true)) ∧
  (∀ (i : Instr) (src dst : Fmt), unpackForm i = some (src, dst) → ∀ s : State,
    let w := fmtWidth dst
    let r (j : Nat) := (src.val (lane s.opT (fmtWidth src) j)).into dst .rne false
    ∃ (out aux : W512) (ff : BitVec 5), startsVec i s 9 4 out aux ff ∧
      (∀ j, j < 512 / w → lane out w j = (r j).bits ∧ lane aux w j = (r (j + 512 / w)).bits) ∧
      (ff = 0 ∨ ff = 16) ∧ (ff = 16 ↔ ∃ j, j < 512 / fmtWidth src ∧ (src.val (lane s.opT (fmtWidth src) j)).isSnan = true)) ∧
  ∀ (i : Instr) (s : State),
    let m := RMode.ofFrm s.self.frm
    let r (j : Nat) : FRes :=
      if i = .cvtI2f then (Val.fin (asInt 32 (lane s.opT 32 j) < 0) (asInt 32 (lane s.opT 32 j)).natAbs 0).into .fp32 m false
      else
        let c := (Fmt.fp32.val (lane s.opT 32 j)).toInt (-(2 ^ 31)) (2 ^ 31 - 1) m
        { bits := (BitVec.ofInt 32 c.1).toNat, ff := c.2 }
    i = .cvtI2f ∨ i = .cvtF2i → ∃ (out : W512) (ff : BitVec 5), startsVec i s 9 4 out 0 ff ∧
      (∀ j, j < 16 → lane out 32 j = (r j).bits) ∧ ∀ n, n < 5 → (ff.getLsbD n = true ↔ ∃ j, j < 16 ∧ (r j).ff.getLsbD n = true)

/-- (R236 to R238, R271) The sr forms complete where their control word is in range: lane j of `out` is what R237 gives for
lane j of o1 and T with draw j of the spindle, each flag is raised where some lane raises it, and the spindle has taken 32 draws; no other spindle changes. Otherwise
they fault with FLT_XWORD, FREC1 holding T (the model's choice, log 11), and take no draw. -/
def Obligations.StochasticRounding : Prop :=
  ∀ (i : Instr) (f : Fmt), srForm i = some f → ∀ s : State,
    let c := s.opPort64 9 1
    let k := (c.extractLsb' 8 4).toNat
    let n := (c.extractLsb' 0 2).toNat
    (srAccepts c = true → ∃ (out : W512) (ff : BitVec 5) (fl : Nat → BitVec 5), exec i s =
      .next ((s.updSelf fun x => x.setSpindle n (drawn (x.spindle n) k 32)).startFixed 9 4
        { out := out, aux := 0, stat := ff.zeroExtend 64 } { flags := none, ptr := none, wd := none, ff := ff }) ∧
      (∀ j, j < 32 →
        srGives f k ((drawn (s.self.spindle n) k j).next k).2 (laneOfTwo (s.opPort 9 0) s.opT 32 j) (lane out 16 j) (fl j)) ∧
      ∀ b, b < 5 → (ff.getLsbD b = true ↔ ∃ j, j < 32 ∧ (fl j).getLsbD b = true)) ∧
    (srAccepts c = false → traps i s 0x01 0 s.opT64)

/-- (R209 to R214, R239 to R242) The SQ forms complete where their control word is in range, and otherwise fault with
FLT_XWORD. sqscale gives the largest magnitude so far, and the scale for it. sqenc writes the scale, and of its quarter each
micro-exponent and element, into the image; every other bit of `out` comes from o1, and of `aux` is zero. It raises each flag where an
input of its quarter does. sqdec gives the FP32 value of each element of its quarter, with overflow and inexact where one lies beyond
the FP32 range.
Points that the rules leave open stand as the model reads them (log 15, the flags under a NaN scale: log 28, FREC1 = T of FLT_XWORD: log 11). -/
def Obligations.SqBlocks : Prop :=
  ∀ s : State, let c := s.opPort64 9 1
    let n := sqBlk c
    let k := sqBits c
    let at0 := 16 * sqQuarter c
    (sqAccepts c = false → traps .sqscale s 0x01 0 s.opT64 ∧ traps .sqenc s 0x01 0 s.opT64 ∧ traps .sqdec s 0x01 0 s.opT64) ∧
    (sqAccepts c = true →
      (∃ (out : W512) (ff : BitVec 5) (short : Bool), startsVec .sqscale s 9 8 out 0 ff ∧
        let A := lane out 32 1
        let prior := magOf (lane (s.opPort 9 2) 32 1)
        out.extractLsb' 64 448 = 0 ∧ out.extractLsb' 16 16 = 0 ∧ scaleFor k A (lane out 16 0) short ∧
        ((0x7F800000 < prior ∨ ∃ j, j < 16 ∧ isNan32 (lane s.opT 32 j) = true) → A = 0x7FC00000) ∧
        ((∀ j, j < 16 → isNan32 (lane s.opT 32 j) = false) → prior ≤ 0x7F800000 → prior ≤ A ∧
          (∀ j, j < 16 → magOf (lane s.opT 32 j) ≤ A) ∧ (A = prior ∨ ∃ j, j < 16 ∧ A = magOf (lane s.opT 32 j))) ∧
        (ff.getLsbD 4 = true ↔ ∃ j, j < 16 ∧ (Fmt.fp32.val (lane s.opT 32 j)).isSnan = true) ∧
        ff.extractLsb' 0 4 = if short then 5 else 0) ∧
      (∃ (out aux : W512) (ff : BitVec 5), startsVec .sqenc s 9 8 out aux ff ∧
        let img : BitVec 1024 := aux ++ out
        let S := lane (s.opPort 9 2) 16 0
        let written (b : Nat) : Prop := b < 16 ∨ (16 + at0 / 2 ≤ b ∧ b < 16 + at0 / 2 + 8) ∨
          (16 + n / 2 + (k + 1) * at0 ≤ b ∧ b < 16 + n / 2 + (k + 1) * (at0 + 16))
        lane out 16 0 = S ∧
        (0xFF00 < S → (ff.getLsbD 4 = true ↔ ∃ l, l < 16 ∧ (Fmt.fp32.val (lane s.opT 32 l)).isSnan = true) ∧
          (ff.getLsbD 0 = true ↔ ∃ l, l < 16 ∧ (Fmt.fp32.val (lane s.opT 32 l)).isNan = false) ∧ ff.extractLsb' 1 3 = 0) ∧
        (S ≤ 0xFF00 →
          let x (l : Nat) := lane s.opT 32 l
          let a (l : Nat) : ℚ := (Fmt.fp32.val (magOf (x l))).rat
          let fin (l : Nat) : Prop := l < 16 ∧ magOf (x l) < 0x7F800000
          let m (l : Nat) := (img.extractLsb' (16 + n / 2 + (k + 1) * (at0 + l)) k).toNat
          let mu (l : Nat) := (img.extractLsb' (16 + (at0 + l) / 2) 1).toNat
          (ff.getLsbD 4 = true ↔ ∃ l, l < 16 ∧ isNan32 (x l) = true) ∧ ff.getLsbD 3 = false ∧
          (S = 0xFF00 → ff.extractLsb' 1 2 = 0 ∧ (ff.getLsbD 0 = true ↔ ∃ l, fin l ∧ magOf (x l) ≠ 0)) ∧
          (S < 0xFF00 →
            (ff.getLsbD 2 = true ↔ ∃ l, l < 16 ∧ magOf (x l) = 0x7F800000 ∨ fin l ∧ S ≠ 0 ∧
              ∃ q r, roundsOdd (a l / scaleOf S) q ∧ roundsRne (q * 2 ^ (k - 1 + mu l)) r ∧ 2 ^ k - 1 < r) ∧
            (ff.getLsbD 1 = true ↔ ∃ l, fin l ∧ magOf (x l) ≠ 0 ∧ m l = 0) ∧
            (ff.getLsbD 0 = true ↔ ∃ l, l < 16 ∧ magOf (x l) = 0x7F800000 ∨ fin l ∧
              (m l : ℚ) * (2 : ℚ) ^ (1 - (k : Int) - mu l) * scaleOf S ≠ a l))) ∧
        (∀ b, b < 1024 → ¬ written b → img.getLsbD b = (decide (b < 512) && (s.opPort 9 0).getLsbD b)) ∧
        ∀ l, l < 16 →
          let x := lane s.opT 32 l
          let e := img.extractLsb' (16 + n / 2 + (k + 1) * (at0 + l)) (k + 1)
          e.getLsbD k = x.testBit 31 ∧
            sqElement k S x (lane s.opT 32 (if l % 2 = 0 then l + 1 else l - 1))
              (img.extractLsb' (16 + (at0 + l) / 2) 1).toNat (e.toNat % 2 ^ k)) ∧
      ∃ (out : W512) (ff : BitVec 5), startsVec .sqdec s 9 8 out 0 ff ∧
        let img : BitVec 1024 := s.opPort 9 2 ++ s.opT
        let S := lane s.opT 16 0
        let m (l : Nat) := (img.extractLsb' (16 + n / 2 + (k + 1) * (at0 + l)) k).toNat
        let mu (l : Nat) := (img.extractLsb' (16 + (at0 + l) / 2) 1).toNat
        let v (l : Nat) : ℚ := (m l : ℚ) * (2 : ℚ) ^ (1 - (k : Int) - mu l) * scaleOf S
        let beyond (l : Nat) : Prop := S < 0xFF00 ∧ (Fmt.fp32.val 0x7F7FFFFF).rat < v l
        ((∃ l, l < 16 ∧ beyond l) → ff = 5) ∧ ((∀ l, l < 16 → ¬beyond l) → ff = 0) ∧ ∀ l, l < 16 →
        let neg := img.getLsbD (16 + n / 2 + (k + 1) * (at0 + l) + k)
        let y := Fmt.fp32.val (lane out 32 l)
        (0xFF00 < S → lane out 32 l = 0x7FC00000) ∧
        (S ≤ 0xFF00 → y.neg? = neg) ∧ (S = 0xFF00 → m l ≠ 0 → lane out 32 l % 2 ^ 31 = 0x7F800000) ∧ (S ≤ 0xFF00 → m l = 0 → y.rat = 0) ∧
        (beyond l → lane out 32 l % 2 ^ 31 = 0x7F800000) ∧
        (S < 0xFF00 → ¬beyond l → y.isFin = true ∧ y.rat = (if neg then -1 else 1) * v l))

/-- (R245 to R248, R250 to R253, R256 to R259, R262 to R265) The forms of mxu complete. A descriptor form sets its descriptor
where its operand is in range, and otherwise faults with FLT_XWORD. An operation form to which no check of its list applies
enters the queue with the descriptors as they stand; otherwise the first check in order faults, FREC1 as R355 has it (of a fault that
concerns both operands, log 11). The list ends with the job's share of accumulators and its window (R332) and, for the forms that deliver,
the ninth record (R55). mwait and msave start to wait,
and msave stops the operation of the loop nest that makes its accumulator Busy, if it has a chunk left; its record holds the progress
of the stopped operation as the trigger finds it, or zero.
Points that the rules leave open stand as the model reads them (log 11, log 14). -/
def Obligations.MatrixForms : Prop :=
  ∀ s : State, let c := s.trig.who
    let b := s.self.bank
    let w := s.opT64
    let setBank (f : Bank → Bank) : State := s.updSelf fun x => { x with bank := f x.bank }
    let settled (i : Instr) (check : Option Raised) (done : Prop) : Prop :=
      (check = none → done) ∧ ∀ code info f1, check = some (code, info, f1) → traps i s code info f1
    settled .astr (if w.extractLsb' 32 32 = 0 then none else some (0x01, 0, w))
      (exec .astr s = .next (setBank fun x => { x with
        mxA := s.opPort64 10 0
        mxAs := w.extractLsb' 0 32 })) ∧
    settled .bstr (if w.extractLsb' 32 32 = 0 then none else some (0x01, 0, w))
      (exec .bstr s = .next (setBank fun x => { x with
        mxB := s.opPort64 10 0
        mxBs := w.extractLsb' 0 32 })) ∧
    settled .shape (if shapeFits w then none else some (0x01, 0, w)) (exec .shape s = .next (setBank fun x => { x with mxShape := w })) ∧
    settled .mprog (if progFits w then none else some (0x01, 0, w))
      (exec .mprog s = .next (setBank fun x => { x with
        mxProg := w
        mxConst := (s.opPort64 10 0).extractLsb' 0 32 })) ∧
    (∀ e ∈ [(Instr.mma, MxKind.mma, false), (.mmz, .mmz, false), (.mrun, .mrun, true)],
      settled e.1 (runCheck s c e.2.2 w b.mxShape b.mxA b.mxB b.mxAs b.mxBs)
        (∃ t o, exec e.1 s = .next t ∧ entersMatrix s t o ∧ o.kind = e.2.1 ∧ o.acc = accIn b.mxShape ∧ o.k0 = 0 ∧ o.i = 0 ∧
          o.j = 0 ∧ (o.z = true ↔ e.1 = .mmz) ∧ o.verify = false ∧ ∀ d, t.ctx d = s.ctx d)) ∧
    settled .mresume (resumeCheck s c w b.mxShape b.mxA b.mxB b.mxAs b.mxBs)
      (∃ t o, exec .mresume s = .next t ∧ entersMatrix s t o ∧ o.kind = .mresume (w.getLsbD 37) ∧ o.acc = accIn w ∧
        o.k0 = (w.extractLsb' 0 13).toNat ∧ o.i = (w.extractLsb' 16 6).toNat ∧ o.j = (w.extractLsb' 24 6).toNat ∧
        o.z = w.getLsbD 38 ∧ o.verify = true ∧ ∀ d, t.ctx d = s.ctx d) ∧
    (∀ e ∈ [(Instr.mclear, MxKind.mclear (w.extractLsb' 32 32)), (.mfill, .mfill (w.extractLsb' 8 6).toNat),
        (.mdrain, .mdrain (w.extractLsb' 8 6).toNat)],
      settled e.1 (accCheck s e.1)
        (∃ t o, exec e.1 s = .next t ∧ entersMatrix s t o ∧ o.kind = e.2 ∧ o.acc = (w.extractLsb' 0 3).toNat ∧
          ∀ d, t.ctx d = s.ctx d)) ∧
    settled .mrd (accCheck s .mrd)
      (∃ t o, exec .mrd s = .next t ∧ entersMatrix s t o ∧ o.kind = .mrd (w.extractLsb' 8 6).toNat (w.extractLsb' 16 2).toNat ∧
        o.acc = (w.extractLsb' 0 3).toNat ∧ oneMoreRecord s t c 10 ∧ ∀ d, d ≠ c → t.ctx d = s.ctx d) ∧
    settled .mwait (if w.extractLsb' 8 56 ≠ 0 then some (0x01, 0, w)
        else if w.extractLsb' 0 8 &&& (s.jobFor c).accx ≠ 0 then some (0x16, 23, w)
        else if 8 ≤ (b.outst.filter fun o => o.key == 10).length + (b.queue 10).length then some (0x16, 2, w) else none)
      (∃ t y, exec .mwait s = .next t ∧ oneMoreRecord s t c 10 ∧ (t.tile c.tile).mxw = (s.tile c.tile).mxw ++ [y] ∧
        y.id = s.fresh ∧ y.who = c ∧ y.mask = w.extractLsb' 0 8 ∧ y.save = false ∧
        (∀ o ∈ (s.tile c.tile).mxq, ∀ r, o.kind = .mdrain r → o.who = c → o.id ∈ y.drains) ∧
        (t.tile c.tile).mxq = (s.tile c.tile).mxq ∧ t.mem = s.mem ∧ ∀ d, d ≠ c → t.ctx d = s.ctx d) ∧
    settled .msave (accCheck s .msave)
      (∃ t y, exec .msave s = .next t ∧ oneMoreRecord s t c 10 ∧ (t.tile c.tile).mxw = (s.tile c.tile).mxw ++ [y] ∧
        y.id = s.fresh ∧ y.who = c ∧ y.save = true ∧ y.mask = (1 <<< (w.extractLsb' 0 3).toNat : BitVec 8) ∧ t.mem = s.mem ∧
        (∀ d, d ≠ c → t.ctx d = s.ctx d) ∧ let m := (w.extractLsb' 0 3).toNat
        (∀ o prior, (s.tile c.tile).acc m = .busy o.id prior → (s.tile c.tile).mxq.find? (fun x => x.id == o.id) = some o →
          o.kind ∈ [.mma, .mmz, .mrun, .mresume false, .mresume true] → o.k0 < kIn o.shape →
          (t.tile c.tile).acc m = .stopped o ∧ o ∉ (t.tile c.tile).mxq) ∧
        (∀ o prior, (s.tile c.tile).acc m = .busy o.id prior → o ∈ (s.tile c.tile).mxq →
          (∀ x ∈ (s.tile c.tile).mxq ++ (s.tile c.tile).mxLate, x.id = o.id → x = o) → kIn o.shape ≤ o.k0 → (t.tile c.tile).accs = (s.tile c.tile).accs) ∧
        ((∀ id prior, (s.tile c.tile).acc m ≠ .busy id prior) → (t.tile c.tile).accs = (s.tile c.tile).accs) ∧
        (∀ o, (t.tile c.tile).acc m = .stopped o → holdsProgress y.res o) ∧
        ((∀ o, (t.tile c.tile).acc m ≠ .stopped o) → y.res = { out := 0, aux := 0, stat := 0 }))

/-- (R215, R246, R252, R257, R261) The next chunk of an operation of the loop nest that may perform, with the checksums right where an
mresume has still to check them, nothing that gathers, and, for paged operands, no link down and no router busy: with its operands read,
one cell takes its steps over the chunk's depths in order, every other cell stays, and the operation goes on to the next column, row or
depth. An mmz whose clear has not been applied first sets the cells of its shape to +0. (R253 to R255, R332, R357) Where a byte of its
operands, A's before B's, meets a fault, the chunk is not applied, and the operation is Stopped at it.
(R249, R259 to R264) An operation that may perform completes: with its last chunk applied its accumulator becomes Idle;
mclear fills every cell; mfill reads its rows from memory; mdrain, where no checksum differs, writes its rows to memory, and no
other byte; mrd delivers its row quarter. Where a checksum differs, an mresume or mdrain raises FLT_CHECKSUM with the place of the
difference, writes nothing, and leaves the accumulator as it found it. The record of an mwait or msave that is due lands. Memory and
cells otherwise stay.
Points that the rules leave open stand as the model reads them (log 14). -/
def Obligations.MatrixChunks : Prop :=
  (∀ (s : State) (tile : Nat) (o : MxOp), (s.tile tile).mxq.find? (fun x => x.id == o.id) = some o →
    s.mxFree tile o = true → o.kind ∈ [.mma, .mmz, .mrun, .mresume false, .mresume true] →
    (o.verify = true → (s.tile tile).mismatch o.acc = none) → o.who.tile = tile → tile < 576 → s.hlines = [] →
    (o.a.extractLsb' 40 8 = 0xFF ∧ o.b.extractLsb' 40 8 = 0xFF ∨ s.links = [] ∧ s.swIn = []) →
    o.k0 < kIn o.shape → kIn o.shape ≤ 4096 → nIn o.shape ≤ 64 → mIn o.shape ≤ 64 → o.i < mIn o.shape → o.j < nIn o.shape → o.acc < 8 →
    let recurs : Bool := o.kind == .mrun || o.kind == .mresume true
    pairs recurs (fmtP o.a) (fmtP o.b) = true → (sqFmt (fmtP o.a) = true → blkP o.a = blkP o.b ∧ kIn o.shape % kcOf o.a = 0) →
    o.k0 % kcOf o.a = 0 →
    let sq := sqFmt (fmtP o.a)
    let k1 := min (o.k0 + kcOf o.a) (kIn o.shape)
    let chunk (p : W64) (st : W32) (i : Nat) : Nat × Nat :=
      if sq then (i * st.toNat + o.k0 / kcOf o.a * blockSize p, blockSize p)
      else (i * st.toNat + o.k0 * elemSize (fmtP p), (k1 - o.k0) * elemSize (fmtP p))
    let ra := operandBytes (chunkStart s tile o) o o.a (chunk o.a o.as o.i).1 (chunk o.a o.as o.i).2
    let rb := operandBytes ra.1 o o.b (chunk o.b o.bs o.j).1 (chunk o.b o.bs o.j).2
    let old (i j : Nat) : W32 := if o.z ∧ i < mIn o.shape ∧ j < nIn o.shape then 0 else (s.tile tile).cell o.acc i j
    let q := { o with
      verify := false
      z := false }
    let stops (code : Flt) (info va : Nat) : Prop := ∃ t, exec (.matrixChunkApply tile o.id) s = .next t ∧
      (∀ x ∈ (t.tile tile).mxq, x.id ≠ o.id) ∧ (t.tile tile).acc o.acc = .stopped q ∧ mxFaults s t o q code info va ∧
      ∀ m i j, m < 8 → i < 64 → j < 64 → (t.tile tile).cell m i j = if m = o.acc then old i j else (s.tile tile).cell m i j
    (∀ code info va, ra.2 = .error (code, info, va) → stops code info va) ∧
    (∀ la code info va, ra.2 = .ok la → rb.2 = .error (code, info, va) → stops code info va) ∧
    ∀ la lb, ra.2 = .ok la → rb.2 = .ok lb →
      let x := leNat (la.map (Memory.read rb.1.mem))
      let y := leNat (lb.map (Memory.read rb.1.mem))
      let new : Nat :=
        if sq then
          (((Fmt.fp32.val (old o.i o.j).toNat).add false (groupOf (blockVals o.a x) (blockVals o.b y))).into .fp32 .rne).bits
        else (List.range (k1 - o.k0)).foldl (fun acc k =>
          if recurs then recurStep o.prog o.const acc (elementAt o.a x k) (elementAt o.b y k)
          else macStep acc (elementAt o.a x k) (elementAt o.b y k)) (old o.i o.j).toNat
      ∃ t, exec (.matrixChunkApply tile o.id) s = .next t ∧
        (∀ i j, i < 64 → j < 64 → (t.tile tile).cell o.acc i j = if i = o.i ∧ j = o.j then BitVec.ofNat 32 new else old i j) ∧
        (∀ m i j, m < 8 → m ≠ o.acc → i < 64 → j < 64 → (t.tile tile).cell m i j = (s.tile tile).cell m i j) ∧
        (∀ w ∈ (t.tile tile).mxq, w.id = o.id → w.z = false ∧ w.verify = false ∧
          (w.k0, w.i, w.j) = if o.j + 1 < nIn o.shape then (o.k0, o.i, o.j + 1)
            else if o.i + 1 < mIn o.shape then (o.k0, o.i + 1, 0) else (o.k0 + kcOf o.a, 0, 0)) ∧
        t.mem = rb.1.mem ∧ ∀ d, t.ctx d = s.ctx d) ∧
  (∀ (s : State) (tile : Nat) (o : MxOp) (info : Nat), (s.tile tile).mxq.find? (fun x => x.id == o.id) = some o →
    s.mxFree tile o = true → (s.tile tile).mismatch o.acc = some info →
    (o.kind ∈ [.mresume false, .mresume true] → o.verify = true → o.k0 < kIn o.shape →
      ∃ t, exec (.matrixChunkApply tile o.id) s = .next t ∧ (∀ x ∈ (t.tile tile).mxq, x.id ≠ o.id) ∧
        (∀ id p, (s.tile tile).acc o.acc = .busy id (some p) → (t.tile tile).acc o.acc = .stopped p) ∧
        ((∀ id p, (s.tile tile).acc o.acc ≠ .busy id (some p)) → (t.tile tile).acc o.acc = .idle) ∧
        (t.tile tile).cells = (s.tile tile).cells ∧ t.mem = s.mem ∧ mxFaults s t o o .checksum info o.acc) ∧
    ∀ r, o.kind = .mdrain r → ∃ t, exec (.matrixOpComplete tile o.id) s = .next t ∧ (∀ x ∈ (t.tile tile).mxq, x.id ≠ o.id) ∧
      (t.tile tile).accs = (s.tile tile).accs ∧ (t.tile tile).cells = (s.tile tile).cells ∧ t.mem = s.mem ∧
      mxFaults s t o o .checksum info o.acc) ∧
  (∀ (y : Tile) (m : Nat), m < 8 → y.cells.Pairwise (fun a b => a.1 < b.1) →
    let badRow (i : Nat) : Prop := i < 64 ∧ y.csum.get 0 (64 * m + i) ≠ ((List.range 64).map fun j => y.cell m i j).sum
    let badCol (j : Nat) : Prop := j < 64 ∧ y.rsum.get 0 (64 * m + j) ≠ ((List.range 64).map fun i => y.cell m i j).sum
    (y.mismatch m = none ↔ ∀ k, ¬badRow k ∧ ¬badCol k) ∧
    ∀ info, y.mismatch m = some info → info < 2 ^ 16 ∧ info / 64 % 4 = 0 ∧ info / 2 ^ 14 % 2 = 0 ∧
      (∀ i, badRow i → info / 256 % 64 ≤ i ∧ badRow (info / 256 % 64)) ∧ (∀ j, badCol j → info % 64 ≤ j ∧ badCol (info % 64)) ∧
      (2 ^ 15 ≤ info ↔ ∃ i j, i ≠ j ∧ (badRow i ∧ badRow j ∨ badCol i ∧ badCol j))) ∧
  (∀ (s : State) (tile id : Nat),
    (∀ o, (s.tile tile).mxq.find? (fun x => x.id == id) = some o → s.mxFree tile o = true → o.acc < 8 →
      let done (t : State) : Prop := (∀ x ∈ (t.tile tile).mxq, x.id ≠ id) ∧ t.agenda = s.agenda
      let rows (r : Nat) : Prop := arrayReads s o o.o1 0 (256 * (r + 1)) ∧ o.who.tile = tile ∧ r < 64
      (o.kind ∈ [.mma, .mmz, .mrun, .mresume false, .mresume true] → kIn o.shape ≤ o.k0 →
        ∃ t, exec (.matrixOpComplete tile id) s = .next t ∧ done t ∧ (t.tile tile).acc o.acc = .idle ∧
          (t.tile tile).cells = (s.tile tile).cells ∧ t.mem = s.mem ∧ ∀ d, t.ctx d = s.ctx d) ∧
      (∀ v, o.kind = .mclear v → ∃ t, exec (.matrixOpComplete tile id) s = .next t ∧ done t ∧ (t.tile tile).acc o.acc = .idle ∧
        (∀ i j, i < 64 → j < 64 → (t.tile tile).cell o.acc i j = v) ∧ t.mem = s.mem ∧ ∀ d, t.ctx d = s.ctx d) ∧
      (∀ r, o.kind = .mfill r → rows r → ∃ t, exec (.matrixOpComplete tile id) s = .next t ∧ done t ∧
        (t.tile tile).acc o.acc = .idle ∧ t.mem = s.mem ∧ (∀ d, t.ctx d = s.ctx d) ∧
        ∀ i j, i < 64 → j < 64 → (t.tile tile).cell o.acc i j =
          if i ≤ r then BitVec.ofNat 32 (Memory.readLe s.mem (arrayLoc s o o.o1 (256 * i + 4 * j)) 4) else (s.tile tile).cell o.acc i j) ∧
      (∀ r, o.kind = .mdrain r → rows r → (s.tile tile).mismatch o.acc = none → s.memOk →
        ∃ t, exec (.matrixOpComplete tile id) s = .next t ∧ done t ∧ (t.tile tile).accs = (s.tile tile).accs ∧
        (∀ i j, i ≤ r → j < 64 → Memory.readLe t.mem (arrayLoc s o o.o1 (256 * i + 4 * j)) 4 = ((s.tile tile).cell o.acc i j).toNat) ∧
        ∀ a, a < arrayLoc s o o.o1 0 ∨ arrayLoc s o o.o1 0 + 256 * (r + 1) ≤ a → Memory.read t.mem a = Memory.read s.mem a) ∧
      (∀ r q, o.kind = .mrd r q → ∃ (t : State) (out : W512), exec (.matrixOpComplete tile id) s = .next t ∧ done t ∧
        t.ctx o.who = (s.ctx o.who).landRec 10 id { out := out, aux := 0, stat := 0 } ∧
        (∀ l, l < 16 → out.extractLsb' (32 * l) 32 = (s.tile tile).cell o.acc r (16 * q + l)) ∧ t.mem = s.mem ∧
        ∀ d, d ≠ o.who → t.ctx d = s.ctx d)) ∧
    ∀ w, (∀ o ∈ (s.tile tile).mxq, o.id ≠ id) → (s.tile tile).mxw.find? (fun x => x.id == id) = some w →
      (∀ m, m < 8 → w.mask.getLsbD m = true → (s.tile tile).accBusy m = false) →
      (∀ o ∈ (s.tile tile).mxq ++ (s.tile tile).mxLate, o.id ∉ w.drains) →
      (w.save = true → ∃ t, exec (.matrixOpComplete tile id) s = .next t ∧ t.ctx w.who = (s.ctx w.who).landRec 10 id w.res ∧
        t.mem = s.mem ∧ ∀ d, d ≠ w.who → t.ctx d = s.ctx d) ∧
      (w.save = false → (∀ c ∈ whosOf tile, (s.ctx c).faults = []) →
        ∃ (t : State) (v : W64), exec (.matrixOpComplete tile id) s = .next t ∧
          t.ctx w.who = (s.ctx w.who).landRec 10 id { out := v.zeroExtend 512, aux := 0, stat := 0 } ∧ t.mem = s.mem ∧
          (∀ d, d ≠ w.who → t.ctx d = s.ctx d) ∧ v.extractLsb' 0 8 = w.mask ∧ v.extractLsb' 16 48 = 0 ∧
          ∀ m, m < 8 → (v.getLsbD (8 + m) = true ↔ w.mask.getLsbD m = true ∧ ∃ o, (s.tile tile).acc m = .stopped o)))

/-- (R55, R271 to R282, R284, R285, R332) The forms of sxu complete, each with its whole effect on yarns, spindles and settings at its
trigger: key and ylen within range; spin, spinb and respin with the draws of their spindle in order; the bitwise forms
where lengths agree and no checked lineages conflict; count, yinfo, draw and sdot with a record to come. Otherwise the first
check in order faults, and no yarn, spindle or setting changes; FREC1 is as R355 has it. The checks of sdot end with the job's window
(R332) and the ninth record (R55).
Points that the rules leave open stand as the model reads them (log 11). -/
def Obligations.YarnForms : Prop :=
  ∀ s : State, let t := s.opT64
    let x := s.self
    let k := x.bank.ylen.toNat
    let f1 := s.opPort64 11 0
    let room (i : Instr) (P : Prop) : Prop := (hasRoom s 11 = true → P) ∧ (hasRoom s 11 = false → traps i s 0x16 2 t)
    (if t.extractLsb' 25 39 = 0 ∧ t.extractLsb' 18 6 = 0 ∧ ¬(t.getLsbD 24 = true ∧ t.extractLsb' 0 16 = 0) then
      yarnStarts .sxuKey s (x.setSpindle (spOf t) {
        key := t.extractLsb' 0 16
        mode := t.getLsbD 24
        epoch := (x.spindle (spOf t)).epoch + 1
        state := if t.getLsbD 24 then t.extractLsb' 0 16 else 0 }) .silent
      else traps .sxuKey s 0x01 0 t) ∧
    (if t.extractLsb' 21 43 = 0 ∧ t.extractLsb' 10 6 = 0 ∧ t.extractLsb' 4 4 = 0 ∧ 4 ≤ (t.extractLsb' 0 4).toNat ∧
        (t.extractLsb' 0 4).toNat ≤ 12 ∧ 4 ≤ (t.extractLsb' 16 5).toNat ∧ (t.extractLsb' 16 5).toNat ≤ 16 then
      yarnStarts .ylen s { x with bank := { x.bank with
        ylen := t.extractLsb' 0 4
        dsp := t.extractLsb' 8 2
        dk := t.extractLsb' 16 5 } } .silent
      else traps .ylen s 0x01 0 t) ∧
    (opFits t = false → ∀ i ∈ [Instr.spin, .spinb, .respin, .knit, .knitCor, .xnor, .yarnOr, .mux, .purl, .count, .yinfo],
      traps i s 0x01 0 t) ∧
    (opFits t = true →
      (∃ y, yarnStarts .spin s y .silent ∧
        spun x y t k (if f1.toInt < 0 then 0 else if (2 : Int) ^ k < f1.toInt then 2 ^ k else f1.toInt.toNat)) ∧
      (∃ y, yarnStarts .spinb s y .silent ∧
        spun x y t k (if f1.toInt < -(2 ^ k / 2 : Int) then 0 else if (2 ^ k / 2 : Int) < f1.toInt then 2 * (2 ^ k / 2)
          else (f1.toInt + (2 ^ k / 2 : Int)).toNat)) ∧
      room .respin (∃ y, yarnStarts .respin s y (.ready (oneWord (BitVec.ofNat 64 (onesOf (x.yarn (yaOf t)))))) ∧
        spun x y t (x.yarn (yaOf t)).k (onesOf (x.yarn (yaOf t)))) ∧
      (∀ i lens lots f, yarnForm t i = some (lens, lots, f) →
        let badLen := lens.find? fun p => (x.yarn p.1).k != (x.yarn p.2).k
        let badLot := lots.find? fun p => clashBits (x.yarn p.1).lin (x.yarn p.2).lin != 0
        (∀ p, badLen = some p → traps i s 0x0E (BitVec.ofNat 16 ((x.yarn p.1).k + 16 * (x.yarn p.2).k)) f1) ∧
        (∀ p, badLen = none → badLot = some p →
          traps i s 0x0D (BitVec.ofNat 16 (clashBits (x.yarn p.1).lin (x.yarn p.2).lin + 16 * p.1 + 256 * p.2)) f1) ∧
        (badLen = none → badLot = none → ∃ y, yarnStarts i s y .silent ∧
          (∀ n, n ≠ ydOf t → y.yarn n = x.yarn n) ∧ { y with yarns := x.yarns } = x ∧
          (y.yarn (ydOf t)).k = (x.yarn (yaOf t)).k ∧
          (∀ j, j < 2 ^ (x.yarn (yaOf t)).k → j < 4096 → (y.yarn (ydOf t)).bits.getLsbD j =
            f ((x.yarn (yaOf t)).bits.getLsbD j) ((x.yarn (ybOf t)).bits.getLsbD j) ((x.yarn (ycOf t)).bits.getLsbD j)) ∧
          formLineage i (x.yarn (yaOf t)).lin (x.yarn (ybOf t)).lin (x.yarn (ycOf t)).lin (y.yarn (ydOf t)).lin)) ∧
      room .count (yarnStarts .count s x (.ready (oneWord (BitVec.ofInt 64 (if t.getLsbD 20
        then (onesOf (x.yarn (yaOf t)) : Int) - (2 ^ (x.yarn (yaOf t)).k / 2 : Nat) else onesOf (x.yarn (yaOf t))))))) ∧
      room .yinfo (∃ v : W64, yarnStarts .yinfo s x (.ready (oneWord v)) ∧ let y := x.yarn (yaOf t)
        v.extractLsb' 48 16 = 0 ∧ v.extractLsb' 44 4 = BitVec.ofNat 4 y.k ∧ v.extractLsb' 40 4 = 0 ∧
        v.extractLsb' 36 4 = y.lin.mix ∧ v.extractLsb' 32 4 = y.lin.mask ∧ v.extractLsb' 0 32 = y.lin.ep)) ∧
    room .draw (let w := ((List.range 16).map (weightAt s)).sum
      let p := x.spindle x.bank.dsp.toNat
      let r := (p.next x.bank.dk.toNat).2
      ∃ j : Nat, yarnStarts .draw s (x.setSpindle x.bank.dsp.toNat (p.next x.bank.dk.toNat).1)
          (.ready { out := BitVec.ofNat 512 j, aux := 0, stat := BitVec.ofNat 64 r }) ∧
        (w = 0 → j = 16) ∧
        (w ≠ 0 → r < 2 ^ x.bank.dk.toNat → j < 16 ∧ r * w / 2 ^ x.bank.dk.toNat < ((List.range (j + 1)).map (weightAt s)).sum ∧
          ((List.range j).map (weightAt s)).sum ≤ r * w / 2 ^ x.bank.dk.toNat)) ∧
    (sdotCheck s = none → yarnStarts .sdot s x (.sdot f1 (s.opPort64 11 1))) ∧
    ∀ code info f1, sdotCheck s = some (code, info, f1) → traps .sdot s code info f1

/-- (R268, R269, R283, R284) The oldest operation of a tile's engine queue completes: a record that is ready lands; an sdot whose
arrays pass every check delivers the number of ones of the AND, or under BIP the XNOR, of the arrays' bits. -/
def Obligations.YarnCompletions : Prop :=
  ∀ (s : State) (tile : Nat) (o : SxOp) (rest : List SxOp), (s.tile tile).sxq = o :: rest →
    let lands (r : Rec) : Prop := ∃ t, exec (.sxuOpComplete tile o.id) s = .next t ∧ (t.tile tile).sxq = rest ∧
      t.ctx o.who = (s.ctx o.who).landRec 11 o.id r ∧ (∀ d, d ≠ o.who → t.ctx d = s.ctx d) ∧ t.mem = s.mem
    (o.kind = .silent → ∃ t, exec (.sxuOpComplete tile o.id) s = .next t ∧ (t.tile tile).sxq = rest ∧
      (∀ d, t.ctx d = s.ctx d) ∧ t.mem = s.mem) ∧
    (∀ r, o.kind = .ready r → lands r) ∧
    ∀ a b k n la lb, o.kind = .sdot a b → arrayFits s o.who a k n la → arrayFits s o.who b k n lb → clashBits la lb = 0 →
      let bits (p : W64) (z i : Nat) : Bool := (Memory.read s.mem (localLoc s o.who p + 64 + z)).getLsbD i
      let ones := ((List.range (n * 2 ^ (k - 3))).map fun z => ((List.range 8).filter fun i =>
        if o.t.getLsbD 20 then bits a z i == bits b z i else bits a z i && bits b z i).length).sum
      lands (oneWord (BitVec.ofNat 64 ones))

/-- (R55, R290 to R293, R296 to R298, R332) The forms of cpy complete. push and try accept a request that its checks pass and for which
there is room; without room a push waits, and try delivers 1 and accepts nothing. reel.init sets a reel's size and clears it; await claims the next
slot in turn, and its record lands at once if the slot has filled; rel releases one, and
names the accesses before it; stat samples the reel. Otherwise the
first check faults, with INFO 23 for a reel outside the job's share and FLT_TILEMAP for a row outside its window (R332); FREC1 is the
pointer concerned, the shape word, or the reel word (R292, R355). Memory stays.
Points that the rules leave open stand as the model reads them (log 11). -/
def Obligations.CopyForms : Prop :=
  ∀ s : State, let c := s.trig.who
    let w := s.opT64
    let n := (w.extractLsb' 0 4).toNat
    let j := s.jobFor c
    let r := (s.tile c.tile).reel n
    let others (t : State) : Prop := (∀ d, d ≠ c → t.ctx d = s.ctx d) ∧ t.mem = s.mem ∧ ∀ m, m ≠ n → (t.tile c.tile).reel m = (s.tile c.tile).reel m
    let settled (i : Instr) (check : Option Raised) (done : Prop) : Prop :=
      (check = none → done) ∧ ∀ code info f1, check = some (code, info, f1) → traps i s code info f1
    let ninth : Option Raised := if hasRoom s 12 then none else some (0x16, 2, w)
    let named : Option Raised := if w.extractLsb' 4 60 ≠ 0 then some (0x01, 0, w) else if j.reelx.getLsbD n then some (0x16, 23, w) else none
    let sized : Option Raised := if r.size = 0 then some (0x16, 16, w) else none
    settled .cpyPush (copyCheck s)
      ((canAccept (s.tile c.tile) n = true → ∃ t, exec .cpyPush s = .next t ∧ copyAccepted s t ∧ t.self = s.self ∧ others t) ∧
        (canAccept (s.tile c.tile) n = false → ∃ t, exec .cpyPush s = .next t ∧ putOff s t .cpyPush)) ∧
    settled .cpyTry ((copyCheck s).or ninth) (∃ t, exec .cpyTry s = .next t ∧ others t ∧
      (canAccept (s.tile c.tile) n = true → copyAccepted s t ∧ landsAtOnce s t 12 (oneWord 0)) ∧
      (canAccept (s.tile c.tile) n = false → (t.tile c.tile).cpq = (s.tile c.tile).cpq ∧ (t.tile c.tile).reels = (s.tile c.tile).reels ∧
        landsAtOnce s t 12 (oneWord 1))) ∧
    settled .reelInit (if w.extractLsb' 4 4 ≠ 0 ∨ w.extractLsb' 15 49 ≠ 0 ∨ w.extractLsb' 8 7 = 0 ∨ 64 < (w.extractLsb' 8 7).toNat
        then some (0x01, 0, w) else if j.reelx.getLsbD n then some (0x16, 23, w) else if r.pushed ≠ r.released then some (0x16, 19, w) else none)
      (∃ t, exec .reelInit s = .next t ∧ others t ∧ t.self = s.self ∧ (t.tile c.tile).reel n =
        { size := (w.extractLsb' 8 7).toNat, pushed := 0, filled := 0, awaited := 0, released := 0, slots := [], claims := []
          pushAt := 0, fillAt := 0, awaitAt := 0, relAt := 0, rels := [] }) ∧
    settled .await (named.or (sized.or ((if r.awaited = r.pushed then some (0x16, 17, w) else none).or ninth)))
      (∃ t, exec .await s = .next t ∧ others t ∧ ((t.tile c.tile).reel n).awaited = r.awaited + 1 ∧
        ((t.tile c.tile).reel n).awaitAt = (r.awaitAt + 1) % r.size ∧
        (r.claims = [] → r.filled ≠ r.awaited → ((t.tile c.tile).reel n).claims = [] ∧
          let v := r.slots.get (0, 0) r.awaitAt
          landsAtOnce s t 12 { out := v.1.zeroExtend 512, aux := 0, stat := v.2 }) ∧
        (r.claims ≠ [] ∨ r.filled = r.awaited → ((t.tile c.tile).reel n).claims = r.claims ++ [(c, s.fresh)] ∧ oneMoreRecord s t c 12)) ∧
    settled .rel (named.or (sized.or (if r.released = r.awaited - BitVec.ofNat 16 r.claims.length then some (0x16, 18, w) else none)))
      (∃ t, exec .rel s = .next t ∧ others t ∧ t.self = s.self ∧ (t.tile c.tile).reel n = { r with
        released := r.released + 1
        relAt := (r.relAt + 1) % r.size
        rels := r.rels.set r.relAt (c, s.self.job, s.fresh) }) ∧
    settled .cpyStat (named.or ninth) (∃ t, exec .cpyStat s = .next t ∧ others t ∧ (t.tile c.tile).reel n = r ∧
      landsAtOnce s t 12 { out := (r.released ++ r.awaited ++ r.filled ++ r.pushed : BitVec 64).zeroExtend 512, aux := 0
                           stat := BitVec.ofNat 64 (r.size + 65536 * (64 - (s.tile c.tile).cpq.length)) })

/-- (R124, R174, R291, R294 to R297, R299, R300, R353) The events of a copy complete. An offered request whose slot may be refilled is taken by an engine, and no
other; or it is refused, which both counts count; a back-off that has run out offers it again. A copy that waits for no link, whose bytes translate without a fault, whose sides
do not overlap, and of which no line gathers at a reduction's home or holds a trail code, writes its destination: each byte as it
stood, or each FP32 value rounded; no other byte changes. The fill of a reel's next slot in order writes its record, and lands
it for the oldest claim; a request that is too old ends with FLT_ENGINE, INFO 20, at once or, where an engine performs it, when what
it has sent has come home. A stopped request ends so too, and writes nothing outside its destination.
Points that the rules leave open stand as the model reads them (log 5, log 14): so FREC1 of a request that is too old, which no rule
gives, is its source pointer (log 14). -/
def Obligations.CopyEvents : Prop :=
  ∀ (s : State) (tile : Nat) (o : CopyReq), s.copyReq? o.id = some (tile, o) → o ∈ (s.tile tile).cpq →
    let a := s.copySide o false
    let b := a.s.copySide o true
    let ended (t : State) (code : Flt) (info : Nat) (f1 : W64) : Prop :=
      (∃ x ∈ (t.tile tile).cpq, x.id = o.id ∧ x.st = .done 0 (BitVec.ofNat 8 code.num)) ∧
        ∃ p ∈ (t.ctx o.who).faults, p.code = code ∧ p.info = BitVec.ofNat 16 info ∧ p.f1 = f1 ∧ p.f2 = o.t ∧ p.word = o.word ∧ p.slot = o.slot
    (∀ n, o.st = .offered → ¬mayFill s tile o → exec (.copyHandoff o.id n) s = .next s) ∧
    (∀ n, o.st = .offered → n < 16 → mayFill s tile o →
      ∃ t, exec (.copyHandoff o.id n) s = .next t ∧ onlyRequest s t tile o (fun x => { x with st := .engine n })) ∧
    (∀ b, o.st = .offered → ∃ t, exec (.copyRefusal o.id b) s = .next t ∧
      onlyRequest s t tile o (fun x => { x with
        st := .backoff b
        refused := x.refused + 1 }) ∧
      (t.tile tile).ctrs.get 0 5 = (s.tile tile).ctrs.get 0 5 + if (s.tile tile).frozen then 0 else 1) ∧
    (o.st = .backoff 0 → ∃ t, exec (.copyBackoffExpiry o.id) s = .next t ∧ onlyRequest s t tile o (fun x => { x with st := .offered })) ∧
    (∀ n, o.st = .engine n → s.copyWaits o = true → exec (.copyComplete o.id) s = .next s) ∧
    (∀ n, o.st = .engine n → s.copyWaits o = false → s.copyGathering o = [] →
      a.bad = [] → b.bad = [] → b.s.trail = [] → b.locs.Nodup → (∀ l ∈ b.locs, l ∉ a.locs) →
      ∃ t, exec (.copyComplete o.id) s = .next t ∧
        (∃ x ∈ (t.tile tile).cpq, x.id = o.id ∧ x.st = .done (BitVec.ofNat 64 (rowsIn o.shape * outLen o.shape)) 0) ∧
        (∀ l, l ∉ b.locs → Memory.read t.mem l = Memory.read b.s.mem l) ∧
        (narrowIn o.shape = 0 → ∀ k, k < b.locs.length →
          Memory.read t.mem (b.locs.getD k 0) = Memory.read b.s.mem (a.locs.getD k 0)) ∧
        (narrowIn o.shape ≠ 0 → ∀ e, e < b.locs.length / 2 →
          let v := leNat (((a.locs.drop (4 * e)).take 4).map (Memory.read b.s.mem))
          leNat (((b.locs.drop (2 * e)).take 2).map (Memory.read t.mem)) =
            ((Fmt.fp32.val v).into (if narrowIn o.shape = 1 then .bf16 else .fp16) .rne false).bits)) ∧
    (∀ b code, o.st = .done b code → (s.tile tile).cpq.find? (fun x => x.reel == o.reel && x.k == o.k) = some o →
      let r := (s.tile tile).reel o.reel
      o.k = r.filled → ∃ t, exec (.reelSlotFill tile o.reel) s = .next t ∧
        ∃ st : W64, st.extractLsb' 48 16 = 0 ∧ (st.extractLsb' 32 16).toNat = min o.refused 65535 ∧ st.extractLsb' 16 16 = o.k ∧
          st.extractLsb' 8 8 = 0 ∧ st.extractLsb' 0 8 = code ∧
          (t.tile tile).reel o.reel = { r with
            filled := r.filled + 1
            fillAt := (r.fillAt + 1) % r.size
            slots := r.slots.set r.fillAt (b, st)
            claims := r.claims.tail } ∧
          (t.tile tile).cpq = (s.tile tile).cpq.filter (fun x => x.id ≠ o.id) ∧ t.mem = s.mem ∧
          ∀ d, t.ctx d = match r.claims.head? with
            | some e => if d = e.1 then (s.ctx d).landRec 12 e.2 { out := b.zeroExtend 512, aux := 0, stat := st } else s.ctx d
            | none => s.ctx d) ∧
    ((s.jobNo o.job).cto ≠ 0 → (s.jobNo o.job).cto ≤ o.age → (∀ b code, o.st ≠ .done b code) → (∀ code i f1, o.st ≠ .stopping code i f1) →
      s.takesFaults o.who o.job = true → ∃ t, exec (.copyTimeout o.id) s = .next t ∧ (ended t .engine 20 o.src ∨
        ((∃ n, o.st = .engine n) ∧ ∃ x ∈ (t.tile tile).cpq, x.id = o.id ∧ x.st = .stopping .engine 20 o.src))) ∧
    (∀ code info f1, o.st = .stopping code info f1 → s.copyWaits o = false → s.copyGathering o = [] → s.takesFaults o.who o.job = true →
      ∃ t, exec (.copyComplete o.id) s = .next t ∧ ended t code info f1 ∧ ∀ l, l ∉ b.locs → Memory.read t.mem l = Memory.read b.s.mem l)

/-- (R55, R303 to R305, R307, R308, R310, R332) The forms of net complete. A send that its checks pass makes a message of its value with
its header, on its way at once unless a link to another package is down or an earlier message to its queue there waits, or with RLS
waiting in its tile; a rot joins the next round; qcfg sets its queue; peek gives
the number of entries and the head's header. Otherwise the first check faults, and FREC1 is T (R355): FLT_TILEMAP for a swatch outside the
job's window, and INFO 23 for a receive queue outside its share (R332).
Points that the rules leave open stand as the model reads them (log 11). -/
def Obligations.NetForms : Prop :=
  ∀ s : State, let c := s.trig.who
    let w := s.opT64
    let j := s.jobFor c
    let q := (w.extractLsb' 0 2).toNat
    let settled (i : Instr) (check : Option Raised) (done : Prop) : Prop :=
      (check = none → done) ∧ ∀ code info f1, check = some (code, info, f1) → traps i s code info f1
    let ninth : Option Raised := if hasRoom s 13 then none else some (0x16, 2, w)
    (s.trig.late = false → noneLate s = true → noneMayLeave s → (∀ x ∈ s.msgs, x.id ≠ s.fresh) → (namesAbroad j w = true → w.getLsbD 31 = false →
        ∀ l ∈ peerLinks c.tile (memberPort j.group (w.extractLsb' 16 8).toNat), s.link l ≠ .down) → c.ctx < 4 → j.member < 256 → j.rects.length ≤ 4 → ∀ e ∈ [(Instr.send, false), (.sendv, true)], settled e.1 (sendCheck s)
      (∃ t m, exec e.1 s = .next t ∧ m ∈ t.msgs ∧ t.msgs.length = s.msgs.length + 1 ∧
        (∀ x ∈ s.msgs, x ∈ t.msgs) ∧ m.id = s.fresh ∧ m.who = c ∧ m.word = s.trig.word ∧ m.slot = s.trig.slot ∧
        m.t = w ∧ m.value = (if e.2 then s.opPort 13 0 else (s.opPort64 13 0).zeroExtend 512) ∧ m.q = q ∧ m.rls = w.getLsbD 31 ∧
        m.st = (if w.getLsbD 31 || behindWaiting s w then .waiting else .moving) ∧
        (w.getLsbD 24 = false → m.tile = j.phys (w.extractLsb' 12 2).toNat (w.extractLsb' 8 4).toNat (w.extractLsb' 4 4).toNat) ∧
        headerIs j c e.2 (namesAbroad j w) m.header ∧
        (∀ d, t.ctx d = s.ctx d) ∧ t.mem = s.mem)) ∧
    settled .rot ((if w.extractLsb' 9 55 ≠ 0 then some (0x01, 0, w) else if j.swcnt ≤ (w.extractLsb' 0 8).toNat then some (0x0B, 0, w) else none).or ninth)
      (∃ t e, exec .rot s = .next t ∧ (t.tile c.tile).rots = (s.tile c.tile).rots ++ [e] ∧ e.1 = j.id ∧ e.2.1.who = c ∧
        lo64 e.2.1.t = w ∧ e.2.2 = s.fresh ∧ oneMoreRecord s t c 13 ∧ (∀ d, d ≠ c → t.ctx d = s.ctx d) ∧ t.mem = s.mem) ∧
    settled .qcfg (if w.extractLsb' 2 2 ≠ 0 ∨ w.extractLsb' 6 2 ≠ 0 ∨ w.extractLsb' 10 54 ≠ 0 then some (0x01, 0, w)
        else if j.qx.getLsbD q then some (0x16, 23, w) else none)
      (∃ t, exec .qcfg s = .next t ∧ (t.tile c.tile).rq q =
          { opened := w.getLsbD 8, reader := (w.extractLsb' 4 2).toNat, entries := if w.getLsbD 9 then [] else ((s.tile c.tile).rq q).entries } ∧
        (∀ n, n ≠ q → (t.tile c.tile).rq n = (s.tile c.tile).rq n) ∧ (∀ d, t.ctx d = s.ctx d) ∧ t.mem = s.mem) ∧
    settled .peek ((if w.extractLsb' 2 62 ≠ 0 then some (0x01, 0, w) else if j.qx.getLsbD q then some (0x16, 23, w) else none).or ninth)
      (∃ t, exec .peek s = .next t ∧ (∀ u, (t.tile u).rqs = (s.tile u).rqs) ∧ (∀ d, d ≠ c → t.ctx d = s.ctx d) ∧ t.mem = s.mem ∧
        let es := ((s.tile c.tile).rq q).entries
        landsAtOnce s t 13 { out := (BitVec.ofNat 64 es.length).zeroExtend 512, aux := 0
                             stat := (es.map (·.2)).headD 0 })

/-- (R303, R305, R307 to R309, R364) A release departs once the accesses before it have performed at system scope and, to another
package, the earlier messages to its queue have left. A message that
is the first of its context to its queue enters an open queue with room behind its entries; a full queue holds it; a closed queue
discards it, and its sender takes FLT_ENGINE, INFO 21; a link that is down faults it. One for another package is gone once it has
entered there, takes FLT_TILEMAP where its coordinates lie outside the member's map, and FLT_ENGINE, INFO 21, at a closed queue.
One from another package whose way in is open enters the queue that its coordinates name, if that has room and none waits before it;
it is answered with a fault if they name no tile, if its way in has a link that is down, or if the queue is closed.
(R310) Once every member of a ring has joined with one rotate word, the swatch of each member owned by 3 and without poison, the
round moves every swatch one place on, with no other byte of memory written, and every member's record lands with n; words that differ, a
link that is down, a swatch not owned by 3 or poison fail it in every member, and memory stays.
Points that the rules leave open stand as the model reads them (log 14, log 23). -/
def Obligations.MessagesAndRounds : Prop :=
  (∀ (s : State) (m : Msg), s.msgs.find? (fun x => x.id == m.id) = some m →
    (m.rls = true → m.st = .waiting → s.fenced m.who m.job m.id 5 m.dbl = true → s.mayDepart m = false →
      exec (.releaseSendDepart m.id) s = .next s) ∧
    (m.rls = true → m.st = .waiting → s.fenced m.who m.job m.id 5 m.dbl = true → s.mayDepart m = true → noneMayLeave s → (∀ x ∈ s.msgs, x.id = m.id → x = m) →
      s.downOn (s.msgLinks m) = none → ∃ t, exec (.releaseSendDepart m.id) s = .next t ∧ (∀ x ∈ t.msgs, x.id = m.id → x.st = .moving) ∧
        (∀ d, t.ctx d = s.ctx d) ∧ t.mem = s.mem) ∧
    (m.st ≠ .waiting → s.msgFirst m = true →
      let isFaulted (t : State) (code : Flt) (info : Nat) : Prop := (∀ x ∈ t.msgs, x.id ≠ m.id) ∧
        (s.takesFaults m.who m.job = true → ∃ p ∈ (t.ctx m.who).faults, p.code = code ∧ p.info = BitVec.ofNat 16 info ∧ p.f1 = m.t ∧
          p.f2 = m.t ∧ p.word = m.word ∧ p.slot = m.slot)
      ((s.jobNo m.job).sendsHere m.t = false → s.heldOn (s.msgLinks m) = false →
        (s.downOn (s.msgLinks m) = none →
          (∀ v, exec (.messageArrival (.abroad m.id (.value v))) s = .next { s with msgs := s.msgs.filter fun x => x.id != m.id }) ∧
          (∃ t, exec (.messageArrival (.abroad m.id .tilemap)) s = .next t ∧ isFaulted t .tilemap 0) ∧
          (∀ info, ∃ t, exec (.messageArrival (.abroad m.id (.link info))) s = .next t ∧ isFaulted t .link info) ∧
          ∃ t, exec (.messageArrival (.abroad m.id .closed)) s = .next t ∧ isFaulted t .engine 21) ∧
        ∀ l, s.downOn (s.msgLinks m) = some l →
          ∀ a, ∃ t, exec (.messageArrival (.abroad m.id a)) s = .next t ∧ isFaulted t .link (downInfo l)) ∧
      ∀ u, (s.jobNo m.job).sendsHere m.t = true → m.tile = some u → s.heldOn (s.msgLinks m) = false →
        (∀ l, s.downOn (s.msgLinks m) = some l →
          ∃ t, exec (.messageArrival (.here m.id)) s = .next t ∧ t.mem = s.mem ∧ (t.tile u).rq m.q = (s.tile u).rq m.q ∧
            isFaulted t .link (downInfo l)) ∧
        (s.downOn (s.msgLinks m) = none → let r := (s.tile u).rq m.q
        ∃ t, exec (.messageArrival (.here m.id)) s = .next t ∧ t.mem = s.mem ∧
          (r.opened = true → r.entries.length < 16 → (t.tile u).rq m.q = { r with entries := r.entries ++ [(m.value, m.header)] } ∧
            (∀ x ∈ t.msgs, x.id ≠ m.id) ∧ ∀ d, t.ctx d = s.ctx d) ∧
          (r.opened = true → 16 ≤ r.entries.length → (t.tile u).rq m.q = r ∧ (∀ x ∈ t.msgs, x.id = m.id → x.st = .held) ∧
            ∀ d, t.ctx d = s.ctx d) ∧
          (r.opened = false → (t.tile u).rq m.q = r ∧ isFaulted t .engine 21)))) ∧
  (∀ (s : State) (v : VisitMsg) (j : Job), s.memberJob v.grp v.member = some j →
    let source := (v.header.extractLsb' 16 8).toNat
    let answered (a : PeerAnswer) : Prop := exec (.messageArrival (.visit v)) s = .next (s.answerMsg v a)
    (j.phys (v.t.extractLsb' 12 2).toNat (v.t.extractLsb' 8 4).toNat (v.t.extractLsb' 4 4).toNat = none → answered .tilemap) ∧
    ∀ u, j.phys (v.t.extractLsb' 12 2).toNat (v.t.extractLsb' 8 4).toNat (v.t.extractLsb' 4 4).toNat = some u →
    let q := (v.t.extractLsb' 0 2).toNat
    let r := (s.tile u).rq q
    (s.visit v.grp source u = .wait → exec (.messageArrival (.visit v)) s = .next s) ∧
    (∀ info, s.visit v.grp source u = .ended info → answered (.link info)) ∧
    (s.visit v.grp source u = .comes →
      (j.qx.getLsbD q = true → answered .closed) ∧
      (j.qx.getLsbD q = false → (∀ x ∈ s.inbound, x.tile = u → x.q ≠ q) →
        (r.opened = false → ∃ t, exec (.messageArrival (.visit v)) s = .next t ∧ (∀ n, (t.tile n).rqs = (s.tile n).rqs) ∧
          t.inbound = s.inbound ∧ t.peerOut = (s.answerMsg v .closed).peerOut ∧ ∀ d, t.ctx d = s.ctx d) ∧
        (r.opened = true → r.entries.length < 16 → ∃ t, exec (.messageArrival (.visit v)) s = .next t ∧
          (t.tile u).rq q = { r with entries := r.entries ++ [(v.value, v.header)] } ∧ t.inbound = s.inbound ∧
          t.peerOut = (s.answerMsg v (.value 0)).peerOut ∧ ∀ d, t.ctx d = s.ctx d) ∧
        (r.opened = true → 16 ≤ r.entries.length → ∃ t, exec (.messageArrival (.visit v)) s = .next t ∧
          (t.tile u).rq q = r ∧ t.inbound = s.inbound ++ [{ job := j.id, tile := u, q := q, msg := v }] ∧ t.peerOut = s.peerOut ∧
          ∀ d, t.ctx d = s.ctx d)))) ∧
  ∀ (s : State) (tile : Nat) (j : Job), s.job? j.id = some j →
    let ring := j.ring tile
    tile ∈ ring → s.heldOn (ringLinks ring) = false →
    (∀ u ∈ ring, u < 576 ∧ ∃ e, (s.tile u).rotOf j.id = some e ∧ e.2.1.who.tile = u) →
    let failed (code : Flt) (info : Nat) : Prop := ∃ t, exec (.rotRound tile j.id) s = .next t ∧ t.mem = s.mem ∧
      ∀ u ∈ ring, ∀ e, (s.tile u).rotOf j.id = some e → (s.ctx e.2.1.who).exit = none →
        ∃ p ∈ (t.ctx e.2.1.who).faults, p.code = code ∧ p.info = BitVec.ofNat 16 info ∧ p.f2 = lo64 e.2.1.t ∧
          p.word = e.2.1.word ∧ p.slot = e.2.1.slot ∧
          p.f1 = if code = .engine then lo64 e.2.1.t else j.swatchVa u ((lo64 e.2.1.t).toNat % 256)
    let joined (w : W64) : Prop := ∀ u ∈ ring, ∀ e, (s.tile u).rotOf j.id = some e → lo64 e.2.1.t = w
    ((∀ w, ¬joined w) → failed .engine 22) ∧
    ∀ w, joined w →
      let sw := (w.extractLsb' 0 8).toNat
      let owned : Prop := ∀ u ∈ ring, (s.tile u).owner.get 0 ((j.swbase + sw) % 256) = 3
      (∀ l, s.downOn (ringLinks ring) = some l → failed .link (downInfo l)) ∧
      (s.downOn (ringLinks ring) = none → ¬owned → failed .owner 0) ∧
      (s.downOn (ringLinks ring) = none → owned → 2 ≤ ring.length →
        (∃ u ∈ ring, ∃ b, b < 4096 ∧ (swatchLoc j u sw + b) / 8 ∈ s.poison) → failed .poison 0) ∧
      (s.downOn (ringLinks ring) = none → owned → (∀ u ∈ ring, (s.tile u).cmps = [] ∧ (s.tile u).wpops = []) →
        (2 ≤ ring.length → ∀ u ∈ ring, ∀ b, b < 4096 → (swatchLoc j u sw + b) / 8 ∉ s.poison) →
        ∃ t, exec (.rotRound tile j.id) s = .next t ∧
          (∀ i u v, ring[i]? = some u → ring[if w.getLsbD 8 then (i + 1) % ring.length else (i + ring.length - 1) % ring.length]? = some v →
            ∀ b, b < 4096 → Memory.read t.mem (swatchLoc j u sw + b) = Memory.read s.mem (swatchLoc j v sw + b)) ∧
          (∀ a, (∀ u ∈ ring, a < swatchLoc j u sw ∨ swatchLoc j u sw + 4096 ≤ a) → Memory.read t.mem a = Memory.read s.mem a) ∧
          ∀ u ∈ ring, ∀ e, (s.tile u).rotOf j.id = some e →
            t.ctx e.2.1.who = (s.ctx e.2.1.who).landRec 13 e.2.2 (oneWord (BitVec.ofNat 64 ring.length)))
/-- (R55, R176 to R181, R183, R185, R189 to R191, R193, R194, R332) The forms of evt complete, each in its place in the order of
its word. A request that its checks pass sets out for its line; wait and lock block their context until it is answered, and unlock
gives up the line at once. chain names the line above; watch arms and unwatch disarms a comparator; wpop takes the oldest token
that its job may take, or blocks until there is one; phase blocks for the end of the phase and ptry does not, and each makes one
arrival a phase. Otherwise the first check faults; FREC1 is T, the line, or the pointer of watch (R355).
Points that the rules leave open stand as the model reads them (log 11, log 17). -/
def Obligations.EventForms : Prop :=
  ∀ s : State, s.trig.late = false → noneLate s = true → let c := s.trig.who
    let w := s.opT64
    let j := s.jobFor c
    let k := 32 * clusterOf c.tile + (w.extractLsb' 0 5).toNat
    let l := s.line k
    let settled (i : Instr) (check : Option Raised) (done : Prop) : Prop :=
      (check = none → done) ∧ ∀ code info f1, check = some (code, info, f1) → traps i s code info f1
    let ninth : Option Raised := if hasRoom s 14 then none else some (0x16, 2, w)
    let holds := s.self.mutex.contains (32 * clusterOf c.tile + (w.extractLsb' 0 5).toNat)
    let others (t : State) : Prop := (∀ d, d ≠ c → t.ctx d = s.ctx d) ∧ t.mem = s.mem ∧ t.lines = s.lines
    settled .evtArrive (lineCheck s [1]) (∃ t, exec .evtArrive s = .next t ∧ requested s t .arrive ∧ t.self = s.self) ∧
    settled .evtWait ((lineCheck s [1, 3]).or ninth)
      (∃ t, exec .evtWait s = .next t ∧ requested s t .wait ∧ t.self = waitsFor s.self s.fresh (.event s.fresh s.trig.word s.trig.slot w)) ∧
    settled .evtLock ((lineCheck s [2]).or ((if holds then some (0x13, 0, (w.extractLsb' 0 5).zeroExtend 64) else none).or ninth))
      (∃ t, exec .evtLock s = .next t ∧ requested s t .lock ∧ t.self = waitsFor s.self s.fresh (.event s.fresh s.trig.word s.trig.slot w)) ∧
    settled .evtUnlock ((lineCheck s [2]).or (if holds then none else some (0x16, 5, w)))
      (∃ t, exec .evtUnlock s = .next t ∧ requested s t .unlock ∧ t.self = { s.self with mutex := s.self.mutex.erase k }) ∧
    settled .evtSet (lineCheck s [3]) (∃ t, exec .evtSet s = .next t ∧ requested s t .set ∧ t.self = s.self) ∧
    settled .evtClear (lineCheck s [3]) (∃ t, exec .evtClear s = .next t ∧ requested s t .clear ∧ t.self = s.self) ∧
    settled .chain (if w.extractLsb' 17 47 ≠ 0 ∨ w.extractLsb' 5 5 ≠ 0 ∨ w.extractLsb' 15 2 = 3 then some (0x01, 0, w)
        else if modeSeen s (w.extractLsb' 0 5).toNat ≠ 1 then some (0x16, 3, w)
        else if l.arr ≠ 0 ∨ l.waiters ≠ [] then some (0x16, 4, w) else none)
      (∃ t, exec .chain s = .next t ∧ t.line k = { l with
          clevel := w.extractLsb' 15 2
          cline := w.extractLsb' 10 5 } ∧
        (∀ n, n ≠ k → t.line n = s.line n) ∧ (∀ d, t.ctx d = s.ctx d) ∧ t.mem = s.mem) ∧
    settled .watch (watchCheck s) (∃ t, exec .watch s = .next t ∧ others t ∧ t.self = s.self ∧
      let i := (w.extractLsb' 0 3).toNat
      (∃ b, (t.tile c.tile).cmps.get Comparator.init i =
        { armed := true, base := b, len := (s.opPort64 14 1).toNat, tag := w.extractLsb' 8 8, shift := 4096 * j.swbase
          pending := ((s.tile c.tile).cmps.get Comparator.init i).pending } ∧ 2 ^ 20 * c.tile + b = localLoc s c (s.opPort64 14 0)) ∧
      (∀ n, n ≠ i → (t.tile c.tile).cmps.get Comparator.init n = (s.tile c.tile).cmps.get Comparator.init n) ∧
      (t.tile c.tile).wakeq = (s.tile c.tile).wakeq) ∧
    settled .unwatch (if w.extractLsb' 3 61 ≠ 0 then some (0x01, 0, w) else if j.cmpx.getLsbD (w.extractLsb' 0 3).toNat then some (0x16, 23, w) else none)
      (∃ t, exec .unwatch s = .next t ∧ others t ∧ t.self = s.self ∧
        ((t.tile c.tile).cmps.get Comparator.init (w.extractLsb' 0 3).toNat).armed = false ∧
        ((t.tile c.tile).cmps.get Comparator.init (w.extractLsb' 0 3).toNat).pending = none ∧
        (∀ n, n ≠ (w.extractLsb' 0 3).toNat → (t.tile c.tile).cmps.get Comparator.init n = (s.tile c.tile).cmps.get Comparator.init n) ∧
        (t.tile c.tile).wakeq = (s.tile c.tile).wakeq) ∧
    settled .wpop ninth (∃ t, exec .wpop s = .next t ∧
      let takes (x : Who) (q : W64) : Bool := !(s.jobFor x).cmpx.getLsbD (q.extractLsb' 20 3).toNat
      ((∀ p ∈ (s.tile c.tile).wpops, (s.tile c.tile).wakeq.find? (takes p.1) = none) →
        (∀ q, (s.tile c.tile).wakeq.find? (takes c) = some q → s.self.block = [] → (∃ u, landsAtOnce s u 14 (oneWord q) ∧
            t.self = { u.self with woken := beforeIssue s c.tile }) ∧ t.mem = s.mem ∧ t.lines = s.lines ∧ ((s.tile c.tile).wakeLate = [] → (∀ e ∈ (s.tile c.tile).cmps, e.2.pending = none) →
            others t ∧ (t.tile c.tile).wakeq = (s.tile c.tile).wakeq.erase q)) ∧
        ((s.tile c.tile).wakeq.find? (takes c) = none → others t ∧ t.self = waitsFor s.self s.fresh (.wpop s.fresh) ∧
          (t.tile c.tile).wpops = (s.tile c.tile).wpops ++ [(c, s.fresh)] ∧ (t.tile c.tile).wakeq = (s.tile c.tile).wakeq))) ∧
    settled .evtPhase ninth (∃ t, exec .evtPhase s = .next t ∧ others t ∧
      (s.self.ptry = none → t.self = { waitsFor s.self s.fresh (.phase s.fresh j.phase) with arriving := some (j.phase, s.fresh) }) ∧
      (s.self.ptry = some j.phase → t.self = { waitsFor s.self s.fresh (.phase s.fresh j.phase) with ptry := none }) ∧
      (∀ q, s.self.ptry = some q → q ≠ j.phase → { t.self with ptry := some q } =
        ({ s.self with
          bank := { s.self.bank with outst := s.self.bank.outst ++ [{ key := 14, id := s.fresh, res := none }] } } : Ctx).landRec 14
            s.fresh (oneWord (statusWord j.phase j.abort false)) ∧ t.self.ptry = none)) ∧
    settled .ptry ninth (∃ t, exec .ptry s = .next t ∧ others t ∧
      (s.self.ptry = some j.phase → landsAtOnce s t 14 (oneWord (statusWord j.phase j.abort true))) ∧
      (s.self.ptry ≠ some j.phase → t.self.arriving = some (j.phase, s.fresh) ∧ t.self.ptry = some j.phase ∧
        { t.self with
          arriving := s.self.arriving
          ptry := s.self.ptry } =
        ({ s.self with
          bank := { s.self.bank with outst := s.self.bank.outst ++ [{ key := 14, id := s.fresh, res := none }] } } : Ctx).landRec 14
            s.fresh (oneWord (statusWord j.phase j.abort true))))

/-- (R179 to R181, R183, R184, R353, R363, R364) A request that can reach a line of its job, and an ARRIVE or RELEASE that reaches its line,
are served:
no other line and no byte of memory changes. arrive is counted, or with it a wait that had not arrived; a wait whose generation is
over, or whose flag is set, completes; a mutex goes to the one who asks or, when it is given up, to the first who waits. A message between lines whose way goes
over a link that is down ends there; a request faults there with FLT_LINK, and its context is no longer blocked and still holds the line of
an unlock. A request that cannot reach its line yet waits, and one for a line that is its job's no more is dropped.
Points that the rules leave open stand as the model reads them (log 17, log 18). -/
def Obligations.LineEvents : Prop :=
  (∀ (s : State) (r : EvReq), s.evreqs.find? (fun x => x.id == r.id) = some r → s.canReach r = false → exec (.lineRequest r.id) s = .next s) ∧
  (∀ (s : State) (r : EvReq) (x : Nat), s.evreqs.find? (fun x => x.id == r.id) = some r → s.canReach r = true → s.downOn r.links = some x →
    s.takesFaults r.who r.job = true → ∃ t, exec (.lineRequest r.id) s = .next t ∧ t.mem = s.mem ∧ t.lines = s.lines ∧
      (∀ x ∈ t.evreqs, x.id ≠ r.id) ∧ (∀ d, d ≠ r.who → t.ctx d = s.ctx d) ∧
      (t.ctx r.who).block = (s.ctx r.who).block.filter (fun b => !b.isEvent r.rid) ∧
      (t.ctx r.who).mutex = (s.ctx r.who).mutex ++ (if r.kind = .unlock then [r.line] else []) ∧
      ∃ p ∈ (t.ctx r.who).faults, p.code = .link ∧ p.info = BitVec.ofNat 16 (downInfo x) ∧ p.f1 = r.t ∧ p.f2 = r.t ∧ p.word = r.word ∧
        p.slot = r.slot) ∧
  (∀ (s : State) (r : EvReq), s.evreqs.find? (fun x => x.id == r.id) = some r → s.canReach r = true → s.downOn r.links = none →
    (s.line r.line).job ≠ r.job → exec (.lineRequest r.id) s = .next { s with evreqs := s.evreqs.filter fun x => x.id != r.id }) ∧
  (∀ (s : State) (r : EvReq), s.evreqs.find? (fun x => x.id == r.id) = some r → s.canReach r = true → s.downOn r.links = none →
    (s.line r.line).job = r.job → ((s.line r.line).waiters.map fun w => evIndex w.1).Nodup →
    (∀ w ∈ (s.line r.line).waiters, evIndex w.1 ≠ evIndex r.who) →
    let k := r.line
    let l := s.line k
    let b : BitVec 32 := 1#32 <<< evIndex r.who
    let mine := (r.who, r.rid)
    let quiet (t : State) : Prop := ∀ d, t.ctx d = s.ctx d
    let only (t : State) (x : Ctx) : Prop := ∀ d, t.ctx d = if d = r.who then x else s.ctx d
    ∃ t, exec (.lineRequest r.id) s = .next t ∧ t.mem = s.mem ∧ (∀ n, n ≠ k → t.line n = s.line n) ∧ (∀ x ∈ t.evreqs, x.id ≠ r.id) ∧
      (r.kind = .arrive → countsAt s t k { l with
        rel := l.rel &&& ~~~b
        pend := l.pend ||| b }) ∧
      (r.kind = .wait → l.mode = 3 → l.flag = true → t.line k = l ∧ only t (wokenWith s r.who r.rid 0)) ∧
      (r.kind = .wait → l.mode = 3 → l.flag = false → t.line k = { l with waiters := l.waiters ++ [mine] } ∧ quiet t) ∧
      (r.kind = .wait → l.mode ≠ 3 → l.rel.getLsbD (evIndex r.who) = true → t.line k = { l with rel := l.rel &&& ~~~b } ∧
        only t (wokenWith s r.who r.rid (l.gen.zeroExtend 64))) ∧
      (r.kind = .wait → l.mode ≠ 3 → l.rel.getLsbD (evIndex r.who) = false → l.pend.getLsbD (evIndex r.who) = true →
        t.line k = { l with waiters := l.waiters ++ [mine] } ∧ quiet t) ∧
      (r.kind = .wait → l.mode ≠ 3 → l.rel.getLsbD (evIndex r.who) = false → l.pend.getLsbD (evIndex r.who) = false →
        countsAt s t k { l with
          waiters := l.waiters ++ [mine]
          rel := l.rel &&& ~~~b
          pend := l.pend ||| b }) ∧
      (r.kind = .lock → l.owner = none → t.line k = { l with owner := some r.who } ∧
        only t { wokenWith s r.who r.rid 0 with mutex := (s.ctx r.who).mutex ++ [k] }) ∧
      (r.kind = .lock → l.owner ≠ none → t.line k = { l with waiters := l.waiters ++ [mine] } ∧ quiet t) ∧
      (r.kind = .unlock → l.waiters = [] → t.line k = { l with owner := none } ∧ quiet t) ∧
      (∀ w ws, r.kind = .unlock → l.waiters = w :: ws → t.line k = { l with
          owner := some w.1
          waiters := ws } ∧
        ∀ d, t.ctx d = if d = w.1 then { wokenWith s d w.2 0 with mutex := (s.ctx d).mutex ++ [k] } else s.ctx d) ∧
      (r.kind = .set → t.line k = { l with
          flag := true
          waiters := [] } ∧
        (∀ w ∈ l.waiters, t.ctx w.1 = wokenWith s w.1 w.2 0) ∧ ∀ d, (∀ w ∈ l.waiters, w.1 ≠ d) → t.ctx d = s.ctx d) ∧
      (r.kind = .clear → t.line k = { l with flag := false } ∧ quiet t)) ∧
  ∀ (s : State) (m : LineMsg), s.lmsgs.find? (fun x => x.id == m.id) = some m → (s.line m.lower).job ≠ none →
    (s.line m.lower).job = (s.line m.upper).job → s.heldOn m.links = false →
    let s1 := { s with lmsgs := s.lmsgs.filter fun x => x.id != m.id }
    let l := s.line (if m.release then m.lower else m.upper)
    (∀ x, s.downOn m.links = some x → exec (.upperArrive m.id) s = .next (if m.release then s else s1) ∧
      exec (.upperRelease m.id) s = .next (if m.release then s1 else s)) ∧
    ((l.waiters.map fun w => evIndex w.1).Nodup → s.downOn m.links = none →
    (m.release = false → ∃ t, exec (.upperArrive m.id) s = .next t ∧ t.mem = s.mem ∧ (∀ n, n ≠ m.upper → t.line n = s.line n) ∧
      countsAt s1 t m.upper { l with arrived := l.arrived ++ [m.lower] }) ∧
    (m.release = true → ∃ t, exec (.upperRelease m.id) s = .next t ∧ t.mem = s.mem ∧ (∀ n, n ≠ m.lower → t.line n = s.line n) ∧
      releasesAt s1 t m.lower l))

/-- (R162, R163, R192 to R196, R345, R346, R349, R363, R366) A context whose accesses before its arrival have all performed is
registered. Once every participant has, the phase advances: each staged store of the phase is in memory, with D set in its leaf entry, and
nothing else is, or, after a link fault, none is; PHASE counts up, ABORT tells which, and every context blocked for the phase goes on with
its status. A hot replace that is due then gives every context that has not halted the new image's rejoin entry, the registers of its
layout and empty banks, or fails (REASON 3 or 10); a snapshot that is due gives the snapshot's identifier tables of its own and writes
the tile images, or fails (REASON 10). A watchdog that has
expired ends the phase aborted and fails the job, REASON 5; what another member sends counts here, or is kept for a job to come, and its
failure fails the job, REASON 11.
Points that the rules leave open stand as the model reads them (log 17). -/
def Obligations.PhaseEvents : Prop :=
  (∀ (s : State) (c : Who) (p : BitVec 32) (id : Nat), (s.ctx c).arriving = some (p, id) →
    (∀ o ∈ s.ops, o.who = c → id ≤ o.id) → ∃ t, exec (.phaseArrivalRegister c) s = .next t ∧
      t.ctx c = { s.ctx c with
        arriving := none
        arrived := some p } ∧
      onlyContext s t c) ∧
  (∀ (s : State) (j : Job), s.job? j.id = some j → s.canAdvance j = true → j.due = [] → s.hlines = [] → s.memOk →
    (∀ u, (s.tile u).cmps = [] ∧ (s.tile u).wpops = []) →
    ∃ t k, exec (.phaseAdvance j.id) s = .next t ∧ t.job? j.id = some k ∧ k.phase = j.phase + 1 ∧ k.abort = j.touched ∧
      k.touched = j.marks.contains (j.phase + 1) ∧ k.dog = 0 ∧ k.st = j.st ∧
      (∀ m, m ∈ k.members ↔ m ∈ j.members ∧ m.2 ≠ j.phase) ∧
      (∀ g, g ∈ t.staged ↔ g ∈ s.staged ∧ ¬(g.job = j.id ∧ g.phase = j.phase)) ∧
      (j.touched = true → t.mem = s.mem) ∧ (j.touched = false → stagedCommitted s t j) ∧
      ∀ c ∈ j.whos, ∀ rid p, (s.ctx c).block = [.phase rid p] → p ≠ j.phase + 1 →
        t.ctx c = { (s.ctx c).landRec 14 rid (oneWord (statusWord (j.phase + 1) j.touched false)) with
          block := []
          woken := beforeIssue s c.tile }) ∧
  (∀ (s : State) (j : Job) (q : Nat) (p : Packet), s.job? j.id = some j → s.canAdvance j = true → j.st = .running → j.due = [(q, p)] →
    s.hlines = [] → s.memOk → (∀ u, (s.tile u).cmps = [] ∧ (s.tile u).wpops = []) →
    let u := (s.endStaged j).updJob j.id Job.advance
    let advanced (t : State) (k : Job) : Prop := exec (.phaseAdvance j.id) s = .next t ∧ t.job? j.id = some k ∧ k.phase = j.phase + 1 ∧
      k.abort = j.touched ∧ k.st = .running ∧ k.due = []
    let refusedWith (reason : BitVec 16) : Prop := ∃ t k, advanced t k ∧ k.obj = j.obj ∧ t.mem = u.mem ∧ t.snaps = s.snaps ∧
      packetEnds s t q p.seq 3 reason
    (p.kind ≠ 7 → let new := s.obj? q (p.body.getD 1 0).toNat
      (new = none → refusedWith 3) ∧
      ∀ n, new = some n → (n.replaces j.obj = false → refusedWith 10) ∧
        (n.replaces j.obj = true → u.canReplace j n = false →
          ∃ t k, exec (.phaseAdvance j.id) s = .next t ∧ t.job? j.id = some k ∧ k.st = .failed ∧ packetEnds s t q p.seq 3 10) ∧
        (n.replaces j.obj = true → u.canReplace j n = true → ∃ t k, advanced t k ∧ k.obj = n ∧ t.mem = u.mem ∧ packetEnds s t q p.seq 2 0 ∧
          ∀ c ∈ j.whos, ((s.ctx c).exit ≠ none → (t.ctx c).exit = (s.ctx c).exit) ∧
            ((s.ctx c).exit = none → ∀ o e, ({ j with obj := n } : Job).roleAt c.tile = some o → o.rejoin = some e → ∀ rid p,
              (s.ctx c).block = [.phase rid p] → p ≠ j.phase + 1 →
              rejoins (s.ctx c) (t.ctx c) o e rid (oneWord (statusWord (j.phase + 1) j.touched false))))) ∧
    (p.kind = 7 → let asid := (p.body.getD 1 0).toNat
      let area := (p.body.getD 2 0).toNat
      let bad := 65536 ≤ asid ∨ area % 4096 ≠ 0 ∨ 768 * 2 ^ 30 < area + 2 ^ 21 * j.tiles.length
      (bad ∨ u.snapTables j.asid.toNat asid = none → refusedWith 10) ∧
      ∀ v, ¬bad → u.snapTables j.asid.toNat asid = some v → ∃ t k x, advanced t k ∧ k.obj = j.obj ∧ packetEnds s t q p.seq 2 0 ∧
        t.snaps = s.snaps ++ [x] ∧ x.queue = q ∧ x.seq = p.seq ∧ x.asid = BitVec.ofNat 16 asid ∧ x.area = area ∧ t.roots = v.roots ∧
        ((s.roots.get? j.asid.toNat).isSome = (t.roots.get? asid).isSome) ∧
        (j.swbase + j.swcnt ≤ 256 → j.tiles.Nodup → (∀ c ∈ j.whos, (s.ctx c).gcount ≤ 64 ∧ (s.ctx c).vcount ≤ 768) →
          ∀ n tile b, j.tiles[n]? = some tile → b < 4096 * j.swcnt →
            Memory.read t.mem (slotLoc area n (0x100000 + b)) = Memory.read v.mem (2 ^ 20 * tile + 4096 * j.swbase + b)))) ∧
  (∀ (s : State) (j : Job), s.job? j.id = some j → j.st = .running → j.wdog ≠ 0 → 65536 * j.wdog ≤ j.dog →
    ∃ t k, exec (.phaseWatchdogExpiry j.id) s = .next t ∧ t.job? j.id = some k ∧ k.st = .failed ∧ k.abort = true ∧
      (∀ c ∈ j.whos, (s.ctx c).job = some j.id → (t.ctx c).exit ≠ none) ∧
      ∀ e ∈ s.journal, e.queue = j.queue → e.seq = j.pseq → e.st = 1 →
        ∃ f ∈ t.journal, f.queue = e.queue ∧ f.seq = e.seq ∧ f.st = 3 ∧ f.reason = 5) ∧
  (∀ (s : State) (g m : Nat) (note : GroupNote), ∃ t, exec (.phaseGroupArrival g ⟨m, note⟩) s = .next t ∧
    ((∃ j ∈ s.jobs, goesOnIn j g) → { t with jobs := s.jobs } = s ∧ t.jobs.length = s.jobs.length ∧
      ∀ (i : Nat) (j : Job), s.jobs[i]? = some j → (goesOnIn j g ∧ j.member ≠ m ∧ m < j.gsize → t.jobs[i]? = some (toldOf j m note)) ∧
        (¬(goesOnIn j g ∧ j.member ≠ m ∧ m < j.gsize) → t.jobs[i]? = some j)) ∧
    ((∀ j ∈ s.jobs, ¬goesOnIn j g) → { t with early := s.early } = s ∧ t.early = s.early ++ [(g, m, note)])) ∧
  ∀ (s : State) (g m : Nat), ∃ t, exec (.phaseGroupMemberFailure g m) s = .next t ∧
    ∀ j, s.job? j.id = some j → goesOnIn j g → j.member ≠ m →
      ∃ k, t.job? j.id = some k ∧ k.st = .failed ∧ k.abort = true ∧
        ((∀ i ∈ s.jobs, i.group = g → i.id = j.id) → journalSays s t j 11)
/-- (R138 to R141, R143, R144) A walk of an address reads at most three entries, each found from its index in the address: without
a root, or with a table entry that is not legal, it ends with FLT_TRANSL and the level; a legal leaf answers by its R, W and COW.
An answer sets A, and D for a write, in the leaf entry that it used, and no other byte of memory changes. Each placement gives two
physical addresses two different places, and placements 1 and 2 keep every byte of a page on the home die that its entry names. -/
def Obligations.Translation : Prop :=
  (∀ (s : State) (tile asid va : Nat) (acc : Acc) (late : Bool), let r := s.translate tile asid va acc false late
    (s.roots.get? asid = none → r.2 = .bad .transl 0) ∧
    (∀ root, s.roots.get? asid = some root →
      let e0 := s.entry (paLoc (root + 8 * (va / 2 ^ 39)))
      let l1 := paLoc (nextTable e0 + 8 * (va / 2 ^ 29 % 2 ^ 10))
      let e1 := s.entry l1
      let large := e1.getLsbD 0 && e1.getLsbD 3
      let l2 := paLoc (nextTable e1 + 8 * (va / 2 ^ 19 % 2 ^ 10))
      let e2 := s.entry l2
      (tableOk e0 = false → r.2 = .bad .transl 0) ∧
      (tableOk e0 = true → large = true → r.2 = if leafOk e1 1 then leafAnswer e1 1 l1 va acc else .bad .transl 1) ∧
      (tableOk e0 = true → large = false → tableOk e1 = false → r.2 = .bad .transl 1) ∧
      (tableOk e0 = true → large = false → tableOk e1 = true →
        r.2 = if e2.getLsbD 0 && leafOk e2 2 then leafAnswer e2 2 l2 va acc else .bad .transl 2)) ∧
    (∀ loc leaf pa, r.2 = .ok loc leaf pa → s.memOk → 2 ^ 40 ≤ leaf ∧
      (∀ a, a < leaf ∨ leaf + 8 ≤ a → Memory.read r.1.mem a = Memory.read s.mem a) ∧
      r.1.entry leaf = s.entry leaf ||| (if acc ≠ .read ∧ late = false then 0x60 else 0x40)) ∧
    (∀ code level, r.2 = .bad code level → r.1 = s)) ∧
  ∀ place home stack a b : Nat, place < 3 → home < 4 → stack < 3 → (placeOf place home stack (a / 4096)).2 < 2 ^ 24 →
    (placeOf place home stack (b / 4096)).2 < 2 ^ 24 →
    (placeLoc place home stack a = placeLoc place home stack b → a = b) ∧
    (1 ≤ place → homeDie (placeLoc place home stack a) = home)

/-- (R48, R134, R138, R142, R146, R148, R152 to R160, R162 to R164, R354) The way of an access completes. An access that the TLBs
do not serve takes an entry of its die's miss table, if that has room. Translated, it leaves its tile with the storage of its bytes,
and a reduction enters its cluster's gather buffer; where translation faults, so does it, or a .nf form delivers the code; where a
page is to be copied, it waits until it has been, byte for byte, to a page of the pool; where the tables hold the copy already, the TLBs
forget the old entry. At its home it performs: a load reads, a
store or reduction writes its own bytes, a local atomic that has waited delivers what it found, an st.p is staged, in place of an earlier value of its phase, and where its home is full
takes FLT_ENGINE, INFO 1.
Points that the rules leave open stand as the model reads them (log 13). -/
def Obligations.AccessesArrive : Prop :=
  ∀ (s : State) (o : MemOp), s.op? o.id = some o →
    (∀ useTlb m, s.canTranslate o = true → s.missed o useTlb = [m] → m ∉ s.misses → exec (.translationWalk o.id useTlb) s =
      .next (if (s.missTable m.die).length < 256 then { s with misses := s.misses.filter s.missLive ++ [m] } else s)) ∧
    (∀ useTlb, s.canTranslate o = true → (s.missed o useTlb).all s.walking = true → o.kind ≠ .touch →
      let s1 := { s with misses := s.misses.filter fun m => !(s.missed o useTlb).contains m }
      let a := s1.translateOp o useTlb
      ∃ t, exec (.translationWalk o.id useTlb) s = .next t ∧ t.mem = a.s.mem ∧
        (∀ (i : Instr) (u n : Nat) (f : W512 → W64 → W64 → Nat) op, queuedForm i = some (u, o.kind) → storeForm i = some (u, n, f) →
          o.kind = .red op → a.bad = none → a.cow = none → gathersAt s t o op (a.locs.headD 0) n f) ∧
        ((∀ op, o.kind ≠ .red op) → a.bad = none → a.cow = none → ∃ x ∈ t.ops, x.id = o.id ∧ x.st = .translated ∧ x.locs = a.locs) ∧
        (a.bad = none → a.cow ≠ none → ∃ x ∈ t.ops, x.id = o.id ∧ x.st = .cow) ∧
        ∀ c l va, a.bad = some (c, l, va) →
          (o.kind.suppresses = true → ∃ x ∈ t.ops, x.id = o.id ∧ x.st = .performed ∧
            x.res = { out := 0, aux := 0, stat := BitVec.ofNat 64 c.num }) ∧
          (o.kind.suppresses = false → faultsLate s t o c (BitVec.ofNat 16 l) (BitVec.ofNat 64 va))) ∧
    (o.st = .cow → let va := ((s.translateOp o false).cow).getD (o.addr.extractLsb' 0 48).toNat
      let asid := (s.jobNo o.job).asid.toNat
      ∀ f, s.walkTables asid va false 0 = .ok f → f.ent.getLsbD 4 = false → ∃ t, exec (.copyOnWriteResolve o.id) s = .next t ∧
        t.mem = s.mem ∧ t.pool = s.pool ∧ (∃ x ∈ t.ops, x.id = o.id ∧ x.st = .waiting) ∧
        ∀ u e, t.tlbHit u asid va = some e → e.level ≠ 1 ∧ e.level ≠ 2) ∧
    (o.st = .cow → s.memOk → let va := ((s.translateOp o false).cow).getD (o.addr.extractLsb' 0 48).toNat
      let asid := (s.jobNo o.job).asid.toNat
      ∀ f, s.walkTables asid va false 0 = .ok f → f.level = 2 → f.ent.getLsbD 4 = true →
        (∀ p ps, s.pool = p :: ps → p < 2 ^ 52 → p % 2 ^ 19 = 0 → ∃ t, exec (.copyOnWriteResolve o.id) s = .next t ∧ t.pool = ps ∧
          (∃ x ∈ t.ops, x.id = o.id ∧ x.st = .waiting) ∧ (t.entry f.loc).getLsbD 4 = false ∧
          (t.entry f.loc).extractLsb' 19 33 = BitVec.ofNat 33 (p / 2 ^ 19) ∧
          (standsApart f p → ∀ b, b < 2 ^ 19 → Memory.read t.mem (pageByte f.ent p b) =
            Memory.read s.mem (pageByte f.ent ((f.ent.extractLsb' 19 33).toNat * 2 ^ 19) b)) ∧
          (t.entry f.loc).extractLsb' 0 4 = f.ent.extractLsb' 0 4 ∧ (t.entry f.loc).extractLsb' 5 14 = f.ent.extractLsb' 5 14) ∧
        (s.pool = [] → ∃ t, exec (.copyOnWriteResolve o.id) s = .next t ∧ t.mem = s.mem ∧ faultsLate s t o .cow 0 (BitVec.ofNat 64 va))) ∧
    (o.st = .translated → o.inTiles = false → mayReach s o → (∀ op w nc, o.kind ≠ .amo op w nc) → o.kind ≠ .stp → wayClear s o o.locs →
      ∃ t, exec (.pagedAccessArrival o.id) s = .next t ∧ performsAt s t o o.locs) ∧
    (∀ locs, locs = (o.kind.vas o.addr).map (s.jobNo o.job).tileLoc → wayClear s o locs →
      (s.opLocal o = false → o.inTiles = true → mayReach s o → (∀ scope, o.kind ≠ .fence scope) → (∀ op w nc, o.kind ≠ .amo op w nc) → o.kind ≠ .stp →
        ∃ t, exec (.remoteAccessArrival o.id) s = .next t ∧ performsAt s t o locs) ∧
      (s.opLocal o = true → s.mayGo o = true → o.st = .waiting → (∀ scope, o.kind ≠ .fence scope) → o.kind ≠ .stp →
        ∃ t, exec (.remoteAccessArrival o.id) s = .next t ∧ performsAt s t o locs)) ∧
    (o.kind = .stp → ∀ locs, (o.inTiles = false ∧ mayReach s o ∧ locs = o.locs) ∨
        (locs = (o.kind.vas o.addr).map (s.jobNo o.job).tileLoc ∧ ((o.inTiles = true ∧ s.opLocal o = false ∧ mayReach s o) ∨
          (s.opLocal o = true ∧ s.mayGo o = true ∧ o.st = .waiting))) → wayClear s o locs →
      let loc := locs.headD 0
      let j := o.job.getD 0
      let ph := (s.jobNo o.job).phase
      let home := if loc < 2 ^ 40 then loc / 2 ^ 20 else 576 + homeDie loc
      ∃ t, exec (.provisionalStage o.id) s = .next t ∧ t.mem = s.mem ∧
        ((∃ g ∈ s.staged, g.loc = loc ∧ g.job = j ∧ g.phase = ph) → (∀ x ∈ t.ops, x.id ≠ o.id) ∧
          t.staged = s.staged.map fun g => if g.loc = loc ∧ g.job = j ∧ g.phase = ph then { g with value := lo64 o.o1 } else g) ∧
        ((∀ g ∈ s.staged, ¬(g.loc = loc ∧ g.job = j ∧ g.phase = ph)) →
          let n := (s.staged.filter fun g => g.home == home).length
          let room := if home < 576 then 256 else 65536
          (n < room → (∀ x ∈ t.ops, x.id ≠ o.id) ∧ ∃ g, t.staged = s.staged ++ [g] ∧ g.loc = loc ∧ g.value = lo64 o.o1 ∧ g.job = j ∧
            g.phase = ph ∧ g.home = home) ∧
          (room ≤ n → t.staged = s.staged ∧ faultsLate s t o .engine 1 o.addr)))

/-- (R48, R53, R55, R149, R165, R166, R323, R353, R364) What comes back from an access completes. A reply's record lands in its
context, and the operation is outstanding no more; one that carries a status faults, and so does one whose way back goes over a link
that is down. The records of ldq, mxu and sxu come to their queue
in the order of their triggers, those of cpy, net and evt in the order of landing. A fence ends once every earlier access has performed
at its scope, and a drain lets its context go on once every one has completed; a fault after start is delivered at the next word boundary, with
QUEUED and LEVEL set. The prefetcher fetches
only lines ahead of a stream of their granule, and a prefetched line arrives.
Points that the rules leave open stand as the model reads them (log 8, log 27). -/
def Obligations.AccessesComplete : Prop :=
  (∀ (s : State) (o : MemOp), s.op? o.id = some o →
    (∀ l, o.st = .performed → o.status = none → (∀ op w nc, o.kind ≠ .amo op w nc) → s.heldOn o.backLinks = false →
      s.downOn o.backLinks = some l →
      ∃ t, exec (.queuedReply o.id) s = .next t ∧ t.mem = s.mem ∧ faultsLate s t o .link (BitVec.ofNat 16 (downInfo l)) o.addr) ∧
    (o.st = .performed → o.status = none → (∀ l ∈ o.backLinks, s.link l = .up) →
      ∃ t, exec (.queuedReply o.id) s = .next t ∧ (∀ x, x ∈ t.ops ↔ x ∈ s.ops ∧ x.id ≠ o.id) ∧
        t.ctx o.who = (s.ctx o.who).landRec (16 + o.unit) o.id o.res ∧ (∀ d, d ≠ o.who → t.ctx d = s.ctx d) ∧ t.mem = s.mem) ∧
    (∀ c info, o.st = .performed → o.status = some (c, info) →
      ∃ t, exec (.queuedReply o.id) s = .next t ∧ t.mem = s.mem ∧ faultsLate s t o c info o.addr) ∧
    (∀ scope, o.kind = .fence scope → s.fenced o.who o.job o.id scope o.dbl = true →
      exec (.fenceComplete o.id) s = .next { s with ops := s.ops.filter fun x => x.id != o.id })) ∧
  (∀ (x : Ctx) (key id : Nat) (r : Rec), x.shadow = none → (∃ o ∈ x.bank.outst, o.key = key ∧ o.id = id) →
    let y := x.landRec key id r
    { y with bank := x.bank } = x ∧ y.bank.slots = x.bank.slots ∧ y.bank.ports = x.bank.ports ∧ y.bank.fly = x.bank.fly ∧
    (∀ k, k ≠ key → y.bank.queue k = x.bank.queue k) ∧
    (key = 12 ∨ key = 13 ∨ key = 14 → y.bank.queue key = x.bank.queue key ++ [r]) ∧
    (¬(key = 12 ∨ key = 13 ∨ key = 14) → ∀ o rest, x.bank.outst.filter (fun o => o.key == key) = o :: rest →
      (∀ q ∈ o :: rest, q.res = none) → (∀ q ∈ rest, q.id ≠ o.id) →
      y.bank.queue key = x.bank.queue key ++ if o.id = id then [r] else [])) ∧
  (∀ (s : State) (c : Who), .drain ∈ (s.ctx c).block → s.drained c = true → ∃ t, exec (.drainComplete c) s = .next t ∧
    t.ctx c = { s.ctx c with block := (s.ctx c).block.erase .drain } ∧ onlyContext s t c) ∧
  (∀ (s : State) (c : Who) (p : PendFault) (ps : List PendFault), (s.ctx c).shadow = none → (s.ctx c).faults = p :: ps →
    (s.ctx c).exit = none → (s.ctx c).dbgHalt = false → (s.ctx c).woken = false → (s.ctx c).stall = 0 → (s.ctx c).idle = 0 → (s.ctx c).block = [] →
    s.agenda = [] → ∃ t, exec (.faultAfterStart c) s = .next t ∧ trapEntered (s.ctx c).applyLater (t.ctx c) ∧ (t.ctx c).faults = ps ∧
      frec0Fields (t.ctx c).frec0 (p.word % 8192) p.info true (!(s.ctx c).applyLater.xfer.isEmpty) true (p.slot % 8) p.code.num ∧
      (t.ctx c).frec1 = p.f1 ∧ (t.ctx c).frec2 = p.f2 ∧ onlyContext s t c) ∧
  ∀ (s : State) (die line : Nat),
    ((die, line, true) ∈ s.pfFly → let set := s.cache.get [] (cacheSet line)
      (set.length < 16 ∨ ∃ x ∈ set, x ≠ line ∧ s.pinned x = false) → ∃ t, exec (.prefetchLineFill die line) s = .next t ∧ (die, line) ∈ t.pfIn ∧ t.mem = s.mem ∧
      t.tiles = s.tiles) ∧
    ((die, line, true) ∉ s.pfFly → (∀ x, s.streams.get? (line / 16) = some x → ¬(x.up = true ∧ x.line < line) ∧
        ¬(x.down = true ∧ line < x.line)) → exec (.prefetchLineFill die line) s = .next s) ∧
    (∀ x, (die, line, true) ∉ s.pfFly → die ∈ s.prefetch → homeDie (256 * line) = die → 2 ^ 40 ≤ 256 * line →
      line ∉ s.cache.get [] (cacheSet line) → s.streams.get? (line / 16) = some x →
      (x.up = true ∧ x.line < line) ∨ (x.down = true ∧ line < x.line) → ∃ t, exec (.prefetchLineFill die line) s = .next t ∧ (die, line, true) ∈ t.pfFly ∧
        t.dctrs.get 0 (16 * die + 2) = s.dctrs.get 0 (16 * die + 2) + (if die ∈ s.dfrozen then 0 else 1) ∧ t.mem = s.mem ∧
        t.tiles = s.tiles)

/-- (R159 to R161, R167, R171) The messages of gathering complete. A JOIN for which the home has room, and holds no access, is noted
in the line's mask and accepted, otherwise refused; a refusal or a RECALL makes the line leave its buffer in one FLUSH. A FLUSH clears
its cluster's bit and applies each element to memory by its operation, with no other byte of memory changed; the access that waited
for the last bit then performs on what is there. A FLUSH of a cluster that the home has refused for an access which it holds waits for
that access; one of a line that the home has no entry of, or has refused for want of room, is applied at once. Other lines stay.
Points that the rules leave open stand as the model reads them (log 8). -/
def Obligations.GatherEvents : Prop :=
  ∀ (s : State) (m : GMsg), gatherGoes s m →
    (m.kind = .join → s.gfirst m = true → m.cluster < 72 → ∃ t g, exec (.gatherJoin m.id) s = .next t ∧ t.mem = s.mem ∧
      t.gmsgs = s.gmsgs.filter (fun x => x.id != m.id) ++ [g] ∧ g.cluster = m.cluster ∧ g.line = m.line ∧
      (s.lineHolds m.line = false → (s.holders m.line ≠ 0 ∨ s.pinRoom m.line = true) → g.kind = .accept ∧
        t.holders m.line = s.holders m.line ||| (1#72 <<< m.cluster) ∧ ∀ l, l ≠ m.line → t.holders l = s.holders l) ∧
      (s.lineHolds m.line = true → g.kind = .refuse ∧ (entryOf t m.line).refused = (entryOf s m.line).refused ++ [m.cluster] ∧
        ∀ l, t.holders l = s.holders l) ∧
      (s.lineHolds m.line = false → s.holders m.line = 0 → s.pinRoom m.line = false → g.kind = .refuse ∧ t.hlines = s.hlines)) ∧
    (m.kind = .accept → exec (.gatherAccept m.id) s = .next { s with gmsgs := s.gmsgs.filter fun x => x.id != m.id }) ∧
    (∀ e : GKind × Instr, e ∈ [(GKind.refuse, Instr.gatherRefuse m.id), (.recall, .gatherRecall m.id)] → m.kind = e.1 →
      ∃ t, exec e.2 s = .next t ∧ t.mem = s.mem ∧
        (∀ l, s.gline? m.cluster m.line = some l → (∀ x ∈ t.glines, ¬(x.cluster = m.cluster ∧ x.line = m.line)) ∧
          ∃ g, t.gmsgs = s.gmsgs.filter (fun x => x.id != m.id) ++ [g] ∧ g.cluster = m.cluster ∧ g.line = m.line ∧
            g.kind = .flush l.op l.elems l.ops) ∧
        (s.gline? m.cluster m.line = none → t = { s with gmsgs := s.gmsgs.filter fun x => x.id != m.id })) ∧
    ∀ op elems ops, m.kind = .flush op elems ops → s.gfirst m = true → m.cluster < 72 →
      (s.hlines.map (·.line)).Nodup → 2 ^ 40 ≤ 64 * m.line →
      let h := entryOf s m.line
      let waits := m.cluster ∈ h.refused ∧ (s.lineHolds m.line = true ∨ h.late ≠ [])
      (waits → ∃ t, exec (.gatherFlush m.id) s = .next t ∧ t.mem = s.mem ∧ t.ops = s.ops ∧
        entryOf t m.line = { h with
          refused := h.refused.erase m.cluster
          late := h.late ++ [m] } ∧ ∀ l, l ≠ m.line → entryOf t l = entryOf s l) ∧
      ∀ (i : Instr) (n : Nat) (f : W512 → W64 → W64 → Nat), s.memOk → (elems.map fun e => e.1).Nodup →
      queuedForm i = some (6, .red op) → storeForm i = some (6, n, f) →
      (∀ e ∈ elems, e.2.toNat < 2 ^ (8 * n)) → ¬waits → let left := h.mask &&& ~~~(1#72 <<< m.cluster)
        ∃ t, exec (.gatherFlush m.id) s = .next t ∧ t.holders m.line = left ∧ (∀ l, l ≠ m.line → t.holders l = s.holders l) ∧
        (h.held = [] ∨ left ≠ 0 → (∀ x, x ∈ t.ops ↔ x ∈ s.ops ∧ x.id ∉ ops) ∧
          (∀ a, (∀ e ∈ elems, a < 64 * m.line + n * e.1 ∨ 64 * m.line + n * e.1 + n ≤ a) → Memory.read t.mem a = Memory.read s.mem a) ∧
          ∀ e ∈ elems, Memory.readLe t.mem (64 * m.line + n * e.1) n =
            f (e.2.zeroExtend 512) (BitVec.ofNat 64 (Memory.readLe s.mem (64 * m.line + n * e.1) n)) 0 % 2 ^ (8 * n)) ∧
        ∀ o, s.op? o.id = some o → o.id ∉ ops → h.held = [.op o.id] → o.st = .held → left = 0 →
          (∀ l ∈ o.locs, 2 ^ 40 ≤ l ∧ (l / 64 = m.line ∨ s.holders (l / 64) = 0)) → s.poison = [] →
          ∀ r, deliveredOf o (leNat (o.locs.map (Memory.read t.mem))) = some r → ∃ x ∈ t.ops, x.id = o.id ∧ x.st = .performed ∧ x.res = r

/-- (R312 to R318, R322 to R325, R363, R364) Remote atomics complete. One sets out under its tag, enters the switches of its
route one by one, and combines with the request that it meets there; the combined operand does to memory what the two
would do one after the other, and the later is answered with what the earlier would have left. At its home it is one indivisible step,
or a status; across packages a sequence number is applied once. A reply reaches its tile, splitting where its request combined. A link
that is down on the way makes the reply carry FLT_LINK.
Points that the rules leave open stand as the model reads them (log 22, log 23). -/
def Obligations.AtomicsTravel : Prop :=
  (∀ (s : State) (o : MemOp), s.op? o.id = some o → s.canDepart o = true → s.areqs = [] → s.swIn = [] →
    (o.kind.cross o.o3 = false ∨ (o.o3.toNat % 256 = (s.jobNo o.job).member ∧ (o.kind.vas o.addr).all (s.jobNo o.job).mapped = true) →
      ∃ t r, exec (.switchRequestEntry o.id) s = .next t ∧ t.areqs = [r] ∧ r.id = o.id ∧ r.tag = o.tag ∧
      r.operand = lo64 o.o1 ∧ t.mem = s.mem ∧ (∃ x ∈ t.ops, x.id = o.id ∧ x.st = .moving) ∧
      (r.at' = none ∧ r.path.length = 1 ∨ r.at' = some o.who.tile ∧ r.path ≠ [] ∧
        r.since = s.cycle ∧ r.window = windowOf s o)) ∧
    (o.kind.cross o.o3 = true → o.o3.toNat % 256 = (s.jobNo o.job).member → (o.kind.vas o.addr).all (s.jobNo o.job).mapped = false →
      ∃ t, exec (.switchRequestEntry o.id) s = .next t ∧ t.mem = s.mem ∧ faultsLate s t o .tilemap 0 o.addr) ∧
    (o.kind.cross o.o3 = true → o.o3.toNat % 256 ≠ (s.jobNo o.job).member →
      (s.downOn (s.abroadLinks o) = none → ∃ t, exec (.switchRequestEntry o.id) s = .next t ∧
        t.mem = s.mem ∧ (∃ x ∈ t.ops, x.id = o.id ∧ x.st = .moving) ∧ ∃ ws, t.peerOut = s.peerOut ++ [(3, ws)] ∧
          namesAtomic s o ws) ∧
      ∀ l, s.downOn (s.abroadLinks o) = some l → ∃ t, exec (.switchRequestEntry o.id) s = .next t ∧ t.mem = s.mem ∧
        t.peerOut = s.peerOut ∧ faultsLate s t o .link (BitVec.ofNat 16 (downInfo l)) o.addr)) ∧
  (∀ (s : State) (r : AReq) (o : MemOp) (i : Instr) (sw next : Nat) (rest : List Nat), s.op? r.id = some o → o.st = .moving → s.areqs = [r] →
    i = .switchRequestEntry r.id ∨ (i = .combineWindowExpiry r.id ∧ r.at' ≠ none) → r.path = sw :: next :: rest → mayHop s r o sw →
    ∃ t, exec i s = .next t ∧ t.mem = s.mem ∧
      t.areqs = [{ r with
        at' := some sw
        path := next :: rest
        seen := sw :: r.seen
        since := s.cycle
        window := windowOf s o }]) ∧
  (∀ (s : State) (r : AReq) (o : MemOp) (a sw next l : Nat) (rest : List Nat), s.op? r.id = some o → o.st = .moving → s.areqs = [r] →
    (∃ op w nc, o.kind = .amo op w nc) → r.at' = some a → r.path = sw :: next :: rest → s.headOf r o = true →
    s.portFree r.at' sw = true → linkBetween a sw = some l → s.link l = .down → ∃ t, exec (.switchRequestEntry r.id) s = .next t ∧
      t.mem = s.mem ∧ t.areqs = [] ∧
      t.areplies = s.areplies ++ [{ id := r.id, value := 0, status := some (.link, BitVec.ofNat 16 (downInfo l)), path := r.seen }]) ∧
  (∀ (s : State) (p r : AReq) (q o : MemOp) (sw next : Nat) (rest : List Nat), s.op? p.id = some q → s.op? r.id = some o → p.id ≠ r.id →
    o.st = .moving → q.locs ≠ [] → o.locs ≠ [] →
    s.areqs = [p, r] → p.at' = some sw → r.at' ≠ some sw → r.path = sw :: next :: rest → mayHop s r o sw →
    s.canCombine sw p q o = true → ∃ t b, exec (.switchRequestEntry r.id) s = .next t ∧ t.mem = s.mem ∧ t.bridles = b :: s.bridles ∧
      b.switch = sw ∧ b.early = p.id ∧ b.late = r.id ∧ b.earlyTag = p.tag ∧ b.lateTag = r.tag ∧ b.kept = p.operand ∧
      b.path = sw :: r.seen ∧ (∀ op w nc, o.kind = .amo op w nc → b.op = op ∧ b.w32 = w) ∧
      ∃ x, t.areqs = [{ p with operand := x }] ∧ ∀ op w nc, o.kind = .amo op w nc →
        (op = .faddLoose → x = BitVec.ofNat 64 (sumRne p.operand r.operand)) ∧ (op ≠ .faddLoose → ∀ old : W64,
        op.apply w old.toNat x.toNat 0 = op.apply w (op.apply w old.toNat p.operand.toNat 0) r.operand.toNat 0)) ∧
  (∀ (op : AmoOp) (w : Bool) (x p : W64), op ∉ [AmoOp.cas, .fadd] → op.ret w x.toNat p.toNat = op.apply w x.toNat p.toNat 0) ∧
  (∀ (s : State) (r : AReq) (o : MemOp), s.areq? r.id = some r → s.op? r.id = some o → o.st = .moving →
    (∃ op w nc, o.kind = .amo op w nc) →
    (∀ sw, o.kind.cross o.o3 = false → r.path = [sw] → mayHop s r o sw → s.hlines = [] → ∃ t, exec (.atomicApply (.here r.id)) s = .next t ∧
      (homeClear s o.locs → appliesAt s t r o) ∧
      (s.ownedAway o.locs = true → answeredWith s t r o .owner) ∧
      (s.ownedAway o.locs = false → s.poisonAt o.locs = true → answeredWith s t r o .poison)) ∧
    (∀ sw, o.kind.cross o.o3 = true → r.path = [sw] → mayHop s r o sw → ∃ t, exec (.atomicApply (.here r.id)) s = .next t ∧
      let src : AmoSource := .peer (s.jobNo o.job).id (s.jobNo o.job).member o.who
      let home := homeOf (o.locs.headD 0)
      let seq := o.tag.toNat % 1024
      let mine := s.filters.filter fun f => f.source == src && f.home == home
      (∀ f, mine.find? (fun f => f.seq == seq) = some f → t.mem = s.mem ∧ t.filters = s.filters ∧
        ∃ q ∈ t.areplies, q.id = r.id ∧ q.value = f.value ∧ q.status = none) ∧
      ((∀ f ∈ mine, f.seq ≠ seq) → mine ≠ [] → (∀ f ∈ mine, tagOlder seq f.seq) → answeredWith s t r o .amoApplied) ∧
      ((∀ f ∈ mine, f.seq ≠ seq) → (mine = [] ∨ ∃ f ∈ mine, ¬tagOlder seq f.seq) →
        (homeClear s o.locs → appliesAt s t r o ∧ ∃ f, t.filters.head? = some f ∧ f.source = src ∧ f.home = home ∧ f.seq = seq) ∧
        (s.ownedAway o.locs = true → answeredWith s t r o .owner ∧ t.filters = s.filters) ∧
        (s.ownedAway o.locs = false → s.poisonAt o.locs = true → answeredWith s t r o .poison ∧ t.filters = s.filters)))) ∧
  (∀ (s : State) (o : MemOp), s.op? o.id = some o → o.st = .moving → s.opAbroad o = true → linksUp s (s.abroadLinks o) →
    (∀ v : W64, v.toNat < 2 ^ (8 * o.kind.bytes o.addr) → ∃ t x, exec (.atomicApply (.abroad o.id (.value v))) s = .next t ∧ x ∈ t.ops ∧
      x.id = o.id ∧ x.st = .performed ∧ x.status = none ∧ t.mem = s.mem ∧
      ∀ i u w, queuedForm i = some (u, o.kind) → atomicOut i v = some w → x.res = { out := w, aux := 0, stat := 0 }) ∧
    ∀ e ∈ [(PeerAnswer.tilemap, Flt.tilemap), (.owner, .owner), (.poison, .poison), (.applied, .amoApplied)],
      ∃ t x, exec (.atomicApply (.abroad o.id e.1)) s = .next t ∧ x ∈ t.ops ∧ x.id = o.id ∧ x.st = .performed ∧
        x.status = some (e.2, 0) ∧ t.mem = s.mem) ∧
  (∀ (s : State) (o : MemOp) (info : Nat), s.op? o.id = some o → o.st = .moving → s.opAbroad o = true → linksUp s (s.abroadLinks o) →
    ∃ t x, exec (.atomicApply (.abroad o.id (.link info))) s = .next t ∧ x ∈ t.ops ∧ x.id = o.id ∧ x.st = .performed ∧
      x.status = some (.link, BitVec.ofNat 16 info) ∧ t.mem = s.mem) ∧
  (∀ (s : State) (v : VisitAmo) (j : Job) (i : Instr) (n : Nat) (f : W512 → W64 → W64 → Nat) (op : AmoOp) (w nc : Bool),
    s.memberJob v.grp v.member = some j → membOp v.port = some i → queuedForm i = some (6, .amo op w nc) →
    storeForm i = some (6, n, f) → s.memOk →
    let vas := (List.range n).map fun b => (vaOf v.addr + b) % 2 ^ 48
    let locs := vas.map j.tileLoc
    let loc := locs.headD 0
    let old := Memory.readLe s.mem loc n
    ((∃ a ∈ vas, ¬(isTileVa a = true ∧ j.mapped a = true)) → exec (.atomicApply (.visit v)) s = .next (s.answerAmo v .tilemap)) ∧
    ((∀ a ∈ vas, isTileVa a = true ∧ j.mapped a = true) →
    (s.visit v.grp v.source (homeOf loc) = .wait → exec (.atomicApply (.visit v)) s = .next s) ∧
    (∀ info, s.visit v.grp v.source (homeOf loc) = .ended info →
      exec (.atomicApply (.visit v)) s = .next (s.answerAmo v (.link info))) ∧
    (s.visit v.grp v.source (homeOf loc) = .comes → homeClear s locs →
    (∀ f ∈ s.filters, ¬(f.source = .peer j.id v.source v.who ∧ f.home = homeOf loc)) →
    ∃ t ws, exec (.atomicApply (.visit v)) s = .next t ∧
      (∀ a, a < loc ∨ loc + n ≤ a → Memory.read t.mem a = Memory.read s.mem a) ∧
      Memory.readLe t.mem loc n = f (v.x.zeroExtend 512) (BitVec.ofNat 64 old) v.y % 2 ^ (8 * n) ∧
      t.peerOut = s.peerOut ++ [(7, ws)] ∧ ws.getLast? = some (BitVec.ofNat 64 old)))) ∧
  ∀ (s : State) (r : AReply), s.areplies.find? (fun x => x.id == r.id) = some r →
    ((∀ sw ∈ r.path, s.bridle? sw r.id = none) → ∀ o, s.op? r.id = some o →
      (linksUp s (s.replyLinks r) → r.value.toNat < 2 ^ (8 * o.kind.bytes o.addr) → ∃ t x, exec (.replySplit r.id) s = .next t ∧ x ∈ t.ops ∧
        x.id = r.id ∧ x.st = .performed ∧ x.status = r.status ∧ t.mem = s.mem ∧
        ∀ i u v, queuedForm i = some (u, o.kind) → atomicOut i r.value = some v → x.res = { out := v, aux := 0, stat := 0 }) ∧
      ∀ l, s.heldOn (s.replyLinks r) = false → s.downOn (s.replyLinks r) = some l → ∃ t x, exec (.replySplit r.id) s = .next t ∧
        x ∈ t.ops ∧ x.id = r.id ∧ x.st = .performed ∧ x.status = some (.link, BitVec.ofNat 16 (downInfo l)) ∧ t.mem = s.mem) ∧
    ∀ sw rest b, r.path = sw :: rest → s.bridle? sw r.id = some b → ∃ t q, exec (.replySplit r.id) s = .next t ∧ t.mem = s.mem ∧
      q ∈ t.areplies ∧ q.id = b.late ∧ q.status = r.status ∧ q.path = b.path ∧ t.bridles = s.bridles.erase b ∧
      q.value = BitVec.ofNat 64 (b.op.ret b.w32 r.value.toNat b.kept.toNat)

/-- (R124, R321, R357, R358, R363, R364) A flit that is sent again counts once on each die at which its link ends; if it
fails for the sixteenth time, its link retrains. One lost from a link that retrains makes its access fault with FLT_LINK, in a job that
the loss touches, and a request of the event unit faults likewise, its context no longer blocked. A link that has not come back in time
is down, and each placed job that spans it fails, REASON 7; one that has is up. A machine check fails the jobs in its scope, REASON 8, and is logged. A single error
is corrected, a double one poisons its doubleword, an undetected one changes a byte, one in an array cell changes one bit of it, one in
the instruction store spoils a word, and one in a register or record leaves a parity error that stands until it is read, and one in a TLB or walk cache discards its entry.
Points that the rules leave open stand as the model reads them (log 18). -/
def Obligations.LinksAndErrors : Prop :=
  (∀ (s : State) (l : Nat), s.link l = .up → l < 24 ∨ (64 ≤ l ∧ l < 1216) →
    let counted (t : State) : Prop := t.mem = s.mem ∧ t.tiles = s.tiles ∧
      ∀ d, d < 4 → t.dctrs.get 0 (16 * d + 8) = s.dctrs.get 0 (16 * d + 8) + if d ∈ linkEnds l ∧ d ∉ s.dfrozen then 1 else 0
    (∃ t, exec (.linkReplay l .arrived) s = .next t ∧ counted t ∧ t.replays.get 0 l = 0 ∧ t.links = s.links) ∧
    (s.replays.get 0 l < 15 → ∃ t, exec (.linkReplay l (.failed .ownerless)) s = .next t ∧ counted t ∧
      t.replays.get 0 l = s.replays.get 0 l + 1 ∧ t.links = s.links) ∧
    (15 ≤ s.replays.get 0 l → ∃ t, exec (.linkReplay l (.failed .ownerless)) s = .next t ∧ counted t ∧ t.link l = .retraining 120000)) ∧
  (∀ (s : State) (l : Nat) (r : EvReq), s.link l = .up → l < 24 → s.evreqs.find? (fun x => x.id == r.id) = some r →
    s.takesFaults r.who r.job = true → ∃ t, exec (.linkRetrain l (.eventRequest r.id)) s = .next t ∧ t.mem = s.mem ∧
      (∀ x ∈ t.evreqs, x.id ≠ r.id) ∧ (t.ctx r.who).block = (s.ctx r.who).block.filter (fun b => !b.isEvent r.rid) ∧
      ∃ p ∈ (t.ctx r.who).faults, p.code = .link ∧ p.info = BitVec.ofNat 16 l ∧ p.f1 = r.t ∧ p.f2 = r.t ∧ p.word = r.word ∧
        p.slot = r.slot) ∧
  (∀ (s : State) (l : Nat) (o : MemOp) (j : Job), s.link l = .up → l < 24 → s.op? o.id = some o → s.inFlit o = true →
    o.job = some j.id → s.job? j.id = some j → ∃ t k, exec (.linkRetrain l (.access o.id)) s = .next t ∧
      t.link l = .retraining 120000 ∧ faultsLate s t o .link (BitVec.ofNat 16 l) o.addr ∧ t.job? j.id = some k ∧ k.touched = true ∧
      t.mem = s.mem) ∧
  (∀ (s : State) (l n : Nat), s.link l = .retraining n →
    exec (.retrainingComplete l) s = .next { s with links := s.links.erase l }) ∧
  (∀ (s : State) (l : Nat), s.link l = .retraining 0 → ∃ t, exec (.linkDown l) s = .next t ∧ t.link l = .down ∧ t.mem = s.mem ∧
    ∀ j, s.job? j.id = some j → isPlaced s j → j.spans l = true → jobFailed s t j ∧ (s.jobs.length = 1 → journalSays s t j 7)) ∧
  (∀ (s : State) (j : Job), s.job? j.id = some j → isPlaced s j →
    (∀ loc, ∃ t e, exec (.machineCheck (.jobs [j.id] loc)) s = .next t ∧ jobFailed s t j ∧ journalSays s t j 8 ∧ t.mem = s.mem ∧
      t.fwlog = s.fwlog ++ [e] ∧ (loc < 2 ^ 60 → (e.extractLsb' 0 60).toNat = loc)) ∧
    ∀ d loc, (∃ c ∈ j.whos, c.tile / 144 = d ∧ (s.ctx c).job = some j.id) →
      ∃ t, exec (.machineCheck (.die d loc)) s = .next t ∧ jobFailed s t j ∧ (s.jobs.length = 1 → journalSays s t j 8) ∧ t.mem = s.mem) ∧
  ∀ s : State,
    (∀ loc b, ∃ t, exec (.softError (.single loc b)) s = .next t ∧ { t with fwlog := s.fwlog } = s) ∧
    (∀ loc, ∃ t, exec (.softError (.double loc)) s = .next t ∧ { t with poison := s.poison } = s ∧
      ∀ d, d ∈ t.poison ↔ d = loc / 8 ∨ d ∈ s.poison) ∧
    (∀ loc v, ∃ t, exec (.softError (.undetected loc v)) s = .next t ∧ { t with mem := s.mem } = s ∧
      ∀ a, s.memOk → Memory.read t.mem a = if a = loc then v else Memory.read s.mem a) ∧
    (∀ tile acc row col bit, acc < 8 → row < 64 → col < 64 → bit < 32 → ∃ t, exec (.softError (.cell tile acc row col bit)) s = .next t ∧
      t.mem = s.mem ∧ ∀ n, (t.tile tile).cells.get 0 n =
        if n = 4096 * acc + 64 * row + col then (s.tile tile).cells.get 0 n ^^^ (1#32 <<< bit) else (s.tile tile).cells.get 0 n) ∧
    (∀ tile w, w < 8192 → ∃ t, exec (.softError (.istore tile w)) s = .next t ∧ t.mem = s.mem ∧
      ∀ x, x ∈ (t.tile tile).badWords ↔ x = w ∨ x ∈ (s.tile tile).badWords) ∧
    (∀ c n p, ∀ e ∈ [SoftErr.greg c n, .vreg c n, .aptr c n, .freg c n, .record c n, .operand c n p, .transient c, .rqEntry n p],
      ∃ t, exec (.softError e) s = .next t ∧ e ∈ t.parity ∧ { t with parity := s.parity } = s) ∧
    ∀ k i, (∃ t, exec (.softError (.tlb k i)) s = .next t ∧ { t with tlbs := s.tlbs } = s ∧
        t.tlbs.get [] k = (s.tlbs.get [] k).eraseIdx i) ∧
      (∃ t, exec (.softError (.utlb k i)) s = .next t ∧ { t with utlbs := s.utlbs } = s ∧
        t.utlbs.get [] k = (s.utlbs.get [] k).eraseIdx i) ∧
      ∃ t, exec (.softError (.walk k i)) s = .next t ∧ { t with walks := s.walks } = s ∧
        t.walks.get [] k = (s.walks.get [] k).eraseIdx i

/-- (R329, R330, R333 to R335, R338, R339, R345, R346, R365 to R367, R375, R376) A packet whose turn it is completes its arrival: the
transport and its queue go on to the next number, and it starts. A launch, and a graph entry under its index, becomes a job that waits; a
barrier is done once every packet of its queue before it is, and waits till then; an object is loaded or unloaded; hot replace and
snapshot are noted for the job's next advance; restore makes a job in the phase of its snapshot; a journal read is answered with the
entries as they stand; pre-empt and resume move the job that they name. What a rule refuses is in the journal as failed, with its REASON.
A launch is refused by R333 (REASON 1), for want of its object (REASON 3) or by the list of R334 (REASON 2), and loading by the checks of
R375 in their order.
Points that the rules leave open stand as the model reads them (log 19). -/
def Obligations.PacketsStart : Prop :=
  (∀ (s : State) (queue : Nat) (ws : List W64), (wordsReserved ws → s.launchBad queue ws = some 1) ∧
    (¬wordsReserved ws → (s.obj? queue (bitsIn (ws.getD 0 0) 48 16) = none → s.launchBad queue ws = some 3) ∧
      ∀ o, s.obj? queue (bitsIn (ws.getD 0 0) 48 16) = some o →
        (launchIllegal o ws → s.launchBad queue ws = some 2) ∧ (¬launchIllegal o ws → s.launchBad queue ws = none))) ∧
  (∀ (s : State) (queue ref : Nat) (bs : List Byte), loadVerdict s queue ref bs) ∧
  ∀ (s : State) (h : MsgHdr) (p : Packet) (i : Instr), packetOf h p = some i → comesUp s h p →
    let w := p.body.getD 0 0
    let v := p.body.getD 1 0
    ∃ t, exec i s = .next t ∧ t.tether.rxNext = (h.seq + 1) % 2 ^ 32 ∧ t.qnext.get? p.queue = some (p.seq + 1) ∧
      (p.kind = 1 →
        (∀ r, s.launchBad p.queue p.body = some r → entered t p 3 r ∧ t.jobs = s.jobs) ∧
        (s.launchBad p.queue p.body = none → entered t p 1 0 ∧ (∀ x ∈ s.jobs, x.id ≠ s.fresh → x ∈ t.jobs) ∧
          ∃ j ∈ t.jobs, j.id = s.fresh ∧ j.queue = p.queue ∧ j.pseq = p.seq ∧ j.desc = p.body ∧ j.phase = 0 ∧
            j.st = .waiting ∧ j.admitted = true)) ∧
      (p.kind = 2 → let idx := (w.extractLsb' 0 8).toNat
        let np := (w.extractLsb' 8 4).toNat
        let preds := ((p.body.drop 1).take np).map fun x => (x.extractLsb' 0 8).toNat
        let ws := p.body.drop (1 + np)
        (descReserved ws = true → entered t p 3 1 ∧ t.jobs = s.jobs ∧ t.deps = s.deps) ∧
        (descReserved ws = false → 8 < np ∨ s.depInUse idx = true → entered t p 3 2 ∧ t.jobs = s.jobs ∧ t.deps = s.deps) ∧
        (np ≤ 8 → s.depInUse idx = false → descReserved ws = false → (s.obj? p.queue (descObj ws)).isSome = true →
          (∃ j ∈ t.jobs, j.id = s.fresh ∧ j.entry = some idx ∧ j.desc = ws) ∧
          let n := (preds.filter s.depInUse).length
          t.deps.get? idx = some { st := if preds.any s.depGone then .cancelled else if n = 0 then .ready else .waiting n
                                   preds := preds, job := s.fresh } ∧
          (preds.any s.depGone = false → entered t p 1 0) ∧
          (preds.any s.depGone = true → entered t p 4 9 ∧ ∀ e ∈ s.deps, e.1 ≠ idx → idx ∈ e.2.preds → (∃ m, e.2.st = .waiting m) →
            ∃ f ∈ t.deps, f.1 = e.1 ∧ f.2.st = .cancelled))) ∧
      (p.kind = 3 → (openIn s p.queue = [] → entered t p 2 0) ∧
        (openIn s p.queue ≠ [] → (∀ e ∈ openIn s p.queue, e.seq ≠ p.seq) → entered t p 0 0 ∧ t.qwait.length = 1)) ∧
      (p.kind = 4 → (65536 ≤ w.toNat ∨ w = 0 ∨ 2 ^ 52 ≤ v.toNat ∨ v.extractLsb' 0 12 ≠ 0 → entered t p 3 1 ∧ t.objs = s.objs) ∧
        (w.toNat < 65536 → w ≠ 0 → v.toNat < 2 ^ 52 → v.extractLsb' 0 12 = 0 →
          (∀ err, s.loadError p.queue w.toNat (s.objectBytes v.toNat) = some err → entered t p 3 4 ∧ t.objs = s.objs) ∧
          (s.loadError p.queue w.toNat (s.objectBytes v.toNat) = none → entered t p 2 0 ∧
            t.objs = s.objs ++ [parseObj p.queue w.toNat (s.objectBytes v.toNat)]))) ∧
      (p.kind = 5 → openIn s p.queue = [] → w.toNat < 65536 →
        ((s.obj? p.queue w.toNat).isSome = true → entered t p 2 0 ∧ t.objs = s.objs.filter fun o => !(o.queue == p.queue && o.ref == w.toNat)) ∧
        (s.obj? p.queue w.toNat = none → entered t p 3 3)) ∧
      (p.kind = 6 ∨ p.kind = 7 → ∀ j, namesJob s w j → j.st ≠ .completed → j.st ≠ .failed →
        (p.kind = 6 → v.toNat < 65536 ∧ (s.obj? p.queue v.toNat).isSome = true) →
        entered t p 1 0 ∧ ∃ k, t.job? j.id = some k ∧ k = { j with due := j.due ++ [(p.queue, p)] }) ∧
      (p.kind = 8 → w.extractLsb' 38 26 = 0 → ∀ q, s.snaps.find? (fun q => q.queue == (w.extractLsb' 32 6).toNat && q.seq == w.extractLsb' 0 32) = some q →
        let ws := p.body.drop 1
        s.launchBad p.queue ws = none → (s.newJob p.queue p.seq ws).2.restores q.job = true →
        entered t p 1 0 ∧ ∃ j ∈ t.jobs, j.id = s.fresh ∧ j.desc = ws ∧ j.phase = q.job.phase ∧ j.area = some q.area ∧ j.st = .waiting) ∧
      (p.kind = 9 → w.extractLsb' 48 16 = 0 → w.extractLsb' 38 2 = 0 → w.extractLsb' 40 8 ≠ 0 → s.journal.length < 1024 →
        entered t p 2 0 ∧ ∃ r, t.hostOut = s.hostOut ++ [r] ∧ r.kind = 6 ∧ r.re = h.seq ∧ r.status = 0 ∧
          r.words.length = 4 * (w.extractLsb' 40 8).toNat ∧ ∀ n, n < (w.extractLsb' 40 8).toNat →
            let sq := w.extractLsb' 0 32 + BitVec.ofNat 32 n
            ¬((w.extractLsb' 32 6).toNat = p.queue ∧ sq = p.seq) → (r.words.drop (4 * n)).take 4 =
              match s.journalGet (w.extractLsb' 32 6).toNat sq with
              | some e => [e.kind ++ BitVec.ofNat 6 e.queue ++ 0#15 ++ e.st ++ e.seq, e.time, e.reason.zeroExtend 64, e.w3]
              | none => [7#32 ++ 0#32, 0, 0, 0]) ∧
      (p.kind = 10 → ∀ j, namesJob s w j →
        (stands j → entered t p 1 0 ∧ ∃ k, t.job? j.id = some k ∧ k.st = .preempting ∧ k.pre = j.pre ++ [(p.queue, p.seq)]) ∧
        (¬ stands j → entered t p 3 10 ∧ t.jobs = s.jobs)) ∧
      (p.kind = 11 → ∀ j, namesJob s w j →
        (j.st = .preempted → entered t p 1 0 ∧ ∃ k, t.job? j.id = some k ∧ k.st = .resuming ∧ k.by' = none ∧ k.res = j.res ++ [(p.queue, p.seq)]) ∧
        (j.st = .running → entered t p 3 10 ∧ t.jobs = s.jobs))

/-- (R341, R347, R348, R351) A debug packet for a tile of a debug job that stands there completes: halt, release and step act on the
contexts that it names and the job has on the tile, and step is done later, with the word; read writes the state of halted contexts to the job's
save slot, and write sets that state: a doubleword of the window, a scalar register, the flags and a pointer register stand for the places of
R341; where within its entry a context's flags and pointers stand is the model's. A job without DEBUG, or a range that may not be accessed (one that is not whole in one section, holds state of a context that runs, or is
outside the job's share), is refused with REASON 12.
Points that the rules leave open stand as the model reads them (log 9, log 19). -/
def Obligations.DebugPackets : Prop :=
  ∀ (s : State) (h : MsgHdr) (p : Packet) (i : Instr) (j : Job) (tile : Nat), packetOf h p = some i → comesUp s h p → p.kind = 12 →
    namesJob s (p.body.getD 0 0) j → let v := p.body.getD 1 0
    debugBad v = false → j.phys (v.extractLsb' 8 2).toNat (v.extractLsb' 10 4).toNat (v.extractLsb' 14 4).toNat = some tile →
    let named (n : Nat) : Bool := v.getLsbD (4 + n) && (j.ctxsOn tile).contains n
    let op := (v.extractLsb' 0 4).toNat
    let off := (v.extractLsb' 32 21).toNat
    let one := (v.extractLsb' 56 7).toNat = 1 ∧ s.memOk ∧ ((s.tile tile).ctxs.map (·.1)).Nodup ∧ ∀ n ∈ j.ctxsOn tile, (s.ctx ⟨tile, n⟩).gcount ≤ 64 ∧ (s.ctx ⟨tile, n⟩).vcount ≤ 768
    let written := (p.body.getD 2 0)
    let slot (t : State) := Memory.readLe t.mem (slotLoc j.save (j.tiles.idxOf tile) off) 8
    ∃ t, exec i s = .next t ∧ (j.debug = false ∨ ¬ stands j → entered t p 3 12 ∧ t.tiles = s.tiles ∧ t.mem = s.mem) ∧
      (j.debug = true → stands j →
        (op = 1 → entered t p 2 0 ∧ ∀ n, n < 4 → t.ctx ⟨tile, n⟩ = if named n then { s.ctx ⟨tile, n⟩ with
          dbgHalt := true
          dbgStep := false } else s.ctx ⟨tile, n⟩) ∧
        (op = 2 → entered t p 2 0 ∧ ∀ n, n < 4 → t.ctx ⟨tile, n⟩ = if named n then { s.ctx ⟨tile, n⟩ with
          dbgHalt := false
          dbgStep := false
          woken := beforeIssue s tile } else s.ctx ⟨tile, n⟩) ∧
        (op = 3 → (∃ n, n < 4 ∧ named n = true ∧ (s.ctx ⟨tile, n⟩).exit = none) → entered t p 1 0 ∧
          ∀ n, n < 4 → t.ctx ⟨tile, n⟩ = if named n && (s.ctx ⟨tile, n⟩).exit.isNone then { s.ctx ⟨tile, n⟩ with
            dbgHalt := false
            dbgStep := true } else s.ctx ⟨tile, n⟩) ∧
        (op = 4 ∨ op = 5 → (s.rangeOk j tile off (v.extractLsb' 56 7).toNat = true ↔ mayTouch s j tile off (v.extractLsb' 56 7).toNat)) ∧
        (op = 4 ∨ op = 5 → s.rangeOk j tile off (v.extractLsb' 56 7).toNat = false → entered t p 3 12 ∧ t.tiles = s.tiles ∧ t.mem = s.mem) ∧
        (op = 4 → s.rangeOk j tile off (v.extractLsb' 56 7).toNat = true → entered t p 2 0 ∧ t.tiles = s.tiles ∧
          (one → j.save % 4096 = 0 →
            (0x100000 ≤ off → slot t = Memory.readLe s.mem (2 ^ 20 * tile + 4096 * j.swbase + (off - 0x100000)) 8) ∧
            ∀ c, c < 4 → let x := s.ctx ⟨tile, c⟩
              (∀ n, n < x.gcount / 8 * 8 → off = 0x1000 + 0x2000 * c + 8 * n → slot t = (x.readG n).toNat) ∧
              (off = 0x1200 + 0x2000 * c → ∀ b, b < 16 → b ≠ 0 → (slot t).testBit b = x.readF b) ∧
              ∀ n, n < 16 → off = 0x1208 + 0x2000 * c + 8 * n → slot t = (x.readA n).toNat)) ∧
        (op = 5 → s.rangeOk j tile off (v.extractLsb' 56 7).toNat = true → entered t p 2 0 ∧
          (one → (0x100000 ≤ off → t.tiles = s.tiles ∧
              Memory.readLe t.mem (2 ^ 20 * tile + 4096 * j.swbase + (off - 0x100000)) 8 = written.toNat) ∧
            (off < 0x100000 → t.mem = s.mem) ∧
            ∀ c, c < 4 → let x := s.ctx ⟨tile, c⟩
              let y := t.ctx ⟨tile, c⟩
              (∀ n, n < x.gcount / 8 * 8 → off = 0x1000 + 0x2000 * c + 8 * n → ∀ k, y.readG k = if k = n ∧ n ≠ 0 then written else x.readG k) ∧
              (off = 0x1200 + 0x2000 * c → ∀ b, b < 16 → b ≠ 0 → y.readF b = written.getLsbD b) ∧
              ∀ n, n < 16 → off = 0x1208 + 0x2000 * c + 8 * n → ∀ k, k < 16 → y.readA k = if k = n then written else x.readA k)))

/-- (R70, R123, R134, R176, R331 to R340, R343, R345, R365, R370, R373, R377, R379) The steps of a job complete. A job whose turn it is is
placed where it fits: each of its strands stands at its role's entry (R370, R377) with the job's arguments, its stack pointer and limit, the
allotment and level of its rectangle, the free-running units of its image's RELEASE (R379) and every other register zero or at its reset
value, its yarns and spindles as R270 and R271 say; each tile's data sections are in its window, its swatches have their launch owners, and the
job's accumulators, reels, comparators and receive queues are as R249, R296, R189 and R308 say. A launch makes a job whose PHASE.NUM is 0. It
fits where its event lines are free, no other job needs the same on one of its tiles (also places for images that are not one, R377), and the
registers suffice (R70); where it fits only without jobs of lower PRIO it displaces such jobs, else it waits, or it is refused. A job that is to leave is saved once its engines rest: the bytes of its windows are
in its save area, its contexts are free; placed again, it has those bytes back. A job completes once every strand has halted, its
accesses have completed and its last phase has ended: its places are free, and the entries that wait for it count it.
Points that the rules leave open stand as the model reads them (log 9, log 20). -/
def Obligations.JobEvents : Prop :=
  (∀ (s : State) (queue : Nat) (seq : W32) (ws : List W64), (s.newJob queue seq ws).2.phase = 0) ∧
  (∀ (s : State) (j : Job), s.job? j.id = some j → s.waitsPlace j = true →
    (j.admitted = false → j.refused = true → ∃ t k, exec (.jobPlacement j.id) s = .next t ∧ t.job? j.id = some k ∧ k.st = .failed ∧
      t.tiles = s.tiles ∧ t.mem = s.mem) ∧
    (j.admitted = true ∨ j.refused = false →
      (inGrid j → (∀ k ∈ s.jobs, inGrid k) → let ids (ks : List Job) := ks.map (·.id)
        (s.plan j = .place ↔ linesOpen s j ∧ fitsWithout s j []) ∧
        (s.plan j = .wait ↔ ¬ linesOpen s j ∨ (¬ fitsWithout s j [] ∧ ¬ fitsWithout s j (ids (lowerJobs s j)))) ∧
        ∀ ks, s.plan j = .displace ks → ∀ i ∈ ks, ∃ k ∈ lowerJobs s j, k.id = i) ∧
      (s.plan j = .wait → exec (.jobPlacement j.id) s = .next s) ∧
      (∀ ks, s.plan j = .displace ks → exec (.jobPlacement j.id) s = .next { s with
        jobs := s.jobs.map fun k => if ks.contains k.id && k.st == .running then { k with
          st := .preempting
          by' := some j.id } else k }) ∧
      (s.plan j = .place → j.images = [] → inGrid j → j.tiles.Nodup → (∀ tile ∈ j.tiles, ∀ p ∈ (s.tile tile).wpops, p.1 ∉ j.whos) →
        ∃ t k, exec (.jobPlacement j.id) s = .next t ∧ t.job? j.id = some k ∧ k = { j with st := .running } ∧
        (s.memOk → j.swbase + j.swcnt ≤ 256 → (∀ e ∈ j.obj.data, e.2.1 + e.2.2.length ≤ 4096 * j.swcnt) →
          j.obj.data.Pairwise (fun d e => d.1 ≠ e.1 ∨ d.2.1 + d.2.2.length ≤ e.2.1 ∨ e.2.1 + e.2.2.length ≤ d.2.1) →
          ∀ tile ∈ j.tiles, ∀ o, j.roleAt tile = some o → ∀ e ∈ j.obj.data, e.1 = o.role → ∀ k, k < e.2.2.length →
            Memory.read t.mem (2 ^ 20 * tile + 4096 * j.swbase + e.2.1 + k) = e.2.2.getD k 0) ∧
        (∀ r ∈ j.rects, ∀ tile ∈ r.tiles, ∀ o, j.roleAt tile = some o → let y := t.tile tile
          (∀ k, k < j.swcnt → y.owner.get 0 (j.swbase + k) = o.own.getD k 0) ∧
          (∀ m, m < 8 → j.accx.getLsbD m = false → y.acc m = .idle) ∧ (∀ n, n < 16 → j.reelx.getLsbD n = false → y.reel n = Reel.init) ∧
          (∀ n, n < 8 → j.cmpx.getLsbD n = false → y.cmps.get Comparator.init n = Comparator.init) ∧
          ∀ n, n < 4 → j.qx.getLsbD n = false → let q := y.rqs.get RQueue.init n
            q.opened = true ∧ q.entries = [] ∧ ∀ c ∈ r.whos tile, q.reader ≤ c.ctx ∧ (⟨tile, q.reader⟩ : Who) ∈ r.whos tile) ∧
        ∀ r ∈ j.rects, ∀ tile ∈ r.tiles, ∀ o, j.roleAt tile = some o → ∀ c ∈ r.whos tile, let x := t.ctx c
          x.job = some j.id ∧ x.pc = o.entry ∧ x.trapbase = BitVec.ofNat 13 o.trapEntry ∧ x.gcount = r.gc ∧ x.vcount = r.vc ∧
          x.prio = r.cprio ∧ x.release = o.release ∧ x.lock = 0xFFFF ∧ x.bank = Bank.init ∧ x.shadow = none ∧ x.exit = none ∧
          x.stall = 0 ∧ x.frm = 0 ∧ x.fflags = 0 ∧ x.check = false ∧ x.loop.active = false ∧
          (∀ n, x.readG n = if 2 ≤ n ∧ n < 10 then j.args.getD (n - 2) 0 else 0) ∧ (∀ n, x.readV n = 0) ∧ (∀ n, x.readF n = (n == 0)) ∧
          (∀ n, n ≠ 15 → x.readA n = 0) ∧
          (∀ d row col, j.logical tile = some (d, row, col) → let base := 0xFF * 2 ^ 40 + d * 2 ^ 38 + row * 2 ^ 34 + col * 2 ^ 30
            x.readA 15 = BitVec.ofNat 64 (base + j.stop.toNat) ∧ x.slim = BitVec.ofNat 48 (base + j.slo.toNat)) ∧
          (∀ n, x.wd.get 0 n = 0) ∧ (∀ n, let u := x.yarns.get Yarn.init n; u.k = 4 ∧ u.bits = 0 ∧ u.lin = { mask := 0, mix := 0, ep := 0 }) ∧
          ∀ n, x.spindles.get Spindle.init n = { key := 0, mode := false, epoch := 0, state := 0 }) ∧
      (s.plan j = .place → j.st = .resuming → j.area = none → ∀ n im, j.images = [(n, im)] → s.memOk →
        let tile := j.tiles.getD n 0
        (∀ k, k < j.swcnt → (Memory.read s.mem (slotLoc j.save n (64 + (64 + k) / 8))).getLsbD ((64 + k) % 8) = true) →
        j.swbase + j.swcnt ≤ 256 → j.save % 4096 = 0 → ((j.roleAt tile).map (·.disc)).getD [] = [] →
        ∃ t k, exec (.jobPlacement j.id) s = .next t ∧ t.job? j.id = some k ∧ k.st = .running ∧ k.res = [] ∧
          (∀ e ∈ s.journal, (e.queue, e.seq) ∈ j.res → e.st = 1 → ∃ f ∈ t.journal, f.queue = e.queue ∧ f.seq = e.seq ∧ f.st = 2) ∧
          ∀ b, b < 4096 * j.swcnt → Memory.read t.mem (2 ^ 20 * tile + 4096 * j.swbase + b) =
            Memory.read s.mem (slotLoc j.save n (0x100000 + b))))) ∧
  (∀ (s : State) (j : Job), s.job? j.id = some j → j.st = .preempting → s.canSave j = true →
    ∃ t k, exec (.preemption j.id) s = .next t ∧ t.job? j.id = some k ∧ (k.st = .preempted ∨ k.st = .resuming) ∧ k.saves = j.saves + 1 ∧
      (∀ c ∈ j.whos, (s.ctx c).job = some j.id → (t.ctx c).job = none) ∧
      (∀ e ∈ s.journal, (e.queue, e.seq) ∈ j.pre → e.st = 1 → ∃ f ∈ t.journal, f.queue = e.queue ∧ f.seq = e.seq ∧ f.st = 2) ∧
      (s.memOk → j.images = [] → j.save % 4096 = 0 → j.save + 0x200000 * j.tiles.length ≤ 768 * 2 ^ 30 → j.swbase + j.swcnt ≤ 256 →
        j.tiles.Nodup → (∀ c ∈ j.whos, (s.ctx c).gcount ≤ 64 ∧ (s.ctx c).vcount ≤ 768) → ∀ n tile b, j.tiles[n]? = some tile → b < 4096 * j.swcnt →
          Memory.read t.mem (slotLoc j.save n (0x100000 + b)) = Memory.read s.mem (2 ^ 20 * tile + 4096 * j.swbase + b))) ∧
  ∀ (s : State) (j : Job), s.job? j.id = some j → s.canComplete j = true → s.hlines = [] →
    ∃ t k, exec (.jobComplete j.id) s = .next t ∧ t.job? j.id = some k ∧ k.st = .completed ∧
      (∀ c ∈ j.whos, (s.ctx c).job = some j.id → (t.ctx c).job = none) ∧ (∀ e ∈ t.lines, e.2.job ≠ some j.id) ∧
      (∀ e ∈ s.journal, e.queue = j.queue → e.seq = j.pseq → e.st = 1 → ∃ f ∈ t.journal, f.queue = e.queue ∧ f.seq = e.seq ∧ f.st = 2 ∧
        ((∀ c ∈ j.whos, s.exitOf j c = some 0) → f.w3 = 0)) ∧
      ∀ i, j.entry = some i → ∀ e ∈ s.deps, (e.1 = i → ∃ f ∈ t.deps, f.1 = i ∧ f.2.st = .done) ∧
        (e.1 ≠ i → e.2.preds.count i = 1 → ∀ n, e.2.st = .waiting (n + 1) → (e.1, { e.2 with st := if n = 0 then .ready else .waiting n }) ∈ t.deps)

/-- (R157, R324, R386 to R389, R392 to R394) The messages of the host complete. A session opens, acknowledgements free what they cover, and a
reply that is not covered is sent again once its time has passed. A window reads or writes bytes of SRAM or DRAM, or applies one atomic
that its home's filter has not applied, and answers with the status and what it read; a poisoned one is answered with 1, a read of a whole
line that its trail code no longer fits with 2 and a log entry, and an address outside device memory or a misaligned atomic with 3. Each
management
operation whose operands are in range does what its number says and answers 0; out of range, or where minimal mode does not serve it,
status 3 and no effect. A duplicate is answered with its stored reply, and one whose reply is not stored is not applied: an atomic that
its home's filter holds is answered from there. A message ahead of its turn is kept. Each is acknowledged.
Points that the rules leave open stand as the model reads them (log 6, log 9, log 22, log 23): an atomic whose number is neither held nor
older than every number held is applied, what a status 2 reply carries beside the status is left open, and mesh links have the model's own
numbers. -/
def Obligations.HostMessages : Prop :=
  ∀ (s : State) (h : MsgHdr), s.power = .running →
    (s.tether.session ≠ some h.session → ∀ rto, ∃ t r, exec (.tetherSessionOpen h rto) s = .next t ∧ t.tether.session = some h.session ∧
      t.tether.rto = rto ∧ t.tether.rxNext = (h.seq + 1) % 2 ^ 32 ∧ t.tether.rxBuf = [] ∧ t.hostOut = s.hostOut ++ [r] ∧ r.re = h.seq ∧
      r.kind = 6 ∧ r.status = 0 ∧ r.seq = 0 ∧ r.session = h.session ∧ r.ack = (h.seq + 1) % 2 ^ 32 ∧ r.sack = 0 ∧ t.tether.unacked = [r] ∧
      t.tether.stored = [(h.seq, some r)] ∧
      onlyHost s t fun s => { s with filters := s.filters.filter fun f => decide (f.source ≠ .host) }) ∧
    (s.tether.session = some h.session → ∃ t, exec (.tetherAck h) s = .next t ∧ onlyHost s t id ∧ t.hostOut = s.hostOut ∧
      ∀ r, r ∈ t.tether.unacked ↔ r ∈ s.tether.unacked ∧ ¬(2 ^ 31 ≤ (r.seq + (2 ^ 32 - h.ack % 2 ^ 32)) % 2 ^ 32 ∨
        let n := (r.seq + (2 ^ 32 - (h.ack + 1) % 2 ^ 32)) % 2 ^ 32
        n < 32 ∧ h.sack.getLsbD n = true)) ∧
    (∀ n, let due := s.tether.unacked.find? fun r => r.seq == n && decide (s.tether.rto < (s.cycle - r.sent).toNat)
      (∀ r, due = some r → s.tether.session = some h.session → ∃ t, exec (.tetherRetransmit n) s = .next t ∧ leavesAgain s t r ∧ onlyHost s t id) ∧
      (due = none → exec (.tetherRetransmit n) s = .next s)) ∧
    (∀ i, bears h i → s.tether.session = some h.session → h.seq ≠ s.tether.rxNext →
      let late := 2 ^ 31 ≤ (h.seq + (2 ^ 32 - s.tether.rxNext % 2 ^ 32)) % 2 ^ 32
      let kept := s.tether.stored.find? fun e => e.1 == h.seq
      ∃ t, exec i s = .next t ∧ onlyHost s t id ∧
        (late → (∀ n r, kept = some (n, some r) → leavesAgain s t r) ∧
          (∀ n, kept = some (n, none) → ∃ m, leaves s t m s.tether.rxNext ∧ m.kind = 7) ∧
          (kept = none → ∃ m, leaves s t m s.tether.rxNext ∧ m.kind = 6 ∧ m.re = h.seq ∧ m.status = Config.appliedStatus)) ∧
        (¬ late → (∀ e ∈ s.tether.rxBuf, e.1 ≠ h.seq) → t.tether.rxBuf = s.tether.rxBuf ++ [(h.seq, i)] ∧
          ∃ m, t.hostOut = s.hostOut ++ [m] ∧ m.kind = 7)) ∧
    (∀ (a : WinAddr) (i : Instr) (p n : Nat) (f : W512 → W64 → W64 → Nat) (x y : W64) (e : Applied), s.tether.session = some h.session →
      2 ^ 31 ≤ (h.seq + (2 ^ 32 - s.tether.rxNext % 2 ^ 32)) % 2 ^ 32 → (∀ m ∈ s.tether.stored, m.1 ≠ h.seq) →
      membOp p = some i → storeForm i = some (6, n, f) → (atomicOut i 0).isSome = true →
      s.filters.find? (fun f => decide (f.source = .host) && f.seq == h.seq) = some e → e.value.toNat < 2 ^ (8 * n) →
      ∃ t m v, exec (.windowAtomic h a p x y) s = .next t ∧ onlyHost s t id ∧ leaves s t m s.tether.rxNext ∧ m.kind = 6 ∧ m.re = h.seq ∧
        m.status = 0 ∧ m.words = [v] ∧ atomicOut i e.value = some (v.zeroExtend 512)) ∧
    (onTurn s h → s.hlines = [] → fullMode s → ∀ (a : WinAddr) (n : Nat),
      (winLocs a n = none ∨ n = 0 ∨ 4096 < n →
        (∃ t, exec (.windowRead h a n) s = .next t ∧ answered s t h 3 [] [] ∧ onlyHost s t id) ∧
        ∀ bs : List Byte, bs.length = n → ∃ t, exec (.windowWrite h a bs) s = .next t ∧ answered s t h 3 [] [] ∧ onlyHost s t id) ∧
      (∀ (i : Instr) (p : Nat) (f : W512 → W64 → W64 → Nat) (x y : W64), membOp p = some i → storeForm i = some (6, n, f) →
        (atomicOut i 0).isSome = true → winLocs a n = none →
        ∃ t, exec (.windowAtomic h a p x y) s = .next t ∧ answered s t h 3 [] [] ∧ onlyHost s t id) ∧
      ∀ ls : List Nat, winLocs a n = some ls → let hs := winHomes a n
      (∀ l ∈ s.windowLinks h hs, s.link l = .up) → (∀ u ∈ hs, s.portOpen (ioPort (s.windowIo h) u) u = true) →
      let enters (s : State) : State := hs.foldl (fun (s : State) u => s.notePort (ioPort (s.windowIo h) u) u) s
      let broken (l : Nat) : Prop := (∀ k, k < 64 → 64 * l + k ∈ ls) ∧ ∃ c, s.trail.get? l = some c ∧ crc16 (Memory.readBytes s.mem (64 * l) 64) ≠ c
      (0 < n → n ≤ 4096 →
        (s.poisonAt ls = false → (∀ l, ¬ broken l) → ∃ t, exec (.windowRead h a n) s = .next t ∧
          onlyHost s t (fun s => (enters s).demand ls) ∧ answered s t h 0 [] (ls.map (Memory.read s.mem))) ∧
        (s.poisonAt ls = false → (∃ l, broken l) → ∃ t es bs, exec (.windowRead h a n) s = .next t ∧ answered s t h 2 [] bs ∧
          t.fwlog = s.fwlog ++ es ∧ (∀ l, broken l → ∃ e ∈ es, e.extractLsb' 0 60 = BitVec.ofNat 60 l) ∧
          onlyHost { s with fwlog := t.fwlog } t fun s => (enters s).demand ls) ∧
        (s.poisonAt ls = true → ∃ t, exec (.windowRead h a n) s = .next t ∧ onlyHost s t (fun s => (enters s).demand ls) ∧
          answered s t h 1 [] [])) ∧
      (∀ bs : List Byte, bs.length = n → 0 < n → n ≤ 4096 → ls.Nodup → s.memOk → ∃ t, exec (.windowWrite h a bs) s = .next t ∧
        answered s t h 0 [] [] ∧ (∀ l, l ∉ ls → Memory.read t.mem l = Memory.read s.mem l) ∧
        ∀ k, k < n → Memory.read t.mem (ls.getD k 0) = bs.getD k 0) ∧
      ∀ (i : Instr) (p : Nat) (f : W512 → W64 → W64 → Nat) (x y : W64), membOp p = some i → storeForm i = some (6, n, f) →
        (atomicOut i 0).isSome = true → let place := ls.headD 0
        let mine := s.filters.filter fun f => decide (f.source = .host) && f.home == homeOf place
        let older (f : Applied) : Prop := let d := (f.seq + (2 ^ 32 - h.seq % 2 ^ 32)) % 2 ^ 32; 0 < d ∧ d ≤ 2 ^ 31
        (place % n ≠ 0 → ∃ t, exec (.windowAtomic h a p x y) s = .next t ∧ answered s t h 3 [] [] ∧ onlyHost s t id) ∧
        (place % n = 0 → ∀ e, mine.find? (fun f => f.seq == h.seq) = some e → e.value.toNat < 2 ^ (8 * n) →
          ∃ t v, exec (.windowAtomic h a p x y) s = .next t ∧ answered s t h 0 [v] [] ∧ atomicOut i e.value = some (v.zeroExtend 512) ∧
            onlyHost s t enters) ∧
        (place % n = 0 → mine ≠ [] → (∀ f ∈ mine, older f) →
          ∃ t, exec (.windowAtomic h a p x y) s = .next t ∧ answered s t h Config.appliedStatus [] [] ∧ onlyHost s t enters) ∧
        (place % n = 0 → (∀ f ∈ mine, f.seq ≠ h.seq) → (mine = [] ∨ ∃ f ∈ mine, ¬ older f) →
          (s.poisonAt ls = true → ∃ t, exec (.windowAtomic h a p x y) s = .next t ∧ answered s t h 1 [] [] ∧ onlyHost s t enters) ∧
          (s.poisonAt ls = false → s.memOk → let old := Memory.readLe s.mem place n
            ∃ t v, exec (.windowAtomic h a p x y) s = .next t ∧ answered s t h 0 [v] [] ∧ atomicOut i (BitVec.ofNat 64 old) = some (v.zeroExtend 512) ∧
              (∃ e ∈ t.filters, e = { source := .host, home := homeOf place, seq := h.seq, value := BitVec.ofNat 64 old }) ∧
              (∀ l, l < place ∨ place + n ≤ l → Memory.read t.mem l = Memory.read s.mem l) ∧
              Memory.readLe t.mem place n = f (x.zeroExtend 512) (BitVec.ofNat 64 old) y % 2 ^ (8 * n)))) ∧
    (onTurn s h → ¬ fullMode s → ∀ i, notInMinimal h i → ∃ t, exec i s = .next t ∧ answered s t h 3 [] [] ∧ onlyHost s t id) ∧
    (onTurn s h →
      let does (i : Instr) (ok : Prop) (f : State → State) : Prop :=
        (ok → ∃ t, exec i s = .next t ∧ answered s t h 0 [] [] ∧ onlyHost s t f) ∧
        (¬ ok → ∃ t, exec i s = .next t ∧ answered s t h 3 [] [] ∧ onlyHost s t id)
      let refused (i : Instr) : Prop := ∃ t, exec i s = .next t ∧ answered s t h 3 [] [] ∧ onlyHost s t id
      (∀ n key, does (.enrolKey h n key) (n < 2 ^ 32 ∧ key.length = 97 ∧ ((s.keys.get? n).isSome = true ∨ s.keys.length < 16))
        fun s => { s with keys := s.keys.set n key }) ∧
      (∀ n, does (.revokeKey h n) (n < 2 ^ 32) fun s => { s with keys := s.keys.erase n }) ∧
      (∃ t ws, exec (.readTelemetry h) s = .next t ∧ answered s t h 0 (s.throttled :: s.dropped :: ws) [] ∧
        onlyHost s t fun s => { s with frees := s.frees + 1 }) ∧
      (∀ off (bs : List Byte), (bs ≠ [] → bs.length ≤ 8000 → off + bs.length ≤ 2 ^ 24 → ∃ t, exec (.stageFirmware h off bs) s = .next t ∧
          answered s t h 0 [] [] ∧ (∀ k, k < bs.length → t.staging.get 0 (off + k) = bs.getD k 0) ∧
          ∀ n, n < off ∨ off + bs.length ≤ n → t.staging.get 0 n = s.staging.get 0 n) ∧
        (bs = [] ∨ 8000 < bs.length ∨ 2 ^ 24 < off + bs.length → refused (.stageFirmware h off bs))) ∧
      (∀ n, (n = 0 ∨ 2 ^ 24 < n → refused (.commitFirmware h n)) ∧ (0 < n → n ≤ 2 ^ 24 → let img := (List.range n).map fun k => s.staging.get 0 k
        (imageSigned img = true → ∃ t, exec (.commitFirmware h n) s = .next t ∧ answered s t h 0 [] [] ∧
          onlyHost s t fun s => { s with nextFw := img }) ∧
        (imageSigned img = false → ∃ t, exec (.commitFirmware h n) s = .next t ∧ answered s t h 4 [] [] ∧ onlyHost s t id))) ∧
      (fullMode s →
        (∀ asid root, does (.setAddressSpace h asid root) (asid < 65536 ∧ root % 8192 = 0 ∧ root + 4096 ≤ 768 * 2 ^ 30)
          fun s => { s with newRoots := s.newRoots.set asid root }) ∧
        (∃ t, exec (.invalidate h .everything) s = .next t ∧ answered s t h 0 [] [] ∧ (∀ u, t.utlbs.get [] u = []) ∧ (∀ c, t.tlbs.get [] c = []) ∧
          (∀ d, t.walks.get [] d = []) ∧ t.newRoots = [] ∧ t.mem = s.mem ∧ t.tiles = s.tiles) ∧
        (∀ asid va n, (65536 ≤ asid ∨ 2 ^ 48 ≤ va → refused (.invalidate h (.pages asid va n))) ∧
          (asid < 65536 → va < 2 ^ 48 → ∃ t, exec (.invalidate h (.pages asid va n)) s = .next t ∧ answered s t h 0 [] [] ∧
            (∀ c e, e ∈ t.tlbs.get [] c ↔ e ∈ s.tlbs.get [] c ∧ ¬((e.asid = asid ∨ e.ent.getLsbD 13 = true) ∧
              e.page * 2 ^ pageBits e.level < va + n * 2 ^ 19 ∧ va < (e.page + 1) * 2 ^ pageBits e.level)) ∧
            t.newRoots.get? asid = none ∧ t.mem = s.mem ∧ t.tiles = s.tiles)) ∧
        (∀ pages, does (.addSnapshotPool h pages) (∀ p ∈ pages, p % 2 ^ 19 = 0 ∧ p + 2 ^ 19 ≤ 768 * 2 ^ 30)
          fun s => { s with pool := s.pool ++ pages }) ∧
        (∀ die mask, (4 ≤ die ∨ 8 ≤ mask ∨ mask / 2 = 3 → refused (.dieCounterControl h die mask)) ∧
          (die < 4 → mask < 8 → mask / 2 ≠ 3 → ∃ t, exec (.dieCounterControl h die mask) s = .next t ∧ answered s t h 0 [] [] ∧
            (∀ n ∈ [2, 3, 4, 6, 7, 8], t.dctrs.get 0 (16 * die + n) = if mask % 2 = 1 then 0 else s.dctrs.get 0 (16 * die + n)) ∧
            (die ∈ t.dfrozen ↔ mask / 2 = 1 ∨ (mask / 2 = 0 ∧ die ∈ s.dfrozen)) ∧ t.tiles = s.tiles ∧ t.mem = s.mem)) ∧
        (∀ die on, (4 ≤ die → refused (.prefetchEnable h die on)) ∧
          (die < 4 → ∃ t, exec (.prefetchEnable h die on) s = .next t ∧ answered s t h 0 [] [] ∧
            (die ∈ t.prefetch ↔ on = true) ∧ ∀ d, d ≠ die → (d ∈ t.prefetch ↔ d ∈ s.prefetch))) ∧
        (∀ l, (24 ≤ l → l < 64 ∨ 1216 ≤ l → refused (.linkEnable h l)) ∧ (l < 24 ∨ (64 ≤ l ∧ l < 1216) → ∃ t, exec (.linkEnable h l) s = .next t ∧ answered s t h 0 [] [] ∧
          t.link l = (if s.link l = .down then .up else s.link l) ∧ ∀ k, k ≠ l → t.link k = s.link k)) ∧
        (∀ w, does (.setPowerLimit h w) (1400 ≤ w ∧ w ≤ 2800) fun s => { s with limit := w }) ∧
        ∀ nonce, (nonce.length = 48 →
            let msg := nonce ++ sha384 s.firmware ++ leBytes 8 s.bootcause.toNat ++
              (s.keys.flatMap (fun e => leBytes 4 e.1) ++ s.objs.flatMap fun o => leBytes 2 o.ref ++ sha384 o.bytes)
            ∃ t sig, exec (.attestation h nonce) s = .next t ∧ answered s t h 0 [] (msg ++ sig) ∧ sig.length = 96 ∧
              sig = ecdsaSign Config.deviceKey (Config.signNonce s.frees) msg ∧ onlyHost s t fun s => { s with frees := s.frees + 1 }) ∧
          (nonce.length ≠ 48 → refused (.attestation h nonce))))

/-- (R11, R386, R390 to R392, R394, R395) The events of start and power complete. A package reset leaves the state of reset, with the keys, the
firmware to start and the logs kept, the fallback firmware in use after three failed starts: running, with the count of failed starts clear; or
failed, with the cause that BOOTCAUSE reports, 1 whenever the firmware's signature does not hold; or still starting, for at most 60 s. A
start that does not end in that time fails with cause 6, and a package whose start failed resets itself. A thermal shutdown removes power,
with cause 7; throttled cycles and dropped frames are counted.
Points that the rules leave open stand as the model reads them (log 1, log 3, log 4, log 22). -/
def Obligations.StartsAndPower : Prop :=
  ∀ s : State, let fallback := 3 ≤ s.fails
    let minimal : W64 := if fallback then 1 else 0
    let kept (t : State) : Prop := t.keys = s.keys ∧ t.firmware = (if fallback then Config.fallback else s.nextFw) ∧ t.nextFw = s.nextFw ∧
      t.fwlog = s.fwlog ∧ t.tiles = [] ∧ t.mem = [] ∧ t.jobs = [] ∧ t.cycle = 0 ∧ t.limit = 2800 ∧ t.tether.session = none ∧ t.journal = [] ∧
      t.throttled = 0
    let fails (i : Instr) (c : BitVec 4) : Prop := ∃ t, exec i s = .next t ∧ kept t ∧ t.power = .failed ∧ t.fails = s.fails + 1 ∧
      t.bootcause.extractLsb' 0 4 = minimal.extractLsb' 0 4 ∧ t.bootcause.extractLsb' 4 4 = c ∧
      (t.bootcause.extractLsb' 8 8).toNat = min s.fails 255
    let boots := fallback ∨ imageSigned s.nextFw = true
    (boots → ∃ t, exec (.packageReset .ok) s = .next t ∧ kept t ∧ t.power = .running ∧ t.fails = 0 ∧
      t.bootcause.extractLsb' 0 4 = minimal.extractLsb' 0 4 ∧ (t.bootcause.extractLsb' 8 8).toNat = min s.fails 255 ∧
      (s.power = .running → t.bootcause.extractLsb' 4 4 = 0) ∧ (s.power ≠ .running → t.bootcause.extractLsb' 4 4 = s.bootcause.extractLsb' 4 4)) ∧
    (¬ boots → fails (.packageReset .ok) 1 ∧ ∀ c : BitVec 4, c ≠ 0 → c ≠ 2 → c ≤ 6 → fails (.packageReset (.fail c)) 1) ∧
    (¬ fallback → fails (.packageReset (.fail 2)) 2) ∧
    (boots → (∀ c : BitVec 4, 3 ≤ c → c ≤ 5 → fails (.packageReset (.fail c)) c) ∧
      ∃ t, exec (.packageReset (.fail 6)) s = .next t ∧ kept t ∧ t.power = .starting 72000000000 ∧ t.fails = s.fails) ∧
    (s.power = .starting 0 → ∃ t, exec .startTimeout s = .next t ∧ t.power = .failed ∧ t.fails = s.fails + 1 ∧ t.bootcause.extractLsb' 4 4 = 6 ∧
      t.mem = s.mem ∧ t.tiles = s.tiles) ∧
    (s.agenda = [] → s.worked = false → s.sched = [] →
      (∀ n, s.power = .starting (n + 1) → ∃ t, step s = .next t ∧ t.power = .starting n) ∧
      (s.held = false → (s.power = .starting 0 → step s = exec .startTimeout s) ∧ (s.power = .failed → step s = exec (.packageReset .ok) s))) ∧
    (∃ t, exec .thermalShutdown s = .next t ∧ t.power = .off ∧ t.bootcause.extractLsb' 4 4 = 7 ∧
      t.bootcause.extractLsb' 8 8 = s.bootcause.extractLsb' 8 8 ∧ t.fails = s.fails) ∧
    (∀ n, exec (.powerThrottle n) s = .next { s with throttled := s.throttled + BitVec.ofNat 64 n }) ∧
    exec .droppedFrame s = .next { s with dropped := s.dropped + 1 }
/-- (R52, R62, R88, R102, R123, R249, R270, R296, R308, R331, R365, R390, R394, R395) Right after a package reset whose start succeeded no job and no object is there, every
link is up, CYCLE is 0 and the power limit 2,800 W; a context has every unit data-locked, checking off, FRM, FFLAGS and the
fault records at 0, no active loop, an empty trap shadow, all read marks set and empty yarns of size 4; a tile has nothing in any queue, its
accumulators are Idle, its reels of size 0, its receive queues open, its comparators disarmed. Memory is in canonical form. That the
package runs, and that memory lists nothing, are the model's choices (log 3, log 4). -/
def Obligations.ResetState : Prop :=
  let s := State.reset
  s.memOk ∧ s.mem = [] ∧ s.power = .running ∧ s.cycle = 0 ∧ s.limit = 2800 ∧ s.throttled = 0 ∧ s.jobs = [] ∧ s.objs = [] ∧ s.journal = [] ∧
    s.ops = [] ∧ s.msgs = [] ∧ s.poison = [] ∧ s.tether.session = none ∧ (∀ l, s.link l = .up) ∧ (∀ k, (s.line k).mode = 0) ∧
    (∀ c : Who, let x := s.ctx c
      x.job = none ∧ x.exit = none ∧ x.lock = 0xFFFF ∧ x.check = false ∧ x.frm = 0 ∧ x.fflags = 0 ∧ x.frec0 = 0 ∧ x.frec1 = 0 ∧ x.frec2 = 0 ∧
        x.frec3 = 0 ∧ x.loop.active = false ∧ x.xfer = [] ∧ x.shadow = none ∧ x.stall = 0 ∧ x.ptry = none ∧ x.faults = [] ∧ x.seq = 0 ∧
        x.bank.marks = 0xFFFF ∧ x.bank.fly = [] ∧ x.bank.outst = [] ∧ x.bank.lfA = 0 ∧ x.bank.lfB = 0 ∧
        (∀ u p, x.bank.port u p = 0 ∧ x.bank.slot u = Rec.zero ∧ x.bank.queue u = []) ∧
        ∀ n, (x.yarns.get Yarn.init n).k = 4 ∧ (x.yarns.get Yarn.init n).bits = 0) ∧
    ∀ u, let y := s.tile u
      y.loopBuf = none ∧ y.mxq = [] ∧ y.sxq = [] ∧ y.cpq = [] ∧ y.wakeq = [] ∧ y.frozen = false ∧
        ∀ n, y.acc n = .idle ∧ (y.reel n).size = 0 ∧ (y.rq n).opened = true ∧ (y.rq n).entries = [] ∧
          (y.cmps.get Comparator.init n).armed = false ∧ y.owner.get 0 n = 0

/-- (R16) Every step keeps memory in its canonical form, addresses strictly rising and no entry that reads as an unlisted one,
whatever instruction or event the step runs: so equal memories stay equal data, and a byte is read where it was written. -/
def Obligations.MemoryCanonicalKept : Prop :=
  ∀ s t : State, s.memOk → step s = .next t → t.memOk
end

