-- ==== Sys2Proof/Laws/Memory.lean ====
section
/-! SUPPORT. Memory: a byte reads what was last written there, every other byte stays, and every operation keeps
the canonical form. -/

namespace Sys2Proof.Machine

/-! ### Reading after writing -/

theorem Memory.read_below {lo a : Nat} {m : List Host.Cell} (h : Memory.wfFrom lo m = true) (ha : a < lo) :
    Memory.read m a = unlisted := by
  induction m generalizing lo with
  | nil => rfl
  | cons e m ih =>
    obtain ⟨k, w⟩ := e
    simp only [Memory.wfFrom, Bool.and_eq_true, decide_eq_true_eq] at h
    rw [Memory.read, if_neg (by omega)]
    exact ih h.2 (by omega)

theorem Memory.read_write_from {lo : Nat} (m : List Host.Cell) (a b : Nat) (v : Byte) (h : Memory.wfFrom lo m = true) :
    Memory.read (Memory.write m a v) b = if b = a then v else Memory.read m b := by
  induction m generalizing lo with
  | nil =>
    simp only [Memory.write]
    split <;> simp_all [Memory.read]
  | cons e m ih =>
    obtain ⟨k, w⟩ := e
    simp only [Memory.wfFrom, Bool.and_eq_true, decide_eq_true_eq] at h
    simp only [Memory.write]
    have hb : ∀ c, c ≤ k → Memory.read m c = unlisted := fun c hc => Memory.read_below h.2 (by omega)
    split
    · split
      · by_cases hba : b = a
        · subst hba; subst_vars
          simp only [Memory.read, if_pos, if_neg (show ¬b = k by omega), hb b (by omega)]
        · rw [if_neg hba]
      · by_cases hba : b = a <;> simp [Memory.read, hba]
    · split
      · subst_vars
        split
        · subst_vars
          by_cases hba : b = k
          · subst hba; simp [hb b (by omega)]
          · simp [Memory.read, hba]
        · by_cases hba : b = k <;> simp [Memory.read, hba]
      · by_cases hbk : b = k
        · subst hbk; simp only [Memory.read, if_pos]; rw [if_neg (by omega)]
        · simp only [Memory.read, if_neg hbk, ih h.2]

/-- In memory of canonical form, a byte reads what was last written to its location. -/
theorem Memory.read_write {m : List Host.Cell} (h : Memory.wf m = true) (a b : Nat) (v : Byte) :
    Memory.read (Memory.write m a v) b = if b = a then v else Memory.read m b :=
  Memory.read_write_from m a b v h

theorem Memory.read_write_of_ne (m : List Host.Cell) {a b : Nat} (v : Byte) (h : b ≠ a) :
    Memory.read (Memory.write m a v) b = Memory.read m b := by
  induction m with
  | nil => simp only [Memory.write]; split <;> simp [Memory.read, h]
  | cons e m ih =>
    obtain ⟨k, w⟩ := e
    simp only [Memory.write]
    repeat' split
    all_goals subst_vars
    all_goals first
      | rfl
      | simp [Memory.read, h, ih]

theorem Memory.read_writeLe_outside (m : List Host.Cell) (n : Nat) {a b : Nat} (v : Nat) (h : b < a ∨ a + n ≤ b) :
    Memory.read (Memory.writeLe m a n v) b = Memory.read m b := by
  induction n generalizing m a v with
  | zero => rfl
  | succ n ih => rw [Memory.writeLe, ih _ _ (by omega), Memory.read_write_of_ne _ _ (by omega)]

/-! ### The canonical form -/

theorem Memory.wfFrom_weaken {lo lo' : Nat} {m : List Host.Cell} (h : Memory.wfFrom lo m = true) (hl : lo' ≤ lo) :
    Memory.wfFrom lo' m = true := by
  cases m with
  | nil => rfl
  | cons e m =>
    obtain ⟨k, w⟩ := e
    simp only [Memory.wfFrom, Bool.and_eq_true, decide_eq_true_eq] at h ⊢
    exact ⟨⟨by omega, h.1.2⟩, h.2⟩

theorem Memory.wfFrom_write {lo a : Nat} {m : List Host.Cell} (v : Byte) (h : Memory.wfFrom lo m = true) (ha : lo ≤ a) :
    Memory.wfFrom lo (Memory.write m a v) = true := by
  induction m generalizing lo with
  | nil =>
    simp only [Memory.write]
    split
    · rfl
    · simp only [Memory.wfFrom, Bool.and_eq_true, decide_eq_true_eq, bne_iff_ne]
      exact ⟨⟨ha, by assumption⟩, trivial⟩
  | cons e m ih =>
    obtain ⟨k, w⟩ := e
    have hw := h
    simp only [Memory.wfFrom, Bool.and_eq_true, decide_eq_true_eq, bne_iff_ne] at h
    simp only [Memory.write]
    repeat' split
    · exact hw
    · simp only [Memory.wfFrom, Bool.and_eq_true, decide_eq_true_eq, bne_iff_ne]
      exact ⟨⟨ha, by assumption⟩, ⟨by omega, h.1.2⟩, h.2⟩
    · exact Memory.wfFrom_weaken h.2 (by omega)
    · simp only [Memory.wfFrom, Bool.and_eq_true, decide_eq_true_eq, bne_iff_ne]
      exact ⟨⟨h.1.1, by assumption⟩, h.2⟩
    · simp only [Memory.wfFrom, Bool.and_eq_true, decide_eq_true_eq, bne_iff_ne]
      exact ⟨h.1, ih h.2 (by omega)⟩

theorem Memory.wf_write {m : List Host.Cell} (h : Memory.wf m = true) (a : Nat) (v : Byte) :
    Memory.wf (Memory.write m a v) = true := Memory.wfFrom_write v h (Nat.zero_le a)

theorem Memory.wf_writeLe {m : List Host.Cell} (h : Memory.wf m = true) (a n v : Nat) :
    Memory.wf (Memory.writeLe m a n v) = true := by
  induction n generalizing m a v with
  | zero => exact h
  | succ n ih => exact ih (Memory.wf_write h _ _) _ _

theorem Memory.wfFrom_append {lo mid : Nat} {m n : List Host.Cell} (hm : Memory.wfFrom lo m = true)
    (hn : Memory.wfFrom mid n = true) (hl : lo ≤ mid) (h : ∀ e ∈ m, e.1 < mid) : Memory.wfFrom lo (m ++ n) = true := by
  induction m generalizing lo with
  | nil => exact Memory.wfFrom_weaken hn hl
  | cons e m ih =>
    obtain ⟨k, w⟩ := e
    have hk : k < mid := h (k, w) List.mem_cons_self
    simp only [List.cons_append, Memory.wfFrom, Bool.and_eq_true, decide_eq_true_eq] at hm ⊢
    exact ⟨hm.1, ih hm.2 (by omega) fun e he => h e (List.mem_cons_of_mem _ he)⟩

theorem Memory.wfFrom_filter {lo : Nat} {m : List Host.Cell} (p : Host.Cell → Bool) (h : Memory.wfFrom lo m = true) :
    Memory.wfFrom lo (m.filter p) = true := by
  induction m generalizing lo with
  | nil => rfl
  | cons e m ih =>
    obtain ⟨k, w⟩ := e
    simp only [Memory.wfFrom, Bool.and_eq_true, decide_eq_true_eq] at h
    rw [List.filter_cons]
    split
    · simp only [Memory.wfFrom, Bool.and_eq_true, decide_eq_true_eq]
      exact ⟨h.1, ih h.2⟩
    · exact ih (Memory.wfFrom_weaken h.2 (by omega))

/-- The entries from `a` on, of memory in canonical form. -/
theorem Memory.wfFrom_filter_from {lo : Nat} {m : List Host.Cell} (a : Nat) (h : Memory.wfFrom lo m = true) :
    Memory.wfFrom a (m.filter fun (e : Host.Cell) => a ≤ e.1) = true := by
  induction m generalizing lo with
  | nil => rfl
  | cons e m ih =>
    obtain ⟨k, w⟩ := e
    have hw := h
    simp only [Memory.wfFrom, Bool.and_eq_true, decide_eq_true_eq] at h
    rw [List.filter_cons]
    split
    · rename_i hk
      have hk' : a ≤ k := of_decide_eq_true hk
      simp only [Memory.wfFrom, Bool.and_eq_true, decide_eq_true_eq]
      exact ⟨⟨hk', h.1.2⟩, Memory.wfFrom_filter _ h.2⟩
    · exact ih h.2

theorem Memory.wfFrom_cellsFrom (a : Nat) (bs : List Byte) : Memory.wfFrom a (Memory.cellsFrom a bs) = true := by
  induction bs generalizing a with
  | nil => rfl
  | cons b bs ih =>
    rw [Memory.cellsFrom]
    split
    · exact Memory.wfFrom_weaken (ih (a + 1)) (by omega)
    · simp only [Memory.wfFrom, Bool.and_eq_true, decide_eq_true_eq, bne_iff_ne]
      exact ⟨⟨Nat.le_refl a, by assumption⟩, ih (a + 1)⟩

theorem Memory.cellsFrom_lt (a : Nat) (bs : List Byte) : ∀ e ∈ Memory.cellsFrom a bs, e.1 < a + bs.length := by
  induction bs generalizing a with
  | nil => intro e he; cases he
  | cons b bs ih =>
    intro e he
    have hs := ih (a + 1)
    rw [Memory.cellsFrom] at he
    rw [List.length_cons]
    split at he
    · have := hs e he; omega
    · rcases List.mem_cons.mp he with rfl | he
      · simp only; omega
      · have := hs e he; omega

/-- What lies below `a`, new entries in [a, b), and what lies from `b` on: canonical again. -/
theorem Memory.wf_splice {m x : List Host.Cell} {a b : Nat} (h : Memory.wf m = true) (hx : Memory.wfFrom a x = true)
    (hb : ∀ e ∈ x, e.1 < b) (hab : a ≤ b) :
    Memory.wf ((m.filter fun (e : Host.Cell) => e.1 < a) ++ x ++ m.filter fun (e : Host.Cell) => b ≤ e.1) = true := by
  refine Memory.wfFrom_append (mid := b) ?_ (Memory.wfFrom_filter_from b h) (Nat.zero_le b) ?_
  · refine Memory.wfFrom_append (mid := a) (Memory.wfFrom_filter _ h) hx (Nat.zero_le a) ?_
    intro e he
    exact of_decide_eq_true (List.mem_filter.mp he).2
  · intro e he
    rcases List.mem_append.mp he with he | he
    · have : e.1 < a := of_decide_eq_true (List.mem_filter.mp he).2
      omega
    · exact hb e he

theorem Memory.wf_writeBytes {m : List Host.Cell} (h : Memory.wf m = true) (a : Nat) (bs : List Byte) :
    Memory.wf (Memory.writeBytes m a bs) = true :=
  Memory.wf_splice h (Memory.wfFrom_cellsFrom a bs) (Memory.cellsFrom_lt a bs) (by omega)

theorem Memory.window_spec (a n lo : Nat) (x : Sparse Byte) :
    Memory.wfFrom (a + lo) (Memory.window a n lo x) = true ∧ ∀ e ∈ Memory.window a n lo x, e.1 < a + n := by
  induction x generalizing lo with
  | nil => exact ⟨rfl, fun e he => by cases he⟩
  | cons e x ih =>
    obtain ⟨k, v⟩ := e
    rw [Memory.window]
    split
    · rename_i hk
      have hr := ih (k + 1)
      constructor
      · simp only [Memory.wfFrom, Bool.and_eq_true, decide_eq_true_eq, bne_iff_ne]
        exact ⟨⟨by omega, hk.2.2⟩, hr.1⟩
      · intro e he
        rcases List.mem_cons.mp he with rfl | he
        · simp only; omega
        · exact hr.2 e he
    · exact ih lo

theorem Memory.wf_putWindow {m : List Host.Cell} (h : Memory.wf m = true) (a n : Nat) (x : Sparse Byte) :
    Memory.wf (Memory.putWindow m a n x) = true :=
  Memory.wf_splice h (Memory.window_spec a n 0 x).1 (Memory.window_spec a n 0 x).2 (by omega)

/-! ### Wide accesses -/

theorem Memory.read_writeLe_inside {m : List Host.Cell} (h : Memory.wf m = true) (a n v i : Nat) (hi : i < n) :
    Memory.read (Memory.writeLe m a n v) (a + i) = BitVec.ofNat 8 (v / 256 ^ i) := by
  induction n generalizing m a v i with
  | zero => omega
  | succ n ih =>
    rw [Memory.writeLe]
    cases i with
    | zero => rw [Memory.read_writeLe_outside _ _ _ (by omega), Memory.read_write h]; simp
    | succ i =>
      rw [show a + (i + 1) = a + 1 + i by omega, ih (Memory.wf_write h _ _) _ _ _ (by omega),
        Nat.div_div_eq_div_mul, Nat.pow_succ, Nat.mul_comm (256 ^ i) 256]

/-- (R2) A value read where it was written. -/
theorem Memory.readLe_writeLe {m : List Host.Cell} (h : Memory.wf m = true) (a n v : Nat) :
    Memory.readLe (Memory.writeLe m a n v) a n = v % 256 ^ n := by
  induction n generalizing m a v with
  | zero => simp [Memory.readLe, Nat.mod_one]
  | succ n ih =>
    rw [Memory.readLe, Memory.writeLe, Memory.read_writeLe_outside _ _ _ (by omega), Memory.read_write h, if_pos rfl,
      ih (Memory.wf_write h _ _), BitVec.toNat_ofNat]
    rw [show (256 : Nat) ^ (n + 1) = 256 * 256 ^ n from by rw [Nat.pow_succ, Nat.mul_comm], Nat.mod_mul]

end Sys2Proof.Machine
end

