-- ==== Sys2Proof/Laws/Sparse.lean ====
section
/-! SUPPORT. Sparse maps: what an entry reads after another is written or taken out. -/

namespace Sys2Proof.Machine

variable {α : Type}

@[simp] theorem Sparse.get?_nil (n : Nat) : Sparse.get? ([] : Sparse α) n = none := rfl

@[simp] theorem Sparse.get_nil (d : α) (n : Nat) : Sparse.get ([] : Sparse α) d n = d := rfl

theorem Sparse.get?_set (m : Sparse α) (n k : Nat) (v : α) :
    Sparse.get? (Sparse.set m n v) k = if k = n then some v else Sparse.get? m k := by
  induction m with
  | nil => simp only [Sparse.set, Sparse.get?]
  | cons e m ih =>
    obtain ⟨j, w⟩ := e
    simp only [Sparse.set]
    split
    · simp only [Sparse.get?]
    · split
      · subst_vars
        simp only [Sparse.get?]
        split <;> rfl
      · simp only [Sparse.get?, ih]
        by_cases hkj : k = j
        · rw [if_pos hkj, if_pos hkj, if_neg (by omega)]
        · rw [if_neg hkj, if_neg hkj]

@[simp] theorem Sparse.get?_set_self (m : Sparse α) (n : Nat) (v : α) :
    Sparse.get? (Sparse.set m n v) n = some v := by
  rw [Sparse.get?_set, if_pos rfl]

theorem Sparse.get?_set_of_ne (m : Sparse α) {n k : Nat} (v : α) (h : k ≠ n) :
    Sparse.get? (Sparse.set m n v) k = Sparse.get? m k := by
  rw [Sparse.get?_set, if_neg h]

@[simp] theorem Sparse.get_set_self (m : Sparse α) (d : α) (n : Nat) (v : α) :
    Sparse.get (Sparse.set m n v) d n = v := by
  simp only [Sparse.get, Sparse.get?_set_self, Option.getD_some]

theorem Sparse.get_set_of_ne (m : Sparse α) (d : α) {n k : Nat} (v : α) (h : k ≠ n) :
    Sparse.get (Sparse.set m n v) d k = Sparse.get m d k := by
  simp only [Sparse.get, Sparse.get?_set_of_ne m v h]

theorem Sparse.get?_filter (m : Sparse α) (p : Nat → Bool) (n : Nat) :
    Sparse.get? (m.filter fun e => p e.1) n = if p n then Sparse.get? m n else none := by
  induction m with
  | nil => simp only [List.filter_nil, Sparse.get?_nil, ite_self]
  | cons e m ih =>
    obtain ⟨j, w⟩ := e
    simp only [List.filter_cons]
    by_cases hn : n = j
    · subst hn
      cases hp : p n <;> simp [Sparse.get?, ih, hp]
    · cases hp : p j <;> simp [Sparse.get?, ih, hn]

theorem Sparse.get?_erase (m : Sparse α) (n k : Nat) :
    Sparse.get? (Sparse.erase m n) k = if k = n then none else Sparse.get? m k := by
  rw [Sparse.erase, Sparse.get?_filter m (fun j => j != n)]
  by_cases h : k = n <;> simp [h]

end Sys2Proof.Machine
end

