-- ==== Sys2Proof/Laws/State.lean ====
section
/-! SUPPORT. What each update of the state leaves alone, field by field, and what it puts in place. -/

namespace Sys2Proof.Machine

variable (s : State)

/-! ### `setTile` -/

@[simp] theorem State.setTile_cycle (t : Nat) (x : Tile) : (s.setTile t x).cycle = s.cycle := rfl
@[simp] theorem State.setTile_mem (t : Nat) (x : Tile) : (s.setTile t x).mem = s.mem := rfl
@[simp] theorem State.setTile_poison (t : Nat) (x : Tile) : (s.setTile t x).poison = s.poison := rfl
@[simp] theorem State.setTile_trail (t : Nat) (x : Tile) : (s.setTile t x).trail = s.trail := rfl
@[simp] theorem State.setTile_parity (t : Nat) (x : Tile) : (s.setTile t x).parity = s.parity := rfl
@[simp] theorem State.setTile_tlbs (t : Nat) (x : Tile) : (s.setTile t x).tlbs = s.tlbs := rfl
@[simp] theorem State.setTile_utlbs (t : Nat) (x : Tile) : (s.setTile t x).utlbs = s.utlbs := rfl
@[simp] theorem State.setTile_walks (t : Nat) (x : Tile) : (s.setTile t x).walks = s.walks := rfl
@[simp] theorem State.setTile_roots (t : Nat) (x : Tile) : (s.setTile t x).roots = s.roots := rfl
@[simp] theorem State.setTile_newRoots (t : Nat) (x : Tile) : (s.setTile t x).newRoots = s.newRoots := rfl
@[simp] theorem State.setTile_pool (t : Nat) (x : Tile) : (s.setTile t x).pool = s.pool := rfl
@[simp] theorem State.setTile_poolTab (t : Nat) (x : Tile) : (s.setTile t x).poolTab = s.poolTab := rfl
@[simp] theorem State.setTile_ops (t : Nat) (x : Tile) : (s.setTile t x).ops = s.ops := rfl
@[simp] theorem State.setTile_glines (t : Nat) (x : Tile) : (s.setTile t x).glines = s.glines := rfl
@[simp] theorem State.setTile_gmsgs (t : Nat) (x : Tile) : (s.setTile t x).gmsgs = s.gmsgs := rfl
@[simp] theorem State.setTile_hlines (t : Nat) (x : Tile) : (s.setTile t x).hlines = s.hlines := rfl
@[simp] theorem State.setTile_staged (t : Nat) (x : Tile) : (s.setTile t x).staged = s.staged := rfl
@[simp] theorem State.setTile_restarts (t : Nat) (x : Tile) : (s.setTile t x).restarts = s.restarts := rfl
@[simp] theorem State.setTile_areqs (t : Nat) (x : Tile) : (s.setTile t x).areqs = s.areqs := rfl
@[simp] theorem State.setTile_bridles (t : Nat) (x : Tile) : (s.setTile t x).bridles = s.bridles := rfl
@[simp] theorem State.setTile_areplies (t : Nat) (x : Tile) : (s.setTile t x).areplies = s.areplies := rfl
@[simp] theorem State.setTile_filters (t : Nat) (x : Tile) : (s.setTile t x).filters = s.filters := rfl
@[simp] theorem State.setTile_msgs (t : Nat) (x : Tile) : (s.setTile t x).msgs = s.msgs := rfl
@[simp] theorem State.setTile_lines (t : Nat) (x : Tile) : (s.setTile t x).lines = s.lines := rfl
@[simp] theorem State.setTile_evreqs (t : Nat) (x : Tile) : (s.setTile t x).evreqs = s.evreqs := rfl
@[simp] theorem State.setTile_lmsgs (t : Nat) (x : Tile) : (s.setTile t x).lmsgs = s.lmsgs := rfl
@[simp] theorem State.setTile_dctrs (t : Nat) (x : Tile) : (s.setTile t x).dctrs = s.dctrs := rfl
@[simp] theorem State.setTile_dfrozen (t : Nat) (x : Tile) : (s.setTile t x).dfrozen = s.dfrozen := rfl
@[simp] theorem State.setTile_prefetch (t : Nat) (x : Tile) : (s.setTile t x).prefetch = s.prefetch := rfl
@[simp] theorem State.setTile_pfFly (t : Nat) (x : Tile) : (s.setTile t x).pfFly = s.pfFly := rfl
@[simp] theorem State.setTile_pfIn (t : Nat) (x : Tile) : (s.setTile t x).pfIn = s.pfIn := rfl
@[simp] theorem State.setTile_links (t : Nat) (x : Tile) : (s.setTile t x).links = s.links := rfl
@[simp] theorem State.setTile_jobs (t : Nat) (x : Tile) : (s.setTile t x).jobs = s.jobs := rfl
@[simp] theorem State.setTile_objs (t : Nat) (x : Tile) : (s.setTile t x).objs = s.objs := rfl
@[simp] theorem State.setTile_journal (t : Nat) (x : Tile) : (s.setTile t x).journal = s.journal := rfl
@[simp] theorem State.setTile_qnext (t : Nat) (x : Tile) : (s.setTile t x).qnext = s.qnext := rfl
@[simp] theorem State.setTile_qhold (t : Nat) (x : Tile) : (s.setTile t x).qhold = s.qhold := rfl
@[simp] theorem State.setTile_qwait (t : Nat) (x : Tile) : (s.setTile t x).qwait = s.qwait := rfl
@[simp] theorem State.setTile_deps (t : Nat) (x : Tile) : (s.setTile t x).deps = s.deps := rfl
@[simp] theorem State.setTile_snaps (t : Nat) (x : Tile) : (s.setTile t x).snaps = s.snaps := rfl
@[simp] theorem State.setTile_keys (t : Nat) (x : Tile) : (s.setTile t x).keys = s.keys := rfl
@[simp] theorem State.setTile_staging (t : Nat) (x : Tile) : (s.setTile t x).staging = s.staging := rfl
@[simp] theorem State.setTile_firmware (t : Nat) (x : Tile) : (s.setTile t x).firmware = s.firmware := rfl
@[simp] theorem State.setTile_nextFw (t : Nat) (x : Tile) : (s.setTile t x).nextFw = s.nextFw := rfl
@[simp] theorem State.setTile_fails (t : Nat) (x : Tile) : (s.setTile t x).fails = s.fails := rfl
@[simp] theorem State.setTile_bootcause (t : Nat) (x : Tile) : (s.setTile t x).bootcause = s.bootcause := rfl
@[simp] theorem State.setTile_power (t : Nat) (x : Tile) : (s.setTile t x).power = s.power := rfl
@[simp] theorem State.setTile_limit (t : Nat) (x : Tile) : (s.setTile t x).limit = s.limit := rfl
@[simp] theorem State.setTile_throttled (t : Nat) (x : Tile) : (s.setTile t x).throttled = s.throttled := rfl
@[simp] theorem State.setTile_dropped (t : Nat) (x : Tile) : (s.setTile t x).dropped = s.dropped := rfl
@[simp] theorem State.setTile_fwlog (t : Nat) (x : Tile) : (s.setTile t x).fwlog = s.fwlog := rfl
@[simp] theorem State.setTile_tether (t : Nat) (x : Tile) : (s.setTile t x).tether = s.tether := rfl
@[simp] theorem State.setTile_hostOut (t : Nat) (x : Tile) : (s.setTile t x).hostOut = s.hostOut := rfl
@[simp] theorem State.setTile_steps (t : Nat) (x : Tile) : (s.setTile t x).steps = s.steps := rfl
@[simp] theorem State.setTile_peerOut (t : Nat) (x : Tile) : (s.setTile t x).peerOut = s.peerOut := rfl
@[simp] theorem State.setTile_fresh (t : Nat) (x : Tile) : (s.setTile t x).fresh = s.fresh := rfl
@[simp] theorem State.setTile_frees (t : Nat) (x : Tile) : (s.setTile t x).frees = s.frees := rfl
@[simp] theorem State.setTile_trig (t : Nat) (x : Tile) : (s.setTile t x).trig = s.trig := rfl
@[simp] theorem State.setTile_agenda (t : Nat) (x : Tile) : (s.setTile t x).agenda = s.agenda := rfl
@[simp] theorem State.setTile_sched (t : Nat) (x : Tile) : (s.setTile t x).sched = s.sched := rfl
@[simp] theorem State.setTile_held (t : Nat) (x : Tile) : (s.setTile t x).held = s.held := rfl
@[simp] theorem State.setTile_worked (t : Nat) (x : Tile) : (s.setTile t x).worked = s.worked := rfl
@[simp] theorem State.setTile_misses (t : Nat) (x : Tile) : (s.setTile t x).misses = s.misses := rfl
@[simp] theorem State.setTile_dirty (t : Nat) (x : Tile) : (s.setTile t x).dirty = s.dirty := rfl
@[simp] theorem State.setTile_swIn (t : Nat) (x : Tile) : (s.setTile t x).swIn = s.swIn := rfl
@[simp] theorem State.setTile_inbound (t : Nat) (x : Tile) : (s.setTile t x).inbound = s.inbound := rfl
@[simp] theorem State.setTile_early (t : Nat) (x : Tile) : (s.setTile t x).early = s.early := rfl
@[simp] theorem State.setTile_deferred (t : Nat) (x : Tile) : (s.setTile t x).deferred = s.deferred := rfl
@[simp] theorem State.setTile_streams (t : Nat) (x : Tile) : (s.setTile t x).streams = s.streams := rfl
@[simp] theorem State.setTile_cache (t : Nat) (x : Tile) : (s.setTile t x).cache = s.cache := rfl
@[simp] theorem State.setTile_replays (t : Nat) (x : Tile) : (s.setTile t x).replays = s.replays := rfl

/-! ### `updTile` -/

@[simp] theorem State.updTile_cycle (t : Nat) (g : Tile → Tile) : (s.updTile t g).cycle = s.cycle := rfl
@[simp] theorem State.updTile_mem (t : Nat) (g : Tile → Tile) : (s.updTile t g).mem = s.mem := rfl
@[simp] theorem State.updTile_poison (t : Nat) (g : Tile → Tile) : (s.updTile t g).poison = s.poison := rfl
@[simp] theorem State.updTile_trail (t : Nat) (g : Tile → Tile) : (s.updTile t g).trail = s.trail := rfl
@[simp] theorem State.updTile_parity (t : Nat) (g : Tile → Tile) : (s.updTile t g).parity = s.parity := rfl
@[simp] theorem State.updTile_tlbs (t : Nat) (g : Tile → Tile) : (s.updTile t g).tlbs = s.tlbs := rfl
@[simp] theorem State.updTile_utlbs (t : Nat) (g : Tile → Tile) : (s.updTile t g).utlbs = s.utlbs := rfl
@[simp] theorem State.updTile_walks (t : Nat) (g : Tile → Tile) : (s.updTile t g).walks = s.walks := rfl
@[simp] theorem State.updTile_roots (t : Nat) (g : Tile → Tile) : (s.updTile t g).roots = s.roots := rfl
@[simp] theorem State.updTile_newRoots (t : Nat) (g : Tile → Tile) : (s.updTile t g).newRoots = s.newRoots := rfl
@[simp] theorem State.updTile_pool (t : Nat) (g : Tile → Tile) : (s.updTile t g).pool = s.pool := rfl
@[simp] theorem State.updTile_poolTab (t : Nat) (g : Tile → Tile) : (s.updTile t g).poolTab = s.poolTab := rfl
@[simp] theorem State.updTile_ops (t : Nat) (g : Tile → Tile) : (s.updTile t g).ops = s.ops := rfl
@[simp] theorem State.updTile_glines (t : Nat) (g : Tile → Tile) : (s.updTile t g).glines = s.glines := rfl
@[simp] theorem State.updTile_gmsgs (t : Nat) (g : Tile → Tile) : (s.updTile t g).gmsgs = s.gmsgs := rfl
@[simp] theorem State.updTile_hlines (t : Nat) (g : Tile → Tile) : (s.updTile t g).hlines = s.hlines := rfl
@[simp] theorem State.updTile_staged (t : Nat) (g : Tile → Tile) : (s.updTile t g).staged = s.staged := rfl
@[simp] theorem State.updTile_restarts (t : Nat) (g : Tile → Tile) : (s.updTile t g).restarts = s.restarts := rfl
@[simp] theorem State.updTile_areqs (t : Nat) (g : Tile → Tile) : (s.updTile t g).areqs = s.areqs := rfl
@[simp] theorem State.updTile_bridles (t : Nat) (g : Tile → Tile) : (s.updTile t g).bridles = s.bridles := rfl
@[simp] theorem State.updTile_areplies (t : Nat) (g : Tile → Tile) : (s.updTile t g).areplies = s.areplies := rfl
@[simp] theorem State.updTile_filters (t : Nat) (g : Tile → Tile) : (s.updTile t g).filters = s.filters := rfl
@[simp] theorem State.updTile_msgs (t : Nat) (g : Tile → Tile) : (s.updTile t g).msgs = s.msgs := rfl
@[simp] theorem State.updTile_lines (t : Nat) (g : Tile → Tile) : (s.updTile t g).lines = s.lines := rfl
@[simp] theorem State.updTile_evreqs (t : Nat) (g : Tile → Tile) : (s.updTile t g).evreqs = s.evreqs := rfl
@[simp] theorem State.updTile_lmsgs (t : Nat) (g : Tile → Tile) : (s.updTile t g).lmsgs = s.lmsgs := rfl
@[simp] theorem State.updTile_dctrs (t : Nat) (g : Tile → Tile) : (s.updTile t g).dctrs = s.dctrs := rfl
@[simp] theorem State.updTile_dfrozen (t : Nat) (g : Tile → Tile) : (s.updTile t g).dfrozen = s.dfrozen := rfl
@[simp] theorem State.updTile_prefetch (t : Nat) (g : Tile → Tile) : (s.updTile t g).prefetch = s.prefetch := rfl
@[simp] theorem State.updTile_pfFly (t : Nat) (g : Tile → Tile) : (s.updTile t g).pfFly = s.pfFly := rfl
@[simp] theorem State.updTile_pfIn (t : Nat) (g : Tile → Tile) : (s.updTile t g).pfIn = s.pfIn := rfl
@[simp] theorem State.updTile_links (t : Nat) (g : Tile → Tile) : (s.updTile t g).links = s.links := rfl
@[simp] theorem State.updTile_jobs (t : Nat) (g : Tile → Tile) : (s.updTile t g).jobs = s.jobs := rfl
@[simp] theorem State.updTile_objs (t : Nat) (g : Tile → Tile) : (s.updTile t g).objs = s.objs := rfl
@[simp] theorem State.updTile_journal (t : Nat) (g : Tile → Tile) : (s.updTile t g).journal = s.journal := rfl
@[simp] theorem State.updTile_qnext (t : Nat) (g : Tile → Tile) : (s.updTile t g).qnext = s.qnext := rfl
@[simp] theorem State.updTile_qhold (t : Nat) (g : Tile → Tile) : (s.updTile t g).qhold = s.qhold := rfl
@[simp] theorem State.updTile_qwait (t : Nat) (g : Tile → Tile) : (s.updTile t g).qwait = s.qwait := rfl
@[simp] theorem State.updTile_deps (t : Nat) (g : Tile → Tile) : (s.updTile t g).deps = s.deps := rfl
@[simp] theorem State.updTile_snaps (t : Nat) (g : Tile → Tile) : (s.updTile t g).snaps = s.snaps := rfl
@[simp] theorem State.updTile_keys (t : Nat) (g : Tile → Tile) : (s.updTile t g).keys = s.keys := rfl
@[simp] theorem State.updTile_staging (t : Nat) (g : Tile → Tile) : (s.updTile t g).staging = s.staging := rfl
@[simp] theorem State.updTile_firmware (t : Nat) (g : Tile → Tile) : (s.updTile t g).firmware = s.firmware := rfl
@[simp] theorem State.updTile_nextFw (t : Nat) (g : Tile → Tile) : (s.updTile t g).nextFw = s.nextFw := rfl
@[simp] theorem State.updTile_fails (t : Nat) (g : Tile → Tile) : (s.updTile t g).fails = s.fails := rfl
@[simp] theorem State.updTile_bootcause (t : Nat) (g : Tile → Tile) : (s.updTile t g).bootcause = s.bootcause := rfl
@[simp] theorem State.updTile_power (t : Nat) (g : Tile → Tile) : (s.updTile t g).power = s.power := rfl
@[simp] theorem State.updTile_limit (t : Nat) (g : Tile → Tile) : (s.updTile t g).limit = s.limit := rfl
@[simp] theorem State.updTile_throttled (t : Nat) (g : Tile → Tile) : (s.updTile t g).throttled = s.throttled := rfl
@[simp] theorem State.updTile_dropped (t : Nat) (g : Tile → Tile) : (s.updTile t g).dropped = s.dropped := rfl
@[simp] theorem State.updTile_fwlog (t : Nat) (g : Tile → Tile) : (s.updTile t g).fwlog = s.fwlog := rfl
@[simp] theorem State.updTile_tether (t : Nat) (g : Tile → Tile) : (s.updTile t g).tether = s.tether := rfl
@[simp] theorem State.updTile_hostOut (t : Nat) (g : Tile → Tile) : (s.updTile t g).hostOut = s.hostOut := rfl
@[simp] theorem State.updTile_steps (t : Nat) (g : Tile → Tile) : (s.updTile t g).steps = s.steps := rfl
@[simp] theorem State.updTile_peerOut (t : Nat) (g : Tile → Tile) : (s.updTile t g).peerOut = s.peerOut := rfl
@[simp] theorem State.updTile_fresh (t : Nat) (g : Tile → Tile) : (s.updTile t g).fresh = s.fresh := rfl
@[simp] theorem State.updTile_frees (t : Nat) (g : Tile → Tile) : (s.updTile t g).frees = s.frees := rfl
@[simp] theorem State.updTile_trig (t : Nat) (g : Tile → Tile) : (s.updTile t g).trig = s.trig := rfl
@[simp] theorem State.updTile_agenda (t : Nat) (g : Tile → Tile) : (s.updTile t g).agenda = s.agenda := rfl
@[simp] theorem State.updTile_sched (t : Nat) (g : Tile → Tile) : (s.updTile t g).sched = s.sched := rfl
@[simp] theorem State.updTile_held (t : Nat) (g : Tile → Tile) : (s.updTile t g).held = s.held := rfl
@[simp] theorem State.updTile_worked (t : Nat) (g : Tile → Tile) : (s.updTile t g).worked = s.worked := rfl
@[simp] theorem State.updTile_misses (t : Nat) (g : Tile → Tile) : (s.updTile t g).misses = s.misses := rfl
@[simp] theorem State.updTile_dirty (t : Nat) (g : Tile → Tile) : (s.updTile t g).dirty = s.dirty := rfl
@[simp] theorem State.updTile_swIn (t : Nat) (g : Tile → Tile) : (s.updTile t g).swIn = s.swIn := rfl
@[simp] theorem State.updTile_inbound (t : Nat) (g : Tile → Tile) : (s.updTile t g).inbound = s.inbound := rfl
@[simp] theorem State.updTile_early (t : Nat) (g : Tile → Tile) : (s.updTile t g).early = s.early := rfl
@[simp] theorem State.updTile_deferred (t : Nat) (g : Tile → Tile) : (s.updTile t g).deferred = s.deferred := rfl
@[simp] theorem State.updTile_streams (t : Nat) (g : Tile → Tile) : (s.updTile t g).streams = s.streams := rfl
@[simp] theorem State.updTile_cache (t : Nat) (g : Tile → Tile) : (s.updTile t g).cache = s.cache := rfl
@[simp] theorem State.updTile_replays (t : Nat) (g : Tile → Tile) : (s.updTile t g).replays = s.replays := rfl

/-! ### `setCtx` -/

@[simp] theorem State.setCtx_cycle (c : Who) (x : Ctx) : (s.setCtx c x).cycle = s.cycle := rfl
@[simp] theorem State.setCtx_mem (c : Who) (x : Ctx) : (s.setCtx c x).mem = s.mem := rfl
@[simp] theorem State.setCtx_poison (c : Who) (x : Ctx) : (s.setCtx c x).poison = s.poison := rfl
@[simp] theorem State.setCtx_trail (c : Who) (x : Ctx) : (s.setCtx c x).trail = s.trail := rfl
@[simp] theorem State.setCtx_parity (c : Who) (x : Ctx) : (s.setCtx c x).parity = s.parity := rfl
@[simp] theorem State.setCtx_tlbs (c : Who) (x : Ctx) : (s.setCtx c x).tlbs = s.tlbs := rfl
@[simp] theorem State.setCtx_utlbs (c : Who) (x : Ctx) : (s.setCtx c x).utlbs = s.utlbs := rfl
@[simp] theorem State.setCtx_walks (c : Who) (x : Ctx) : (s.setCtx c x).walks = s.walks := rfl
@[simp] theorem State.setCtx_roots (c : Who) (x : Ctx) : (s.setCtx c x).roots = s.roots := rfl
@[simp] theorem State.setCtx_newRoots (c : Who) (x : Ctx) : (s.setCtx c x).newRoots = s.newRoots := rfl
@[simp] theorem State.setCtx_pool (c : Who) (x : Ctx) : (s.setCtx c x).pool = s.pool := rfl
@[simp] theorem State.setCtx_poolTab (c : Who) (x : Ctx) : (s.setCtx c x).poolTab = s.poolTab := rfl
@[simp] theorem State.setCtx_ops (c : Who) (x : Ctx) : (s.setCtx c x).ops = s.ops := rfl
@[simp] theorem State.setCtx_glines (c : Who) (x : Ctx) : (s.setCtx c x).glines = s.glines := rfl
@[simp] theorem State.setCtx_gmsgs (c : Who) (x : Ctx) : (s.setCtx c x).gmsgs = s.gmsgs := rfl
@[simp] theorem State.setCtx_hlines (c : Who) (x : Ctx) : (s.setCtx c x).hlines = s.hlines := rfl
@[simp] theorem State.setCtx_staged (c : Who) (x : Ctx) : (s.setCtx c x).staged = s.staged := rfl
@[simp] theorem State.setCtx_restarts (c : Who) (x : Ctx) : (s.setCtx c x).restarts = s.restarts := rfl
@[simp] theorem State.setCtx_areqs (c : Who) (x : Ctx) : (s.setCtx c x).areqs = s.areqs := rfl
@[simp] theorem State.setCtx_bridles (c : Who) (x : Ctx) : (s.setCtx c x).bridles = s.bridles := rfl
@[simp] theorem State.setCtx_areplies (c : Who) (x : Ctx) : (s.setCtx c x).areplies = s.areplies := rfl
@[simp] theorem State.setCtx_filters (c : Who) (x : Ctx) : (s.setCtx c x).filters = s.filters := rfl
@[simp] theorem State.setCtx_msgs (c : Who) (x : Ctx) : (s.setCtx c x).msgs = s.msgs := rfl
@[simp] theorem State.setCtx_lines (c : Who) (x : Ctx) : (s.setCtx c x).lines = s.lines := rfl
@[simp] theorem State.setCtx_evreqs (c : Who) (x : Ctx) : (s.setCtx c x).evreqs = s.evreqs := rfl
@[simp] theorem State.setCtx_lmsgs (c : Who) (x : Ctx) : (s.setCtx c x).lmsgs = s.lmsgs := rfl
@[simp] theorem State.setCtx_dctrs (c : Who) (x : Ctx) : (s.setCtx c x).dctrs = s.dctrs := rfl
@[simp] theorem State.setCtx_dfrozen (c : Who) (x : Ctx) : (s.setCtx c x).dfrozen = s.dfrozen := rfl
@[simp] theorem State.setCtx_prefetch (c : Who) (x : Ctx) : (s.setCtx c x).prefetch = s.prefetch := rfl
@[simp] theorem State.setCtx_pfFly (c : Who) (x : Ctx) : (s.setCtx c x).pfFly = s.pfFly := rfl
@[simp] theorem State.setCtx_pfIn (c : Who) (x : Ctx) : (s.setCtx c x).pfIn = s.pfIn := rfl
@[simp] theorem State.setCtx_links (c : Who) (x : Ctx) : (s.setCtx c x).links = s.links := rfl
@[simp] theorem State.setCtx_jobs (c : Who) (x : Ctx) : (s.setCtx c x).jobs = s.jobs := rfl
@[simp] theorem State.setCtx_objs (c : Who) (x : Ctx) : (s.setCtx c x).objs = s.objs := rfl
@[simp] theorem State.setCtx_journal (c : Who) (x : Ctx) : (s.setCtx c x).journal = s.journal := rfl
@[simp] theorem State.setCtx_qnext (c : Who) (x : Ctx) : (s.setCtx c x).qnext = s.qnext := rfl
@[simp] theorem State.setCtx_qhold (c : Who) (x : Ctx) : (s.setCtx c x).qhold = s.qhold := rfl
@[simp] theorem State.setCtx_qwait (c : Who) (x : Ctx) : (s.setCtx c x).qwait = s.qwait := rfl
@[simp] theorem State.setCtx_deps (c : Who) (x : Ctx) : (s.setCtx c x).deps = s.deps := rfl
@[simp] theorem State.setCtx_snaps (c : Who) (x : Ctx) : (s.setCtx c x).snaps = s.snaps := rfl
@[simp] theorem State.setCtx_keys (c : Who) (x : Ctx) : (s.setCtx c x).keys = s.keys := rfl
@[simp] theorem State.setCtx_staging (c : Who) (x : Ctx) : (s.setCtx c x).staging = s.staging := rfl
@[simp] theorem State.setCtx_firmware (c : Who) (x : Ctx) : (s.setCtx c x).firmware = s.firmware := rfl
@[simp] theorem State.setCtx_nextFw (c : Who) (x : Ctx) : (s.setCtx c x).nextFw = s.nextFw := rfl
@[simp] theorem State.setCtx_fails (c : Who) (x : Ctx) : (s.setCtx c x).fails = s.fails := rfl
@[simp] theorem State.setCtx_bootcause (c : Who) (x : Ctx) : (s.setCtx c x).bootcause = s.bootcause := rfl
@[simp] theorem State.setCtx_power (c : Who) (x : Ctx) : (s.setCtx c x).power = s.power := rfl
@[simp] theorem State.setCtx_limit (c : Who) (x : Ctx) : (s.setCtx c x).limit = s.limit := rfl
@[simp] theorem State.setCtx_throttled (c : Who) (x : Ctx) : (s.setCtx c x).throttled = s.throttled := rfl
@[simp] theorem State.setCtx_dropped (c : Who) (x : Ctx) : (s.setCtx c x).dropped = s.dropped := rfl
@[simp] theorem State.setCtx_fwlog (c : Who) (x : Ctx) : (s.setCtx c x).fwlog = s.fwlog := rfl
@[simp] theorem State.setCtx_tether (c : Who) (x : Ctx) : (s.setCtx c x).tether = s.tether := rfl
@[simp] theorem State.setCtx_hostOut (c : Who) (x : Ctx) : (s.setCtx c x).hostOut = s.hostOut := rfl
@[simp] theorem State.setCtx_steps (c : Who) (x : Ctx) : (s.setCtx c x).steps = s.steps := rfl
@[simp] theorem State.setCtx_peerOut (c : Who) (x : Ctx) : (s.setCtx c x).peerOut = s.peerOut := rfl
@[simp] theorem State.setCtx_fresh (c : Who) (x : Ctx) : (s.setCtx c x).fresh = s.fresh := rfl
@[simp] theorem State.setCtx_frees (c : Who) (x : Ctx) : (s.setCtx c x).frees = s.frees := rfl
@[simp] theorem State.setCtx_trig (c : Who) (x : Ctx) : (s.setCtx c x).trig = s.trig := rfl
@[simp] theorem State.setCtx_agenda (c : Who) (x : Ctx) : (s.setCtx c x).agenda = s.agenda := rfl
@[simp] theorem State.setCtx_sched (c : Who) (x : Ctx) : (s.setCtx c x).sched = s.sched := rfl
@[simp] theorem State.setCtx_held (c : Who) (x : Ctx) : (s.setCtx c x).held = s.held := rfl
@[simp] theorem State.setCtx_worked (c : Who) (x : Ctx) : (s.setCtx c x).worked = s.worked := rfl
@[simp] theorem State.setCtx_misses (c : Who) (x : Ctx) : (s.setCtx c x).misses = s.misses := rfl
@[simp] theorem State.setCtx_dirty (c : Who) (x : Ctx) : (s.setCtx c x).dirty = s.dirty := rfl
@[simp] theorem State.setCtx_swIn (c : Who) (x : Ctx) : (s.setCtx c x).swIn = s.swIn := rfl
@[simp] theorem State.setCtx_inbound (c : Who) (x : Ctx) : (s.setCtx c x).inbound = s.inbound := rfl
@[simp] theorem State.setCtx_early (c : Who) (x : Ctx) : (s.setCtx c x).early = s.early := rfl
@[simp] theorem State.setCtx_deferred (c : Who) (x : Ctx) : (s.setCtx c x).deferred = s.deferred := rfl
@[simp] theorem State.setCtx_streams (c : Who) (x : Ctx) : (s.setCtx c x).streams = s.streams := rfl
@[simp] theorem State.setCtx_cache (c : Who) (x : Ctx) : (s.setCtx c x).cache = s.cache := rfl
@[simp] theorem State.setCtx_replays (c : Who) (x : Ctx) : (s.setCtx c x).replays = s.replays := rfl

/-! ### `updCtx` -/

@[simp] theorem State.updCtx_cycle (c : Who) (g : Ctx → Ctx) : (s.updCtx c g).cycle = s.cycle := rfl
@[simp] theorem State.updCtx_mem (c : Who) (g : Ctx → Ctx) : (s.updCtx c g).mem = s.mem := rfl
@[simp] theorem State.updCtx_poison (c : Who) (g : Ctx → Ctx) : (s.updCtx c g).poison = s.poison := rfl
@[simp] theorem State.updCtx_trail (c : Who) (g : Ctx → Ctx) : (s.updCtx c g).trail = s.trail := rfl
@[simp] theorem State.updCtx_parity (c : Who) (g : Ctx → Ctx) : (s.updCtx c g).parity = s.parity := rfl
@[simp] theorem State.updCtx_tlbs (c : Who) (g : Ctx → Ctx) : (s.updCtx c g).tlbs = s.tlbs := rfl
@[simp] theorem State.updCtx_utlbs (c : Who) (g : Ctx → Ctx) : (s.updCtx c g).utlbs = s.utlbs := rfl
@[simp] theorem State.updCtx_walks (c : Who) (g : Ctx → Ctx) : (s.updCtx c g).walks = s.walks := rfl
@[simp] theorem State.updCtx_roots (c : Who) (g : Ctx → Ctx) : (s.updCtx c g).roots = s.roots := rfl
@[simp] theorem State.updCtx_newRoots (c : Who) (g : Ctx → Ctx) : (s.updCtx c g).newRoots = s.newRoots := rfl
@[simp] theorem State.updCtx_pool (c : Who) (g : Ctx → Ctx) : (s.updCtx c g).pool = s.pool := rfl
@[simp] theorem State.updCtx_poolTab (c : Who) (g : Ctx → Ctx) : (s.updCtx c g).poolTab = s.poolTab := rfl
@[simp] theorem State.updCtx_ops (c : Who) (g : Ctx → Ctx) : (s.updCtx c g).ops = s.ops := rfl
@[simp] theorem State.updCtx_glines (c : Who) (g : Ctx → Ctx) : (s.updCtx c g).glines = s.glines := rfl
@[simp] theorem State.updCtx_gmsgs (c : Who) (g : Ctx → Ctx) : (s.updCtx c g).gmsgs = s.gmsgs := rfl
@[simp] theorem State.updCtx_hlines (c : Who) (g : Ctx → Ctx) : (s.updCtx c g).hlines = s.hlines := rfl
@[simp] theorem State.updCtx_staged (c : Who) (g : Ctx → Ctx) : (s.updCtx c g).staged = s.staged := rfl
@[simp] theorem State.updCtx_restarts (c : Who) (g : Ctx → Ctx) : (s.updCtx c g).restarts = s.restarts := rfl
@[simp] theorem State.updCtx_areqs (c : Who) (g : Ctx → Ctx) : (s.updCtx c g).areqs = s.areqs := rfl
@[simp] theorem State.updCtx_bridles (c : Who) (g : Ctx → Ctx) : (s.updCtx c g).bridles = s.bridles := rfl
@[simp] theorem State.updCtx_areplies (c : Who) (g : Ctx → Ctx) : (s.updCtx c g).areplies = s.areplies := rfl
@[simp] theorem State.updCtx_filters (c : Who) (g : Ctx → Ctx) : (s.updCtx c g).filters = s.filters := rfl
@[simp] theorem State.updCtx_msgs (c : Who) (g : Ctx → Ctx) : (s.updCtx c g).msgs = s.msgs := rfl
@[simp] theorem State.updCtx_lines (c : Who) (g : Ctx → Ctx) : (s.updCtx c g).lines = s.lines := rfl
@[simp] theorem State.updCtx_evreqs (c : Who) (g : Ctx → Ctx) : (s.updCtx c g).evreqs = s.evreqs := rfl
@[simp] theorem State.updCtx_lmsgs (c : Who) (g : Ctx → Ctx) : (s.updCtx c g).lmsgs = s.lmsgs := rfl
@[simp] theorem State.updCtx_dctrs (c : Who) (g : Ctx → Ctx) : (s.updCtx c g).dctrs = s.dctrs := rfl
@[simp] theorem State.updCtx_dfrozen (c : Who) (g : Ctx → Ctx) : (s.updCtx c g).dfrozen = s.dfrozen := rfl
@[simp] theorem State.updCtx_prefetch (c : Who) (g : Ctx → Ctx) : (s.updCtx c g).prefetch = s.prefetch := rfl
@[simp] theorem State.updCtx_pfFly (c : Who) (g : Ctx → Ctx) : (s.updCtx c g).pfFly = s.pfFly := rfl
@[simp] theorem State.updCtx_pfIn (c : Who) (g : Ctx → Ctx) : (s.updCtx c g).pfIn = s.pfIn := rfl
@[simp] theorem State.updCtx_links (c : Who) (g : Ctx → Ctx) : (s.updCtx c g).links = s.links := rfl
@[simp] theorem State.updCtx_jobs (c : Who) (g : Ctx → Ctx) : (s.updCtx c g).jobs = s.jobs := rfl
@[simp] theorem State.updCtx_objs (c : Who) (g : Ctx → Ctx) : (s.updCtx c g).objs = s.objs := rfl
@[simp] theorem State.updCtx_journal (c : Who) (g : Ctx → Ctx) : (s.updCtx c g).journal = s.journal := rfl
@[simp] theorem State.updCtx_qnext (c : Who) (g : Ctx → Ctx) : (s.updCtx c g).qnext = s.qnext := rfl
@[simp] theorem State.updCtx_qhold (c : Who) (g : Ctx → Ctx) : (s.updCtx c g).qhold = s.qhold := rfl
@[simp] theorem State.updCtx_qwait (c : Who) (g : Ctx → Ctx) : (s.updCtx c g).qwait = s.qwait := rfl
@[simp] theorem State.updCtx_deps (c : Who) (g : Ctx → Ctx) : (s.updCtx c g).deps = s.deps := rfl
@[simp] theorem State.updCtx_snaps (c : Who) (g : Ctx → Ctx) : (s.updCtx c g).snaps = s.snaps := rfl
@[simp] theorem State.updCtx_keys (c : Who) (g : Ctx → Ctx) : (s.updCtx c g).keys = s.keys := rfl
@[simp] theorem State.updCtx_staging (c : Who) (g : Ctx → Ctx) : (s.updCtx c g).staging = s.staging := rfl
@[simp] theorem State.updCtx_firmware (c : Who) (g : Ctx → Ctx) : (s.updCtx c g).firmware = s.firmware := rfl
@[simp] theorem State.updCtx_nextFw (c : Who) (g : Ctx → Ctx) : (s.updCtx c g).nextFw = s.nextFw := rfl
@[simp] theorem State.updCtx_fails (c : Who) (g : Ctx → Ctx) : (s.updCtx c g).fails = s.fails := rfl
@[simp] theorem State.updCtx_bootcause (c : Who) (g : Ctx → Ctx) : (s.updCtx c g).bootcause = s.bootcause := rfl
@[simp] theorem State.updCtx_power (c : Who) (g : Ctx → Ctx) : (s.updCtx c g).power = s.power := rfl
@[simp] theorem State.updCtx_limit (c : Who) (g : Ctx → Ctx) : (s.updCtx c g).limit = s.limit := rfl
@[simp] theorem State.updCtx_throttled (c : Who) (g : Ctx → Ctx) : (s.updCtx c g).throttled = s.throttled := rfl
@[simp] theorem State.updCtx_dropped (c : Who) (g : Ctx → Ctx) : (s.updCtx c g).dropped = s.dropped := rfl
@[simp] theorem State.updCtx_fwlog (c : Who) (g : Ctx → Ctx) : (s.updCtx c g).fwlog = s.fwlog := rfl
@[simp] theorem State.updCtx_tether (c : Who) (g : Ctx → Ctx) : (s.updCtx c g).tether = s.tether := rfl
@[simp] theorem State.updCtx_hostOut (c : Who) (g : Ctx → Ctx) : (s.updCtx c g).hostOut = s.hostOut := rfl
@[simp] theorem State.updCtx_steps (c : Who) (g : Ctx → Ctx) : (s.updCtx c g).steps = s.steps := rfl
@[simp] theorem State.updCtx_peerOut (c : Who) (g : Ctx → Ctx) : (s.updCtx c g).peerOut = s.peerOut := rfl
@[simp] theorem State.updCtx_fresh (c : Who) (g : Ctx → Ctx) : (s.updCtx c g).fresh = s.fresh := rfl
@[simp] theorem State.updCtx_frees (c : Who) (g : Ctx → Ctx) : (s.updCtx c g).frees = s.frees := rfl
@[simp] theorem State.updCtx_trig (c : Who) (g : Ctx → Ctx) : (s.updCtx c g).trig = s.trig := rfl
@[simp] theorem State.updCtx_agenda (c : Who) (g : Ctx → Ctx) : (s.updCtx c g).agenda = s.agenda := rfl
@[simp] theorem State.updCtx_sched (c : Who) (g : Ctx → Ctx) : (s.updCtx c g).sched = s.sched := rfl
@[simp] theorem State.updCtx_held (c : Who) (g : Ctx → Ctx) : (s.updCtx c g).held = s.held := rfl
@[simp] theorem State.updCtx_worked (c : Who) (g : Ctx → Ctx) : (s.updCtx c g).worked = s.worked := rfl
@[simp] theorem State.updCtx_misses (c : Who) (g : Ctx → Ctx) : (s.updCtx c g).misses = s.misses := rfl
@[simp] theorem State.updCtx_dirty (c : Who) (g : Ctx → Ctx) : (s.updCtx c g).dirty = s.dirty := rfl
@[simp] theorem State.updCtx_swIn (c : Who) (g : Ctx → Ctx) : (s.updCtx c g).swIn = s.swIn := rfl
@[simp] theorem State.updCtx_inbound (c : Who) (g : Ctx → Ctx) : (s.updCtx c g).inbound = s.inbound := rfl
@[simp] theorem State.updCtx_early (c : Who) (g : Ctx → Ctx) : (s.updCtx c g).early = s.early := rfl
@[simp] theorem State.updCtx_deferred (c : Who) (g : Ctx → Ctx) : (s.updCtx c g).deferred = s.deferred := rfl
@[simp] theorem State.updCtx_streams (c : Who) (g : Ctx → Ctx) : (s.updCtx c g).streams = s.streams := rfl
@[simp] theorem State.updCtx_cache (c : Who) (g : Ctx → Ctx) : (s.updCtx c g).cache = s.cache := rfl
@[simp] theorem State.updCtx_replays (c : Who) (g : Ctx → Ctx) : (s.updCtx c g).replays = s.replays := rfl

/-! ### `updSelf` -/

@[simp] theorem State.updSelf_cycle (g : Ctx → Ctx) : (s.updSelf g).cycle = s.cycle := rfl
@[simp] theorem State.updSelf_mem (g : Ctx → Ctx) : (s.updSelf g).mem = s.mem := rfl
@[simp] theorem State.updSelf_poison (g : Ctx → Ctx) : (s.updSelf g).poison = s.poison := rfl
@[simp] theorem State.updSelf_trail (g : Ctx → Ctx) : (s.updSelf g).trail = s.trail := rfl
@[simp] theorem State.updSelf_parity (g : Ctx → Ctx) : (s.updSelf g).parity = s.parity := rfl
@[simp] theorem State.updSelf_tlbs (g : Ctx → Ctx) : (s.updSelf g).tlbs = s.tlbs := rfl
@[simp] theorem State.updSelf_utlbs (g : Ctx → Ctx) : (s.updSelf g).utlbs = s.utlbs := rfl
@[simp] theorem State.updSelf_walks (g : Ctx → Ctx) : (s.updSelf g).walks = s.walks := rfl
@[simp] theorem State.updSelf_roots (g : Ctx → Ctx) : (s.updSelf g).roots = s.roots := rfl
@[simp] theorem State.updSelf_newRoots (g : Ctx → Ctx) : (s.updSelf g).newRoots = s.newRoots := rfl
@[simp] theorem State.updSelf_pool (g : Ctx → Ctx) : (s.updSelf g).pool = s.pool := rfl
@[simp] theorem State.updSelf_poolTab (g : Ctx → Ctx) : (s.updSelf g).poolTab = s.poolTab := rfl
@[simp] theorem State.updSelf_ops (g : Ctx → Ctx) : (s.updSelf g).ops = s.ops := rfl
@[simp] theorem State.updSelf_glines (g : Ctx → Ctx) : (s.updSelf g).glines = s.glines := rfl
@[simp] theorem State.updSelf_gmsgs (g : Ctx → Ctx) : (s.updSelf g).gmsgs = s.gmsgs := rfl
@[simp] theorem State.updSelf_hlines (g : Ctx → Ctx) : (s.updSelf g).hlines = s.hlines := rfl
@[simp] theorem State.updSelf_staged (g : Ctx → Ctx) : (s.updSelf g).staged = s.staged := rfl
@[simp] theorem State.updSelf_restarts (g : Ctx → Ctx) : (s.updSelf g).restarts = s.restarts := rfl
@[simp] theorem State.updSelf_areqs (g : Ctx → Ctx) : (s.updSelf g).areqs = s.areqs := rfl
@[simp] theorem State.updSelf_bridles (g : Ctx → Ctx) : (s.updSelf g).bridles = s.bridles := rfl
@[simp] theorem State.updSelf_areplies (g : Ctx → Ctx) : (s.updSelf g).areplies = s.areplies := rfl
@[simp] theorem State.updSelf_filters (g : Ctx → Ctx) : (s.updSelf g).filters = s.filters := rfl
@[simp] theorem State.updSelf_msgs (g : Ctx → Ctx) : (s.updSelf g).msgs = s.msgs := rfl
@[simp] theorem State.updSelf_lines (g : Ctx → Ctx) : (s.updSelf g).lines = s.lines := rfl
@[simp] theorem State.updSelf_evreqs (g : Ctx → Ctx) : (s.updSelf g).evreqs = s.evreqs := rfl
@[simp] theorem State.updSelf_lmsgs (g : Ctx → Ctx) : (s.updSelf g).lmsgs = s.lmsgs := rfl
@[simp] theorem State.updSelf_dctrs (g : Ctx → Ctx) : (s.updSelf g).dctrs = s.dctrs := rfl
@[simp] theorem State.updSelf_dfrozen (g : Ctx → Ctx) : (s.updSelf g).dfrozen = s.dfrozen := rfl
@[simp] theorem State.updSelf_prefetch (g : Ctx → Ctx) : (s.updSelf g).prefetch = s.prefetch := rfl
@[simp] theorem State.updSelf_pfFly (g : Ctx → Ctx) : (s.updSelf g).pfFly = s.pfFly := rfl
@[simp] theorem State.updSelf_pfIn (g : Ctx → Ctx) : (s.updSelf g).pfIn = s.pfIn := rfl
@[simp] theorem State.updSelf_links (g : Ctx → Ctx) : (s.updSelf g).links = s.links := rfl
@[simp] theorem State.updSelf_jobs (g : Ctx → Ctx) : (s.updSelf g).jobs = s.jobs := rfl
@[simp] theorem State.updSelf_objs (g : Ctx → Ctx) : (s.updSelf g).objs = s.objs := rfl
@[simp] theorem State.updSelf_journal (g : Ctx → Ctx) : (s.updSelf g).journal = s.journal := rfl
@[simp] theorem State.updSelf_qnext (g : Ctx → Ctx) : (s.updSelf g).qnext = s.qnext := rfl
@[simp] theorem State.updSelf_qhold (g : Ctx → Ctx) : (s.updSelf g).qhold = s.qhold := rfl
@[simp] theorem State.updSelf_qwait (g : Ctx → Ctx) : (s.updSelf g).qwait = s.qwait := rfl
@[simp] theorem State.updSelf_deps (g : Ctx → Ctx) : (s.updSelf g).deps = s.deps := rfl
@[simp] theorem State.updSelf_snaps (g : Ctx → Ctx) : (s.updSelf g).snaps = s.snaps := rfl
@[simp] theorem State.updSelf_keys (g : Ctx → Ctx) : (s.updSelf g).keys = s.keys := rfl
@[simp] theorem State.updSelf_staging (g : Ctx → Ctx) : (s.updSelf g).staging = s.staging := rfl
@[simp] theorem State.updSelf_firmware (g : Ctx → Ctx) : (s.updSelf g).firmware = s.firmware := rfl
@[simp] theorem State.updSelf_nextFw (g : Ctx → Ctx) : (s.updSelf g).nextFw = s.nextFw := rfl
@[simp] theorem State.updSelf_fails (g : Ctx → Ctx) : (s.updSelf g).fails = s.fails := rfl
@[simp] theorem State.updSelf_bootcause (g : Ctx → Ctx) : (s.updSelf g).bootcause = s.bootcause := rfl
@[simp] theorem State.updSelf_power (g : Ctx → Ctx) : (s.updSelf g).power = s.power := rfl
@[simp] theorem State.updSelf_limit (g : Ctx → Ctx) : (s.updSelf g).limit = s.limit := rfl
@[simp] theorem State.updSelf_throttled (g : Ctx → Ctx) : (s.updSelf g).throttled = s.throttled := rfl
@[simp] theorem State.updSelf_dropped (g : Ctx → Ctx) : (s.updSelf g).dropped = s.dropped := rfl
@[simp] theorem State.updSelf_fwlog (g : Ctx → Ctx) : (s.updSelf g).fwlog = s.fwlog := rfl
@[simp] theorem State.updSelf_tether (g : Ctx → Ctx) : (s.updSelf g).tether = s.tether := rfl
@[simp] theorem State.updSelf_hostOut (g : Ctx → Ctx) : (s.updSelf g).hostOut = s.hostOut := rfl
@[simp] theorem State.updSelf_steps (g : Ctx → Ctx) : (s.updSelf g).steps = s.steps := rfl
@[simp] theorem State.updSelf_peerOut (g : Ctx → Ctx) : (s.updSelf g).peerOut = s.peerOut := rfl
@[simp] theorem State.updSelf_fresh (g : Ctx → Ctx) : (s.updSelf g).fresh = s.fresh := rfl
@[simp] theorem State.updSelf_frees (g : Ctx → Ctx) : (s.updSelf g).frees = s.frees := rfl
@[simp] theorem State.updSelf_trig (g : Ctx → Ctx) : (s.updSelf g).trig = s.trig := rfl
@[simp] theorem State.updSelf_agenda (g : Ctx → Ctx) : (s.updSelf g).agenda = s.agenda := rfl
@[simp] theorem State.updSelf_sched (g : Ctx → Ctx) : (s.updSelf g).sched = s.sched := rfl
@[simp] theorem State.updSelf_held (g : Ctx → Ctx) : (s.updSelf g).held = s.held := rfl
@[simp] theorem State.updSelf_worked (g : Ctx → Ctx) : (s.updSelf g).worked = s.worked := rfl
@[simp] theorem State.updSelf_misses (g : Ctx → Ctx) : (s.updSelf g).misses = s.misses := rfl
@[simp] theorem State.updSelf_dirty (g : Ctx → Ctx) : (s.updSelf g).dirty = s.dirty := rfl
@[simp] theorem State.updSelf_swIn (g : Ctx → Ctx) : (s.updSelf g).swIn = s.swIn := rfl
@[simp] theorem State.updSelf_inbound (g : Ctx → Ctx) : (s.updSelf g).inbound = s.inbound := rfl
@[simp] theorem State.updSelf_early (g : Ctx → Ctx) : (s.updSelf g).early = s.early := rfl
@[simp] theorem State.updSelf_deferred (g : Ctx → Ctx) : (s.updSelf g).deferred = s.deferred := rfl
@[simp] theorem State.updSelf_streams (g : Ctx → Ctx) : (s.updSelf g).streams = s.streams := rfl
@[simp] theorem State.updSelf_cache (g : Ctx → Ctx) : (s.updSelf g).cache = s.cache := rfl
@[simp] theorem State.updSelf_replays (g : Ctx → Ctx) : (s.updSelf g).replays = s.replays := rfl

/-! ### `updJob` -/

@[simp] theorem State.updJob_cycle (j : Nat) (g : Job → Job) : (s.updJob j g).cycle = s.cycle := rfl
@[simp] theorem State.updJob_tiles (j : Nat) (g : Job → Job) : (s.updJob j g).tiles = s.tiles := rfl
@[simp] theorem State.updJob_mem (j : Nat) (g : Job → Job) : (s.updJob j g).mem = s.mem := rfl
@[simp] theorem State.updJob_poison (j : Nat) (g : Job → Job) : (s.updJob j g).poison = s.poison := rfl
@[simp] theorem State.updJob_trail (j : Nat) (g : Job → Job) : (s.updJob j g).trail = s.trail := rfl
@[simp] theorem State.updJob_parity (j : Nat) (g : Job → Job) : (s.updJob j g).parity = s.parity := rfl
@[simp] theorem State.updJob_tlbs (j : Nat) (g : Job → Job) : (s.updJob j g).tlbs = s.tlbs := rfl
@[simp] theorem State.updJob_utlbs (j : Nat) (g : Job → Job) : (s.updJob j g).utlbs = s.utlbs := rfl
@[simp] theorem State.updJob_walks (j : Nat) (g : Job → Job) : (s.updJob j g).walks = s.walks := rfl
@[simp] theorem State.updJob_roots (j : Nat) (g : Job → Job) : (s.updJob j g).roots = s.roots := rfl
@[simp] theorem State.updJob_newRoots (j : Nat) (g : Job → Job) : (s.updJob j g).newRoots = s.newRoots := rfl
@[simp] theorem State.updJob_pool (j : Nat) (g : Job → Job) : (s.updJob j g).pool = s.pool := rfl
@[simp] theorem State.updJob_poolTab (j : Nat) (g : Job → Job) : (s.updJob j g).poolTab = s.poolTab := rfl
@[simp] theorem State.updJob_ops (j : Nat) (g : Job → Job) : (s.updJob j g).ops = s.ops := rfl
@[simp] theorem State.updJob_glines (j : Nat) (g : Job → Job) : (s.updJob j g).glines = s.glines := rfl
@[simp] theorem State.updJob_gmsgs (j : Nat) (g : Job → Job) : (s.updJob j g).gmsgs = s.gmsgs := rfl
@[simp] theorem State.updJob_hlines (j : Nat) (g : Job → Job) : (s.updJob j g).hlines = s.hlines := rfl
@[simp] theorem State.updJob_staged (j : Nat) (g : Job → Job) : (s.updJob j g).staged = s.staged := rfl
@[simp] theorem State.updJob_restarts (j : Nat) (g : Job → Job) : (s.updJob j g).restarts = s.restarts := rfl
@[simp] theorem State.updJob_areqs (j : Nat) (g : Job → Job) : (s.updJob j g).areqs = s.areqs := rfl
@[simp] theorem State.updJob_bridles (j : Nat) (g : Job → Job) : (s.updJob j g).bridles = s.bridles := rfl
@[simp] theorem State.updJob_areplies (j : Nat) (g : Job → Job) : (s.updJob j g).areplies = s.areplies := rfl
@[simp] theorem State.updJob_filters (j : Nat) (g : Job → Job) : (s.updJob j g).filters = s.filters := rfl
@[simp] theorem State.updJob_msgs (j : Nat) (g : Job → Job) : (s.updJob j g).msgs = s.msgs := rfl
@[simp] theorem State.updJob_lines (j : Nat) (g : Job → Job) : (s.updJob j g).lines = s.lines := rfl
@[simp] theorem State.updJob_evreqs (j : Nat) (g : Job → Job) : (s.updJob j g).evreqs = s.evreqs := rfl
@[simp] theorem State.updJob_lmsgs (j : Nat) (g : Job → Job) : (s.updJob j g).lmsgs = s.lmsgs := rfl
@[simp] theorem State.updJob_dctrs (j : Nat) (g : Job → Job) : (s.updJob j g).dctrs = s.dctrs := rfl
@[simp] theorem State.updJob_dfrozen (j : Nat) (g : Job → Job) : (s.updJob j g).dfrozen = s.dfrozen := rfl
@[simp] theorem State.updJob_prefetch (j : Nat) (g : Job → Job) : (s.updJob j g).prefetch = s.prefetch := rfl
@[simp] theorem State.updJob_pfFly (j : Nat) (g : Job → Job) : (s.updJob j g).pfFly = s.pfFly := rfl
@[simp] theorem State.updJob_pfIn (j : Nat) (g : Job → Job) : (s.updJob j g).pfIn = s.pfIn := rfl
@[simp] theorem State.updJob_links (j : Nat) (g : Job → Job) : (s.updJob j g).links = s.links := rfl
@[simp] theorem State.updJob_objs (j : Nat) (g : Job → Job) : (s.updJob j g).objs = s.objs := rfl
@[simp] theorem State.updJob_journal (j : Nat) (g : Job → Job) : (s.updJob j g).journal = s.journal := rfl
@[simp] theorem State.updJob_qnext (j : Nat) (g : Job → Job) : (s.updJob j g).qnext = s.qnext := rfl
@[simp] theorem State.updJob_qhold (j : Nat) (g : Job → Job) : (s.updJob j g).qhold = s.qhold := rfl
@[simp] theorem State.updJob_qwait (j : Nat) (g : Job → Job) : (s.updJob j g).qwait = s.qwait := rfl
@[simp] theorem State.updJob_deps (j : Nat) (g : Job → Job) : (s.updJob j g).deps = s.deps := rfl
@[simp] theorem State.updJob_snaps (j : Nat) (g : Job → Job) : (s.updJob j g).snaps = s.snaps := rfl
@[simp] theorem State.updJob_keys (j : Nat) (g : Job → Job) : (s.updJob j g).keys = s.keys := rfl
@[simp] theorem State.updJob_staging (j : Nat) (g : Job → Job) : (s.updJob j g).staging = s.staging := rfl
@[simp] theorem State.updJob_firmware (j : Nat) (g : Job → Job) : (s.updJob j g).firmware = s.firmware := rfl
@[simp] theorem State.updJob_nextFw (j : Nat) (g : Job → Job) : (s.updJob j g).nextFw = s.nextFw := rfl
@[simp] theorem State.updJob_fails (j : Nat) (g : Job → Job) : (s.updJob j g).fails = s.fails := rfl
@[simp] theorem State.updJob_bootcause (j : Nat) (g : Job → Job) : (s.updJob j g).bootcause = s.bootcause := rfl
@[simp] theorem State.updJob_power (j : Nat) (g : Job → Job) : (s.updJob j g).power = s.power := rfl
@[simp] theorem State.updJob_limit (j : Nat) (g : Job → Job) : (s.updJob j g).limit = s.limit := rfl
@[simp] theorem State.updJob_throttled (j : Nat) (g : Job → Job) : (s.updJob j g).throttled = s.throttled := rfl
@[simp] theorem State.updJob_dropped (j : Nat) (g : Job → Job) : (s.updJob j g).dropped = s.dropped := rfl
@[simp] theorem State.updJob_fwlog (j : Nat) (g : Job → Job) : (s.updJob j g).fwlog = s.fwlog := rfl
@[simp] theorem State.updJob_tether (j : Nat) (g : Job → Job) : (s.updJob j g).tether = s.tether := rfl
@[simp] theorem State.updJob_hostOut (j : Nat) (g : Job → Job) : (s.updJob j g).hostOut = s.hostOut := rfl
@[simp] theorem State.updJob_steps (j : Nat) (g : Job → Job) : (s.updJob j g).steps = s.steps := rfl
@[simp] theorem State.updJob_peerOut (j : Nat) (g : Job → Job) : (s.updJob j g).peerOut = s.peerOut := rfl
@[simp] theorem State.updJob_fresh (j : Nat) (g : Job → Job) : (s.updJob j g).fresh = s.fresh := rfl
@[simp] theorem State.updJob_frees (j : Nat) (g : Job → Job) : (s.updJob j g).frees = s.frees := rfl
@[simp] theorem State.updJob_trig (j : Nat) (g : Job → Job) : (s.updJob j g).trig = s.trig := rfl
@[simp] theorem State.updJob_agenda (j : Nat) (g : Job → Job) : (s.updJob j g).agenda = s.agenda := rfl
@[simp] theorem State.updJob_sched (j : Nat) (g : Job → Job) : (s.updJob j g).sched = s.sched := rfl
@[simp] theorem State.updJob_held (j : Nat) (g : Job → Job) : (s.updJob j g).held = s.held := rfl
@[simp] theorem State.updJob_worked (j : Nat) (g : Job → Job) : (s.updJob j g).worked = s.worked := rfl
@[simp] theorem State.updJob_misses (j : Nat) (g : Job → Job) : (s.updJob j g).misses = s.misses := rfl
@[simp] theorem State.updJob_dirty (j : Nat) (g : Job → Job) : (s.updJob j g).dirty = s.dirty := rfl
@[simp] theorem State.updJob_swIn (j : Nat) (g : Job → Job) : (s.updJob j g).swIn = s.swIn := rfl
@[simp] theorem State.updJob_inbound (j : Nat) (g : Job → Job) : (s.updJob j g).inbound = s.inbound := rfl
@[simp] theorem State.updJob_early (j : Nat) (g : Job → Job) : (s.updJob j g).early = s.early := rfl
@[simp] theorem State.updJob_deferred (j : Nat) (g : Job → Job) : (s.updJob j g).deferred = s.deferred := rfl
@[simp] theorem State.updJob_streams (j : Nat) (g : Job → Job) : (s.updJob j g).streams = s.streams := rfl
@[simp] theorem State.updJob_cache (j : Nat) (g : Job → Job) : (s.updJob j g).cache = s.cache := rfl
@[simp] theorem State.updJob_replays (j : Nat) (g : Job → Job) : (s.updJob j g).replays = s.replays := rfl

/-! ### `takeId` -/

@[simp] theorem State.takeId_cycle : (s.takeId).cycle = s.cycle := rfl
@[simp] theorem State.takeId_tiles : (s.takeId).tiles = s.tiles := rfl
@[simp] theorem State.takeId_mem : (s.takeId).mem = s.mem := rfl
@[simp] theorem State.takeId_poison : (s.takeId).poison = s.poison := rfl
@[simp] theorem State.takeId_trail : (s.takeId).trail = s.trail := rfl
@[simp] theorem State.takeId_parity : (s.takeId).parity = s.parity := rfl
@[simp] theorem State.takeId_tlbs : (s.takeId).tlbs = s.tlbs := rfl
@[simp] theorem State.takeId_utlbs : (s.takeId).utlbs = s.utlbs := rfl
@[simp] theorem State.takeId_walks : (s.takeId).walks = s.walks := rfl
@[simp] theorem State.takeId_roots : (s.takeId).roots = s.roots := rfl
@[simp] theorem State.takeId_newRoots : (s.takeId).newRoots = s.newRoots := rfl
@[simp] theorem State.takeId_pool : (s.takeId).pool = s.pool := rfl
@[simp] theorem State.takeId_poolTab : (s.takeId).poolTab = s.poolTab := rfl
@[simp] theorem State.takeId_ops : (s.takeId).ops = s.ops := rfl
@[simp] theorem State.takeId_glines : (s.takeId).glines = s.glines := rfl
@[simp] theorem State.takeId_gmsgs : (s.takeId).gmsgs = s.gmsgs := rfl
@[simp] theorem State.takeId_hlines : (s.takeId).hlines = s.hlines := rfl
@[simp] theorem State.takeId_staged : (s.takeId).staged = s.staged := rfl
@[simp] theorem State.takeId_restarts : (s.takeId).restarts = s.restarts := rfl
@[simp] theorem State.takeId_areqs : (s.takeId).areqs = s.areqs := rfl
@[simp] theorem State.takeId_bridles : (s.takeId).bridles = s.bridles := rfl
@[simp] theorem State.takeId_areplies : (s.takeId).areplies = s.areplies := rfl
@[simp] theorem State.takeId_filters : (s.takeId).filters = s.filters := rfl
@[simp] theorem State.takeId_msgs : (s.takeId).msgs = s.msgs := rfl
@[simp] theorem State.takeId_lines : (s.takeId).lines = s.lines := rfl
@[simp] theorem State.takeId_evreqs : (s.takeId).evreqs = s.evreqs := rfl
@[simp] theorem State.takeId_lmsgs : (s.takeId).lmsgs = s.lmsgs := rfl
@[simp] theorem State.takeId_dctrs : (s.takeId).dctrs = s.dctrs := rfl
@[simp] theorem State.takeId_dfrozen : (s.takeId).dfrozen = s.dfrozen := rfl
@[simp] theorem State.takeId_prefetch : (s.takeId).prefetch = s.prefetch := rfl
@[simp] theorem State.takeId_pfFly : (s.takeId).pfFly = s.pfFly := rfl
@[simp] theorem State.takeId_pfIn : (s.takeId).pfIn = s.pfIn := rfl
@[simp] theorem State.takeId_links : (s.takeId).links = s.links := rfl
@[simp] theorem State.takeId_jobs : (s.takeId).jobs = s.jobs := rfl
@[simp] theorem State.takeId_objs : (s.takeId).objs = s.objs := rfl
@[simp] theorem State.takeId_journal : (s.takeId).journal = s.journal := rfl
@[simp] theorem State.takeId_qnext : (s.takeId).qnext = s.qnext := rfl
@[simp] theorem State.takeId_qhold : (s.takeId).qhold = s.qhold := rfl
@[simp] theorem State.takeId_qwait : (s.takeId).qwait = s.qwait := rfl
@[simp] theorem State.takeId_deps : (s.takeId).deps = s.deps := rfl
@[simp] theorem State.takeId_snaps : (s.takeId).snaps = s.snaps := rfl
@[simp] theorem State.takeId_keys : (s.takeId).keys = s.keys := rfl
@[simp] theorem State.takeId_staging : (s.takeId).staging = s.staging := rfl
@[simp] theorem State.takeId_firmware : (s.takeId).firmware = s.firmware := rfl
@[simp] theorem State.takeId_nextFw : (s.takeId).nextFw = s.nextFw := rfl
@[simp] theorem State.takeId_fails : (s.takeId).fails = s.fails := rfl
@[simp] theorem State.takeId_bootcause : (s.takeId).bootcause = s.bootcause := rfl
@[simp] theorem State.takeId_power : (s.takeId).power = s.power := rfl
@[simp] theorem State.takeId_limit : (s.takeId).limit = s.limit := rfl
@[simp] theorem State.takeId_throttled : (s.takeId).throttled = s.throttled := rfl
@[simp] theorem State.takeId_dropped : (s.takeId).dropped = s.dropped := rfl
@[simp] theorem State.takeId_fwlog : (s.takeId).fwlog = s.fwlog := rfl
@[simp] theorem State.takeId_tether : (s.takeId).tether = s.tether := rfl
@[simp] theorem State.takeId_hostOut : (s.takeId).hostOut = s.hostOut := rfl
@[simp] theorem State.takeId_steps : (s.takeId).steps = s.steps := rfl
@[simp] theorem State.takeId_peerOut : (s.takeId).peerOut = s.peerOut := rfl
@[simp] theorem State.takeId_frees : (s.takeId).frees = s.frees := rfl
@[simp] theorem State.takeId_trig : (s.takeId).trig = s.trig := rfl
@[simp] theorem State.takeId_agenda : (s.takeId).agenda = s.agenda := rfl
@[simp] theorem State.takeId_sched : (s.takeId).sched = s.sched := rfl
@[simp] theorem State.takeId_held : (s.takeId).held = s.held := rfl
@[simp] theorem State.takeId_worked : (s.takeId).worked = s.worked := rfl
@[simp] theorem State.takeId_misses : (s.takeId).misses = s.misses := rfl
@[simp] theorem State.takeId_dirty : (s.takeId).dirty = s.dirty := rfl
@[simp] theorem State.takeId_swIn : (s.takeId).swIn = s.swIn := rfl
@[simp] theorem State.takeId_inbound : (s.takeId).inbound = s.inbound := rfl
@[simp] theorem State.takeId_early : (s.takeId).early = s.early := rfl
@[simp] theorem State.takeId_deferred : (s.takeId).deferred = s.deferred := rfl
@[simp] theorem State.takeId_streams : (s.takeId).streams = s.streams := rfl
@[simp] theorem State.takeId_cache : (s.takeId).cache = s.cache := rfl
@[simp] theorem State.takeId_replays : (s.takeId).replays = s.replays := rfl

/-! ### `landRec` -/

@[simp] theorem State.landRec_cycle (c : Who) (k id : Nat) (r : Rec) : (s.landRec c k id r).cycle = s.cycle := rfl
@[simp] theorem State.landRec_mem (c : Who) (k id : Nat) (r : Rec) : (s.landRec c k id r).mem = s.mem := rfl
@[simp] theorem State.landRec_poison (c : Who) (k id : Nat) (r : Rec) : (s.landRec c k id r).poison = s.poison := rfl
@[simp] theorem State.landRec_trail (c : Who) (k id : Nat) (r : Rec) : (s.landRec c k id r).trail = s.trail := rfl
@[simp] theorem State.landRec_parity (c : Who) (k id : Nat) (r : Rec) : (s.landRec c k id r).parity = s.parity := rfl
@[simp] theorem State.landRec_tlbs (c : Who) (k id : Nat) (r : Rec) : (s.landRec c k id r).tlbs = s.tlbs := rfl
@[simp] theorem State.landRec_utlbs (c : Who) (k id : Nat) (r : Rec) : (s.landRec c k id r).utlbs = s.utlbs := rfl
@[simp] theorem State.landRec_walks (c : Who) (k id : Nat) (r : Rec) : (s.landRec c k id r).walks = s.walks := rfl
@[simp] theorem State.landRec_roots (c : Who) (k id : Nat) (r : Rec) : (s.landRec c k id r).roots = s.roots := rfl
@[simp] theorem State.landRec_newRoots (c : Who) (k id : Nat) (r : Rec) : (s.landRec c k id r).newRoots = s.newRoots := rfl
@[simp] theorem State.landRec_pool (c : Who) (k id : Nat) (r : Rec) : (s.landRec c k id r).pool = s.pool := rfl
@[simp] theorem State.landRec_poolTab (c : Who) (k id : Nat) (r : Rec) : (s.landRec c k id r).poolTab = s.poolTab := rfl
@[simp] theorem State.landRec_ops (c : Who) (k id : Nat) (r : Rec) : (s.landRec c k id r).ops = s.ops := rfl
@[simp] theorem State.landRec_glines (c : Who) (k id : Nat) (r : Rec) : (s.landRec c k id r).glines = s.glines := rfl
@[simp] theorem State.landRec_gmsgs (c : Who) (k id : Nat) (r : Rec) : (s.landRec c k id r).gmsgs = s.gmsgs := rfl
@[simp] theorem State.landRec_hlines (c : Who) (k id : Nat) (r : Rec) : (s.landRec c k id r).hlines = s.hlines := rfl
@[simp] theorem State.landRec_staged (c : Who) (k id : Nat) (r : Rec) : (s.landRec c k id r).staged = s.staged := rfl
@[simp] theorem State.landRec_restarts (c : Who) (k id : Nat) (r : Rec) : (s.landRec c k id r).restarts = s.restarts := rfl
@[simp] theorem State.landRec_areqs (c : Who) (k id : Nat) (r : Rec) : (s.landRec c k id r).areqs = s.areqs := rfl
@[simp] theorem State.landRec_bridles (c : Who) (k id : Nat) (r : Rec) : (s.landRec c k id r).bridles = s.bridles := rfl
@[simp] theorem State.landRec_areplies (c : Who) (k id : Nat) (r : Rec) : (s.landRec c k id r).areplies = s.areplies := rfl
@[simp] theorem State.landRec_filters (c : Who) (k id : Nat) (r : Rec) : (s.landRec c k id r).filters = s.filters := rfl
@[simp] theorem State.landRec_msgs (c : Who) (k id : Nat) (r : Rec) : (s.landRec c k id r).msgs = s.msgs := rfl
@[simp] theorem State.landRec_lines (c : Who) (k id : Nat) (r : Rec) : (s.landRec c k id r).lines = s.lines := rfl
@[simp] theorem State.landRec_evreqs (c : Who) (k id : Nat) (r : Rec) : (s.landRec c k id r).evreqs = s.evreqs := rfl
@[simp] theorem State.landRec_lmsgs (c : Who) (k id : Nat) (r : Rec) : (s.landRec c k id r).lmsgs = s.lmsgs := rfl
@[simp] theorem State.landRec_dctrs (c : Who) (k id : Nat) (r : Rec) : (s.landRec c k id r).dctrs = s.dctrs := rfl
@[simp] theorem State.landRec_dfrozen (c : Who) (k id : Nat) (r : Rec) : (s.landRec c k id r).dfrozen = s.dfrozen := rfl
@[simp] theorem State.landRec_prefetch (c : Who) (k id : Nat) (r : Rec) : (s.landRec c k id r).prefetch = s.prefetch := rfl
@[simp] theorem State.landRec_pfFly (c : Who) (k id : Nat) (r : Rec) : (s.landRec c k id r).pfFly = s.pfFly := rfl
@[simp] theorem State.landRec_pfIn (c : Who) (k id : Nat) (r : Rec) : (s.landRec c k id r).pfIn = s.pfIn := rfl
@[simp] theorem State.landRec_links (c : Who) (k id : Nat) (r : Rec) : (s.landRec c k id r).links = s.links := rfl
@[simp] theorem State.landRec_jobs (c : Who) (k id : Nat) (r : Rec) : (s.landRec c k id r).jobs = s.jobs := rfl
@[simp] theorem State.landRec_objs (c : Who) (k id : Nat) (r : Rec) : (s.landRec c k id r).objs = s.objs := rfl
@[simp] theorem State.landRec_journal (c : Who) (k id : Nat) (r : Rec) : (s.landRec c k id r).journal = s.journal := rfl
@[simp] theorem State.landRec_qnext (c : Who) (k id : Nat) (r : Rec) : (s.landRec c k id r).qnext = s.qnext := rfl
@[simp] theorem State.landRec_qhold (c : Who) (k id : Nat) (r : Rec) : (s.landRec c k id r).qhold = s.qhold := rfl
@[simp] theorem State.landRec_qwait (c : Who) (k id : Nat) (r : Rec) : (s.landRec c k id r).qwait = s.qwait := rfl
@[simp] theorem State.landRec_deps (c : Who) (k id : Nat) (r : Rec) : (s.landRec c k id r).deps = s.deps := rfl
@[simp] theorem State.landRec_snaps (c : Who) (k id : Nat) (r : Rec) : (s.landRec c k id r).snaps = s.snaps := rfl
@[simp] theorem State.landRec_keys (c : Who) (k id : Nat) (r : Rec) : (s.landRec c k id r).keys = s.keys := rfl
@[simp] theorem State.landRec_staging (c : Who) (k id : Nat) (r : Rec) : (s.landRec c k id r).staging = s.staging := rfl
@[simp] theorem State.landRec_firmware (c : Who) (k id : Nat) (r : Rec) : (s.landRec c k id r).firmware = s.firmware := rfl
@[simp] theorem State.landRec_nextFw (c : Who) (k id : Nat) (r : Rec) : (s.landRec c k id r).nextFw = s.nextFw := rfl
@[simp] theorem State.landRec_fails (c : Who) (k id : Nat) (r : Rec) : (s.landRec c k id r).fails = s.fails := rfl
@[simp] theorem State.landRec_bootcause (c : Who) (k id : Nat) (r : Rec) : (s.landRec c k id r).bootcause = s.bootcause := rfl
@[simp] theorem State.landRec_power (c : Who) (k id : Nat) (r : Rec) : (s.landRec c k id r).power = s.power := rfl
@[simp] theorem State.landRec_limit (c : Who) (k id : Nat) (r : Rec) : (s.landRec c k id r).limit = s.limit := rfl
@[simp] theorem State.landRec_throttled (c : Who) (k id : Nat) (r : Rec) : (s.landRec c k id r).throttled = s.throttled := rfl
@[simp] theorem State.landRec_dropped (c : Who) (k id : Nat) (r : Rec) : (s.landRec c k id r).dropped = s.dropped := rfl
@[simp] theorem State.landRec_fwlog (c : Who) (k id : Nat) (r : Rec) : (s.landRec c k id r).fwlog = s.fwlog := rfl
@[simp] theorem State.landRec_tether (c : Who) (k id : Nat) (r : Rec) : (s.landRec c k id r).tether = s.tether := rfl
@[simp] theorem State.landRec_hostOut (c : Who) (k id : Nat) (r : Rec) : (s.landRec c k id r).hostOut = s.hostOut := rfl
@[simp] theorem State.landRec_steps (c : Who) (k id : Nat) (r : Rec) : (s.landRec c k id r).steps = s.steps := rfl
@[simp] theorem State.landRec_peerOut (c : Who) (k id : Nat) (r : Rec) : (s.landRec c k id r).peerOut = s.peerOut := rfl
@[simp] theorem State.landRec_fresh (c : Who) (k id : Nat) (r : Rec) : (s.landRec c k id r).fresh = s.fresh := rfl
@[simp] theorem State.landRec_frees (c : Who) (k id : Nat) (r : Rec) : (s.landRec c k id r).frees = s.frees := rfl
@[simp] theorem State.landRec_trig (c : Who) (k id : Nat) (r : Rec) : (s.landRec c k id r).trig = s.trig := rfl
@[simp] theorem State.landRec_agenda (c : Who) (k id : Nat) (r : Rec) : (s.landRec c k id r).agenda = s.agenda := rfl
@[simp] theorem State.landRec_sched (c : Who) (k id : Nat) (r : Rec) : (s.landRec c k id r).sched = s.sched := rfl
@[simp] theorem State.landRec_held (c : Who) (k id : Nat) (r : Rec) : (s.landRec c k id r).held = s.held := rfl
@[simp] theorem State.landRec_worked (c : Who) (k id : Nat) (r : Rec) : (s.landRec c k id r).worked = s.worked := rfl
@[simp] theorem State.landRec_misses (c : Who) (k id : Nat) (r : Rec) : (s.landRec c k id r).misses = s.misses := rfl
@[simp] theorem State.landRec_dirty (c : Who) (k id : Nat) (r : Rec) : (s.landRec c k id r).dirty = s.dirty := rfl
@[simp] theorem State.landRec_swIn (c : Who) (k id : Nat) (r : Rec) : (s.landRec c k id r).swIn = s.swIn := rfl
@[simp] theorem State.landRec_inbound (c : Who) (k id : Nat) (r : Rec) : (s.landRec c k id r).inbound = s.inbound := rfl
@[simp] theorem State.landRec_early (c : Who) (k id : Nat) (r : Rec) : (s.landRec c k id r).early = s.early := rfl
@[simp] theorem State.landRec_deferred (c : Who) (k id : Nat) (r : Rec) : (s.landRec c k id r).deferred = s.deferred := rfl
@[simp] theorem State.landRec_streams (c : Who) (k id : Nat) (r : Rec) : (s.landRec c k id r).streams = s.streams := rfl
@[simp] theorem State.landRec_cache (c : Who) (k id : Nat) (r : Rec) : (s.landRec c k id r).cache = s.cache := rfl
@[simp] theorem State.landRec_replays (c : Who) (k id : Nat) (r : Rec) : (s.landRec c k id r).replays = s.replays := rfl

/-! ### `startFixed` -/

@[simp] theorem State.startFixed_cycle (u l : Nat) (r : Rec) (e : Effects) : (s.startFixed u l r e).cycle = s.cycle := rfl
@[simp] theorem State.startFixed_mem (u l : Nat) (r : Rec) (e : Effects) : (s.startFixed u l r e).mem = s.mem := rfl
@[simp] theorem State.startFixed_poison (u l : Nat) (r : Rec) (e : Effects) : (s.startFixed u l r e).poison = s.poison := rfl
@[simp] theorem State.startFixed_trail (u l : Nat) (r : Rec) (e : Effects) : (s.startFixed u l r e).trail = s.trail := rfl
@[simp] theorem State.startFixed_parity (u l : Nat) (r : Rec) (e : Effects) : (s.startFixed u l r e).parity = s.parity := rfl
@[simp] theorem State.startFixed_tlbs (u l : Nat) (r : Rec) (e : Effects) : (s.startFixed u l r e).tlbs = s.tlbs := rfl
@[simp] theorem State.startFixed_utlbs (u l : Nat) (r : Rec) (e : Effects) : (s.startFixed u l r e).utlbs = s.utlbs := rfl
@[simp] theorem State.startFixed_walks (u l : Nat) (r : Rec) (e : Effects) : (s.startFixed u l r e).walks = s.walks := rfl
@[simp] theorem State.startFixed_roots (u l : Nat) (r : Rec) (e : Effects) : (s.startFixed u l r e).roots = s.roots := rfl
@[simp] theorem State.startFixed_newRoots (u l : Nat) (r : Rec) (e : Effects) : (s.startFixed u l r e).newRoots = s.newRoots := rfl
@[simp] theorem State.startFixed_pool (u l : Nat) (r : Rec) (e : Effects) : (s.startFixed u l r e).pool = s.pool := rfl
@[simp] theorem State.startFixed_poolTab (u l : Nat) (r : Rec) (e : Effects) : (s.startFixed u l r e).poolTab = s.poolTab := rfl
@[simp] theorem State.startFixed_ops (u l : Nat) (r : Rec) (e : Effects) : (s.startFixed u l r e).ops = s.ops := rfl
@[simp] theorem State.startFixed_glines (u l : Nat) (r : Rec) (e : Effects) : (s.startFixed u l r e).glines = s.glines := rfl
@[simp] theorem State.startFixed_gmsgs (u l : Nat) (r : Rec) (e : Effects) : (s.startFixed u l r e).gmsgs = s.gmsgs := rfl
@[simp] theorem State.startFixed_hlines (u l : Nat) (r : Rec) (e : Effects) : (s.startFixed u l r e).hlines = s.hlines := rfl
@[simp] theorem State.startFixed_staged (u l : Nat) (r : Rec) (e : Effects) : (s.startFixed u l r e).staged = s.staged := rfl
@[simp] theorem State.startFixed_restarts (u l : Nat) (r : Rec) (e : Effects) : (s.startFixed u l r e).restarts = s.restarts := rfl
@[simp] theorem State.startFixed_areqs (u l : Nat) (r : Rec) (e : Effects) : (s.startFixed u l r e).areqs = s.areqs := rfl
@[simp] theorem State.startFixed_bridles (u l : Nat) (r : Rec) (e : Effects) : (s.startFixed u l r e).bridles = s.bridles := rfl
@[simp] theorem State.startFixed_areplies (u l : Nat) (r : Rec) (e : Effects) : (s.startFixed u l r e).areplies = s.areplies := rfl
@[simp] theorem State.startFixed_filters (u l : Nat) (r : Rec) (e : Effects) : (s.startFixed u l r e).filters = s.filters := rfl
@[simp] theorem State.startFixed_msgs (u l : Nat) (r : Rec) (e : Effects) : (s.startFixed u l r e).msgs = s.msgs := rfl
@[simp] theorem State.startFixed_lines (u l : Nat) (r : Rec) (e : Effects) : (s.startFixed u l r e).lines = s.lines := rfl
@[simp] theorem State.startFixed_evreqs (u l : Nat) (r : Rec) (e : Effects) : (s.startFixed u l r e).evreqs = s.evreqs := rfl
@[simp] theorem State.startFixed_lmsgs (u l : Nat) (r : Rec) (e : Effects) : (s.startFixed u l r e).lmsgs = s.lmsgs := rfl
@[simp] theorem State.startFixed_dctrs (u l : Nat) (r : Rec) (e : Effects) : (s.startFixed u l r e).dctrs = s.dctrs := rfl
@[simp] theorem State.startFixed_dfrozen (u l : Nat) (r : Rec) (e : Effects) : (s.startFixed u l r e).dfrozen = s.dfrozen := rfl
@[simp] theorem State.startFixed_prefetch (u l : Nat) (r : Rec) (e : Effects) : (s.startFixed u l r e).prefetch = s.prefetch := rfl
@[simp] theorem State.startFixed_pfFly (u l : Nat) (r : Rec) (e : Effects) : (s.startFixed u l r e).pfFly = s.pfFly := rfl
@[simp] theorem State.startFixed_pfIn (u l : Nat) (r : Rec) (e : Effects) : (s.startFixed u l r e).pfIn = s.pfIn := rfl
@[simp] theorem State.startFixed_links (u l : Nat) (r : Rec) (e : Effects) : (s.startFixed u l r e).links = s.links := rfl
@[simp] theorem State.startFixed_jobs (u l : Nat) (r : Rec) (e : Effects) : (s.startFixed u l r e).jobs = s.jobs := rfl
@[simp] theorem State.startFixed_objs (u l : Nat) (r : Rec) (e : Effects) : (s.startFixed u l r e).objs = s.objs := rfl
@[simp] theorem State.startFixed_journal (u l : Nat) (r : Rec) (e : Effects) : (s.startFixed u l r e).journal = s.journal := rfl
@[simp] theorem State.startFixed_qnext (u l : Nat) (r : Rec) (e : Effects) : (s.startFixed u l r e).qnext = s.qnext := rfl
@[simp] theorem State.startFixed_qhold (u l : Nat) (r : Rec) (e : Effects) : (s.startFixed u l r e).qhold = s.qhold := rfl
@[simp] theorem State.startFixed_qwait (u l : Nat) (r : Rec) (e : Effects) : (s.startFixed u l r e).qwait = s.qwait := rfl
@[simp] theorem State.startFixed_deps (u l : Nat) (r : Rec) (e : Effects) : (s.startFixed u l r e).deps = s.deps := rfl
@[simp] theorem State.startFixed_snaps (u l : Nat) (r : Rec) (e : Effects) : (s.startFixed u l r e).snaps = s.snaps := rfl
@[simp] theorem State.startFixed_keys (u l : Nat) (r : Rec) (e : Effects) : (s.startFixed u l r e).keys = s.keys := rfl
@[simp] theorem State.startFixed_staging (u l : Nat) (r : Rec) (e : Effects) : (s.startFixed u l r e).staging = s.staging := rfl
@[simp] theorem State.startFixed_firmware (u l : Nat) (r : Rec) (e : Effects) : (s.startFixed u l r e).firmware = s.firmware := rfl
@[simp] theorem State.startFixed_nextFw (u l : Nat) (r : Rec) (e : Effects) : (s.startFixed u l r e).nextFw = s.nextFw := rfl
@[simp] theorem State.startFixed_fails (u l : Nat) (r : Rec) (e : Effects) : (s.startFixed u l r e).fails = s.fails := rfl
@[simp] theorem State.startFixed_bootcause (u l : Nat) (r : Rec) (e : Effects) : (s.startFixed u l r e).bootcause = s.bootcause := rfl
@[simp] theorem State.startFixed_power (u l : Nat) (r : Rec) (e : Effects) : (s.startFixed u l r e).power = s.power := rfl
@[simp] theorem State.startFixed_limit (u l : Nat) (r : Rec) (e : Effects) : (s.startFixed u l r e).limit = s.limit := rfl
@[simp] theorem State.startFixed_throttled (u l : Nat) (r : Rec) (e : Effects) : (s.startFixed u l r e).throttled = s.throttled := rfl
@[simp] theorem State.startFixed_dropped (u l : Nat) (r : Rec) (e : Effects) : (s.startFixed u l r e).dropped = s.dropped := rfl
@[simp] theorem State.startFixed_fwlog (u l : Nat) (r : Rec) (e : Effects) : (s.startFixed u l r e).fwlog = s.fwlog := rfl
@[simp] theorem State.startFixed_tether (u l : Nat) (r : Rec) (e : Effects) : (s.startFixed u l r e).tether = s.tether := rfl
@[simp] theorem State.startFixed_hostOut (u l : Nat) (r : Rec) (e : Effects) : (s.startFixed u l r e).hostOut = s.hostOut := rfl
@[simp] theorem State.startFixed_steps (u l : Nat) (r : Rec) (e : Effects) : (s.startFixed u l r e).steps = s.steps := rfl
@[simp] theorem State.startFixed_peerOut (u l : Nat) (r : Rec) (e : Effects) : (s.startFixed u l r e).peerOut = s.peerOut := rfl
@[simp] theorem State.startFixed_frees (u l : Nat) (r : Rec) (e : Effects) : (s.startFixed u l r e).frees = s.frees := rfl
@[simp] theorem State.startFixed_trig (u l : Nat) (r : Rec) (e : Effects) : (s.startFixed u l r e).trig = s.trig := rfl
@[simp] theorem State.startFixed_agenda (u l : Nat) (r : Rec) (e : Effects) : (s.startFixed u l r e).agenda = s.agenda := rfl
@[simp] theorem State.startFixed_sched (u l : Nat) (r : Rec) (e : Effects) : (s.startFixed u l r e).sched = s.sched := rfl
@[simp] theorem State.startFixed_held (u l : Nat) (r : Rec) (e : Effects) : (s.startFixed u l r e).held = s.held := rfl
@[simp] theorem State.startFixed_worked (u l : Nat) (r : Rec) (e : Effects) : (s.startFixed u l r e).worked = s.worked := rfl
@[simp] theorem State.startFixed_misses (u l : Nat) (r : Rec) (e : Effects) : (s.startFixed u l r e).misses = s.misses := rfl
@[simp] theorem State.startFixed_dirty (u l : Nat) (r : Rec) (e : Effects) : (s.startFixed u l r e).dirty = s.dirty := rfl
@[simp] theorem State.startFixed_swIn (u l : Nat) (r : Rec) (e : Effects) : (s.startFixed u l r e).swIn = s.swIn := rfl
@[simp] theorem State.startFixed_inbound (u l : Nat) (r : Rec) (e : Effects) : (s.startFixed u l r e).inbound = s.inbound := rfl
@[simp] theorem State.startFixed_early (u l : Nat) (r : Rec) (e : Effects) : (s.startFixed u l r e).early = s.early := rfl
@[simp] theorem State.startFixed_deferred (u l : Nat) (r : Rec) (e : Effects) : (s.startFixed u l r e).deferred = s.deferred := rfl
@[simp] theorem State.startFixed_streams (u l : Nat) (r : Rec) (e : Effects) : (s.startFixed u l r e).streams = s.streams := rfl
@[simp] theorem State.startFixed_cache (u l : Nat) (r : Rec) (e : Effects) : (s.startFixed u l r e).cache = s.cache := rfl
@[simp] theorem State.startFixed_replays (u l : Nat) (r : Rec) (e : Effects) : (s.startFixed u l r e).replays = s.replays := rfl

/-! ### `expectRec` -/

@[simp] theorem State.expectRec_cycle (k : Nat) : (s.expectRec k).cycle = s.cycle := rfl
@[simp] theorem State.expectRec_mem (k : Nat) : (s.expectRec k).mem = s.mem := rfl
@[simp] theorem State.expectRec_poison (k : Nat) : (s.expectRec k).poison = s.poison := rfl
@[simp] theorem State.expectRec_trail (k : Nat) : (s.expectRec k).trail = s.trail := rfl
@[simp] theorem State.expectRec_parity (k : Nat) : (s.expectRec k).parity = s.parity := rfl
@[simp] theorem State.expectRec_tlbs (k : Nat) : (s.expectRec k).tlbs = s.tlbs := rfl
@[simp] theorem State.expectRec_utlbs (k : Nat) : (s.expectRec k).utlbs = s.utlbs := rfl
@[simp] theorem State.expectRec_walks (k : Nat) : (s.expectRec k).walks = s.walks := rfl
@[simp] theorem State.expectRec_roots (k : Nat) : (s.expectRec k).roots = s.roots := rfl
@[simp] theorem State.expectRec_newRoots (k : Nat) : (s.expectRec k).newRoots = s.newRoots := rfl
@[simp] theorem State.expectRec_pool (k : Nat) : (s.expectRec k).pool = s.pool := rfl
@[simp] theorem State.expectRec_poolTab (k : Nat) : (s.expectRec k).poolTab = s.poolTab := rfl
@[simp] theorem State.expectRec_ops (k : Nat) : (s.expectRec k).ops = s.ops := rfl
@[simp] theorem State.expectRec_glines (k : Nat) : (s.expectRec k).glines = s.glines := rfl
@[simp] theorem State.expectRec_gmsgs (k : Nat) : (s.expectRec k).gmsgs = s.gmsgs := rfl
@[simp] theorem State.expectRec_hlines (k : Nat) : (s.expectRec k).hlines = s.hlines := rfl
@[simp] theorem State.expectRec_staged (k : Nat) : (s.expectRec k).staged = s.staged := rfl
@[simp] theorem State.expectRec_restarts (k : Nat) : (s.expectRec k).restarts = s.restarts := rfl
@[simp] theorem State.expectRec_areqs (k : Nat) : (s.expectRec k).areqs = s.areqs := rfl
@[simp] theorem State.expectRec_bridles (k : Nat) : (s.expectRec k).bridles = s.bridles := rfl
@[simp] theorem State.expectRec_areplies (k : Nat) : (s.expectRec k).areplies = s.areplies := rfl
@[simp] theorem State.expectRec_filters (k : Nat) : (s.expectRec k).filters = s.filters := rfl
@[simp] theorem State.expectRec_msgs (k : Nat) : (s.expectRec k).msgs = s.msgs := rfl
@[simp] theorem State.expectRec_lines (k : Nat) : (s.expectRec k).lines = s.lines := rfl
@[simp] theorem State.expectRec_evreqs (k : Nat) : (s.expectRec k).evreqs = s.evreqs := rfl
@[simp] theorem State.expectRec_lmsgs (k : Nat) : (s.expectRec k).lmsgs = s.lmsgs := rfl
@[simp] theorem State.expectRec_dctrs (k : Nat) : (s.expectRec k).dctrs = s.dctrs := rfl
@[simp] theorem State.expectRec_dfrozen (k : Nat) : (s.expectRec k).dfrozen = s.dfrozen := rfl
@[simp] theorem State.expectRec_prefetch (k : Nat) : (s.expectRec k).prefetch = s.prefetch := rfl
@[simp] theorem State.expectRec_pfFly (k : Nat) : (s.expectRec k).pfFly = s.pfFly := rfl
@[simp] theorem State.expectRec_pfIn (k : Nat) : (s.expectRec k).pfIn = s.pfIn := rfl
@[simp] theorem State.expectRec_links (k : Nat) : (s.expectRec k).links = s.links := rfl
@[simp] theorem State.expectRec_jobs (k : Nat) : (s.expectRec k).jobs = s.jobs := rfl
@[simp] theorem State.expectRec_objs (k : Nat) : (s.expectRec k).objs = s.objs := rfl
@[simp] theorem State.expectRec_journal (k : Nat) : (s.expectRec k).journal = s.journal := rfl
@[simp] theorem State.expectRec_qnext (k : Nat) : (s.expectRec k).qnext = s.qnext := rfl
@[simp] theorem State.expectRec_qhold (k : Nat) : (s.expectRec k).qhold = s.qhold := rfl
@[simp] theorem State.expectRec_qwait (k : Nat) : (s.expectRec k).qwait = s.qwait := rfl
@[simp] theorem State.expectRec_deps (k : Nat) : (s.expectRec k).deps = s.deps := rfl
@[simp] theorem State.expectRec_snaps (k : Nat) : (s.expectRec k).snaps = s.snaps := rfl
@[simp] theorem State.expectRec_keys (k : Nat) : (s.expectRec k).keys = s.keys := rfl
@[simp] theorem State.expectRec_staging (k : Nat) : (s.expectRec k).staging = s.staging := rfl
@[simp] theorem State.expectRec_firmware (k : Nat) : (s.expectRec k).firmware = s.firmware := rfl
@[simp] theorem State.expectRec_nextFw (k : Nat) : (s.expectRec k).nextFw = s.nextFw := rfl
@[simp] theorem State.expectRec_fails (k : Nat) : (s.expectRec k).fails = s.fails := rfl
@[simp] theorem State.expectRec_bootcause (k : Nat) : (s.expectRec k).bootcause = s.bootcause := rfl
@[simp] theorem State.expectRec_power (k : Nat) : (s.expectRec k).power = s.power := rfl
@[simp] theorem State.expectRec_limit (k : Nat) : (s.expectRec k).limit = s.limit := rfl
@[simp] theorem State.expectRec_throttled (k : Nat) : (s.expectRec k).throttled = s.throttled := rfl
@[simp] theorem State.expectRec_dropped (k : Nat) : (s.expectRec k).dropped = s.dropped := rfl
@[simp] theorem State.expectRec_fwlog (k : Nat) : (s.expectRec k).fwlog = s.fwlog := rfl
@[simp] theorem State.expectRec_tether (k : Nat) : (s.expectRec k).tether = s.tether := rfl
@[simp] theorem State.expectRec_hostOut (k : Nat) : (s.expectRec k).hostOut = s.hostOut := rfl
@[simp] theorem State.expectRec_steps (k : Nat) : (s.expectRec k).steps = s.steps := rfl
@[simp] theorem State.expectRec_peerOut (k : Nat) : (s.expectRec k).peerOut = s.peerOut := rfl
@[simp] theorem State.expectRec_fresh (k : Nat) : (s.expectRec k).fresh = s.fresh := rfl
@[simp] theorem State.expectRec_frees (k : Nat) : (s.expectRec k).frees = s.frees := rfl
@[simp] theorem State.expectRec_trig (k : Nat) : (s.expectRec k).trig = s.trig := rfl
@[simp] theorem State.expectRec_agenda (k : Nat) : (s.expectRec k).agenda = s.agenda := rfl
@[simp] theorem State.expectRec_sched (k : Nat) : (s.expectRec k).sched = s.sched := rfl
@[simp] theorem State.expectRec_held (k : Nat) : (s.expectRec k).held = s.held := rfl
@[simp] theorem State.expectRec_worked (k : Nat) : (s.expectRec k).worked = s.worked := rfl
@[simp] theorem State.expectRec_misses (k : Nat) : (s.expectRec k).misses = s.misses := rfl
@[simp] theorem State.expectRec_dirty (k : Nat) : (s.expectRec k).dirty = s.dirty := rfl
@[simp] theorem State.expectRec_swIn (k : Nat) : (s.expectRec k).swIn = s.swIn := rfl
@[simp] theorem State.expectRec_inbound (k : Nat) : (s.expectRec k).inbound = s.inbound := rfl
@[simp] theorem State.expectRec_early (k : Nat) : (s.expectRec k).early = s.early := rfl
@[simp] theorem State.expectRec_deferred (k : Nat) : (s.expectRec k).deferred = s.deferred := rfl
@[simp] theorem State.expectRec_streams (k : Nat) : (s.expectRec k).streams = s.streams := rfl
@[simp] theorem State.expectRec_cache (k : Nat) : (s.expectRec k).cache = s.cache := rfl
@[simp] theorem State.expectRec_replays (k : Nat) : (s.expectRec k).replays = s.replays := rfl

/-! ### Tiles and contexts after an update -/

@[simp] theorem State.tile_setTile_self (t : Nat) (x : Tile) : (s.setTile t x).tile t = x :=
  Sparse.get_set_self s.tiles Tile.init t x

theorem State.tile_setTile_of_ne {t u : Nat} (x : Tile) (h : u ≠ t) : (s.setTile t x).tile u = s.tile u :=
  Sparse.get_set_of_ne s.tiles Tile.init x h

@[simp] theorem State.tile_updTile_self (t : Nat) (g : Tile → Tile) : (s.updTile t g).tile t = g (s.tile t) :=
  s.tile_setTile_self t _

theorem State.tile_updTile_of_ne {t u : Nat} (g : Tile → Tile) (h : u ≠ t) : (s.updTile t g).tile u = s.tile u :=
  s.tile_setTile_of_ne _ h

@[simp] theorem State.ctx_setCtx_self (c : Who) (x : Ctx) : (s.setCtx c x).ctx c = x := by
  simp [State.ctx, State.setCtx]

theorem State.ctx_setCtx_of_ne {c d : Who} (x : Ctx) (h : d ≠ c) : (s.setCtx c x).ctx d = s.ctx d := by
  unfold State.ctx State.setCtx
  by_cases ht : d.tile = c.tile
  · have hc : d.ctx ≠ c.ctx := fun hc => h (by cases d; cases c; simp_all)
    rw [ht, State.tile_updTile_self]
    exact Sparse.get_set_of_ne _ _ _ hc
  · rw [s.tile_updTile_of_ne _ ht]

@[simp] theorem State.ctx_updCtx_self (c : Who) (g : Ctx → Ctx) : (s.updCtx c g).ctx c = g (s.ctx c) :=
  s.ctx_setCtx_self c _

theorem State.ctx_updCtx_of_ne {c d : Who} (g : Ctx → Ctx) (h : d ≠ c) : (s.updCtx c g).ctx d = s.ctx d :=
  s.ctx_setCtx_of_ne _ h

/-- A context update leaves every part of its tile but the contexts. -/
theorem State.tile_updCtx (c : Who) (g : Ctx → Ctx) :
    (s.updCtx c g).tile c.tile = { s.tile c.tile with ctxs := (s.tile c.tile).ctxs.set c.ctx (g (s.ctx c)) } :=
  s.tile_updTile_self c.tile _

theorem State.tile_updCtx_of_ne {c : Who} {t : Nat} (g : Ctx → Ctx) (h : t ≠ c.tile) : (s.updCtx c g).tile t = s.tile t :=
  s.tile_updTile_of_ne _ h

/-- An update of a tile that leaves its contexts leaves every context. -/
theorem State.ctx_updTile (t : Nat) (g : Tile → Tile) (h : ∀ y, (g y).ctxs = y.ctxs) (c : Who) :
    (s.updTile t g).ctx c = s.ctx c := by
  unfold State.ctx
  by_cases hc : c.tile = t
  · rw [hc, State.tile_updTile_self, h]
  · rw [s.tile_updTile_of_ne g hc]

@[simp] theorem State.tile_takeId (t : Nat) : s.takeId.tile t = s.tile t := rfl
@[simp] theorem State.ctx_takeId (c : Who) : s.takeId.ctx c = s.ctx c := rfl
@[simp] theorem State.tile_updJob (j : Nat) (g : Job → Job) (t : Nat) : (s.updJob j g).tile t = s.tile t := rfl
@[simp] theorem State.ctx_updJob (j : Nat) (g : Job → Job) (c : Who) : (s.updJob j g).ctx c = s.ctx c := rfl

/-! ### What `startFixed` does -/

theorem State.ctx_startFixed_self (u l : Nat) (r : Rec) (e : Effects) :
    (s.startFixed u l r e).ctx s.trig.who = s.self.updBank fun b =>
      b.start { unit := u, id := s.fresh, left := l, cyc := s.self.curCyc, div := false, res := r, eff := e } := by
  unfold State.startFixed State.updSelf
  rw [State.ctx_takeId, State.ctx_updCtx_self]
  rfl

theorem State.ctx_startFixed_of_ne (u l : Nat) (r : Rec) (e : Effects) {d : Who} (h : d ≠ s.trig.who) :
    (s.startFixed u l r e).ctx d = s.ctx d := by
  unfold State.startFixed State.updSelf
  rw [State.ctx_takeId, State.ctx_updCtx_of_ne _ _ h]

end Sys2Proof.Machine
end

