-- ==== Sys2Proof/Laws/Ops.lean ====
section
/-! SUPPORT. What the shared operations do: to memory, and to the contexts of the machine. -/

namespace Sys2Proof.Machine

variable (s : State)

/-! ### What starts and lands -/

@[simp] theorem State.startDiv_mem (u n : Nat) (r : Rec) : (s.startDiv u n r).mem = s.mem := rfl

/-- A context's own update of itself touches no other context. -/
theorem State.ctx_updSelf_of_ne (f : Ctx → Ctx) {d : Who} (h : d ≠ s.trig.who) : (s.updSelf f).ctx d = s.ctx d :=
  s.ctx_updCtx_of_ne f h

/-! ### Folds and jobs -/

/-- A fold of updates that store nothing stores nothing. -/
theorem State.foldl_mem {α : Type} (f : State → α → State) (hf : ∀ s x, (f s x).mem = s.mem) (l : List α) :
    ∀ s : State, (l.foldl f s).mem = s.mem := by
  induction l with
  | nil => intro s; rfl
  | cons x l ih => intro s; rw [List.foldl_cons, ih, hf]

@[simp] theorem State.haltCtx_mem (c : Who) (e : BitVec 16) : (s.haltCtx c e).mem = s.mem := rfl

@[simp] theorem State.journalMove_mem (q : Nat) (n : W32) (k : BitVec 3) (r : BitVec 16) (w : W64) :
    (s.journalMove q n k r w).mem = s.mem := rfl

theorem State.depCancel_mem (n : Nat) : ∀ (l : List Nat) (s : State), (State.depCancel n l s).mem = s.mem := by
  induction n with
  | zero => intro l s; rfl
  | succ n ih =>
    intro l s
    unfold State.depCancel
    dsimp only
    split
    · rfl
    · rw [ih, State.foldl_mem]
      intro s x
      split <;> rfl

@[simp] theorem State.releaseSlots_mem (j : Job) : (s.releaseSlots j).mem = s.mem := by
  apply State.foldl_mem
  intro _ _
  rfl

@[simp] theorem State.releaseJob_mem (j : Job) : (s.releaseJob j).mem = s.mem := s.releaseSlots_mem j

@[simp] theorem State.closePackets_mem (j : Job) : (s.closePackets j).mem = s.mem := by
  unfold State.closePackets
  dsimp only
  repeat rw [State.foldl_mem _ (by intro _ _; rfl)]

/-- The failure of a job stores nothing: its staged stores are discarded. -/
@[simp] theorem State.failJob_mem (j : Nat) (r : BitVec 16) : (s.failJob j r).mem = s.mem := by
  unfold State.failJob
  split
  · rfl
  · dsimp only
    split
    · rfl
    · rfl
    · split
      all_goals
        simp only [State.depCancel_mem, State.updJob_mem, State.releaseJob_mem]
        simp only [State.purgeJob, State.closePackets_mem, State.journalMove_mem]
        apply State.foldl_mem
        intro _ _
        rfl

/-! ### Faults -/

@[simp] theorem State.doubleFault_mem (c : Who) : (s.doubleFault c).mem = s.mem := by
  unfold State.doubleFault
  split <;> simp

/-- Trap entry stores nothing. -/
@[simp] theorem State.enterTrap_mem (c : Who) (t : TrapRec) : (s.enterTrap c t).mem = s.mem := by
  unfold State.enterTrap
  dsimp only
  split <;> simp

@[simp] theorem State.faultNow_mem (tr : Trig) (i : Instr) (f : FaultAt) : (s.faultNow tr i f).mem = s.mem := by
  unfold State.faultNow
  simp

@[simp] theorem State.faultInTurn_mem (tr : Trig) (i : Instr) (f : FaultAt) : (s.faultInTurn tr i f).mem = s.mem := by
  unfold State.faultInTurn
  dsimp only
  split <;> simp

/-- A trigger fault stores nothing, whether it is taken now or after earlier triggers. -/
@[simp] theorem State.faultTrigger_mem (i : Instr) (f : FaultAt) : (s.faultTrigger i f).mem = s.mem := by
  unfold State.faultTrigger
  dsimp only
  split <;> simp

@[simp] theorem State.faultDecode_mem (c : Who) (n : Nat) (k : Flt) (v : W64) : (s.faultDecode c n k v).mem = s.mem := by
  simp [State.faultDecode]

@[simp] theorem State.faultTarget_mem (c : Who) (d : Transfer) : (s.faultTarget c d).mem = s.mem := by
  simp [State.faultTarget]

@[simp] theorem State.deliverLate_mem (c : Who) : (s.deliverLate c).mem = s.mem := by
  unfold State.deliverLate
  split <;> simp

@[simp] theorem State.raiseLate_mem (c : Who) (j : Option Nat) (p : PendFault) : (s.raiseLate c j p).mem = s.mem := by
  unfold State.raiseLate
  split
  · simp
  · split
    · split <;> rfl
    · rfl

/-! ### Wake comparators and stores -/

@[simp] theorem State.servePop_mem (tile : Nat) (p : Who × Nat) : (s.servePop tile p).mem = s.mem := by
  unfold State.servePop
  split <;> simp

theorem State.servePops_mem (n tile : Nat) : ∀ s : State, (s.servePops n tile).mem = s.mem := by
  induction n with
  | zero => intro s; rfl
  | succ n ih =>
    intro s
    unfold State.servePops
    split
    · rw [ih, State.servePop_mem]
    · rfl

@[simp] theorem State.serveWake_mem (tile : Nat) : (s.serveWake tile).mem = s.mem := s.servePops_mem _ tile

@[simp] theorem State.fire_mem (loc n : Nat) : (s.fire loc n).mem = s.mem := by
  unfold State.fire
  split <;> simp

/-- A store writes its bytes and nothing else of memory. -/
@[simp] theorem State.storeLe_mem (loc n v : Nat) (b : Bool) : (s.storeLe loc n v b).mem = Memory.writeLe s.mem loc n v := by
  simp [State.storeLe]

@[simp] theorem State.storeBytes_mem (loc : Nat) (bs : List Byte) : (s.storeBytes loc bs).mem = Memory.writeBytes s.mem loc bs := by
  simp [State.storeBytes]

/-- A store keeps memory in its canonical form. -/
theorem State.storeLe_wf (h : Memory.wf s.mem = true) (loc n v : Nat) (b : Bool) : Memory.wf (s.storeLe loc n v b).mem = true := by
  simpa using Memory.wf_writeLe h loc n v

theorem State.storeBytes_wf (h : Memory.wf s.mem = true) (loc : Nat) (bs : List Byte) : Memory.wf (s.storeBytes loc bs).mem = true := by
  simpa using Memory.wf_writeBytes h loc bs

/-- A byte outside a store reads as before. -/
theorem State.read_storeLe_outside (loc n v : Nat) (b : Bool) {a : Nat} (h : a < loc ∨ loc + n ≤ a) :
    Memory.read (s.storeLe loc n v b).mem a = Memory.read s.mem a := by
  simpa using Memory.read_writeLe_outside s.mem n v h

/-! ### The journal -/

@[simp] theorem State.journalMove_tiles (q : Nat) (n : W32) (k : BitVec 3) (r : BitVec 16) (w : W64) :
    (s.journalMove q n k r w).tiles = s.tiles := rfl
@[simp] theorem State.journalMove_jobs (q : Nat) (n : W32) (k : BitVec 3) (r : BitVec 16) (w : W64) :
    (s.journalMove q n k r w).jobs = s.jobs := rfl
@[simp] theorem State.journalAccept_mem (q : Nat) (n : W32) (k : BitVec 8) : (s.journalAccept q n k).mem = s.mem := rfl

end Sys2Proof.Machine
end

