-- ==== Sys2Proof/Laws/PerInstr.lean ====
section
/-! SUPPORT. What holds of every instruction, one lemma for each constructor. -/

namespace Sys2Proof.Laws.PortRange

/-- (R33, R42) The trigger port of an operation is one that a move can name. -/
def Statement (i : Instr) : Prop := ∀ u p, portOf i = some (u, p) → u < 16 ∧ 3 ≤ p ∧ p < 64

/-- The port of an operation is in range if its numbers are. -/
theorem of_port {i : Instr} {u p : Nat} (h : portOf i = some (u, p)) (hr : u < 16 ∧ 3 ≤ p ∧ p < 64) : Statement i := by
  intro v q hq
  rw [h] at hq
  cases hq
  exact hr

/-- An event, or a word, is no operation of a port. -/
theorem of_none {i : Instr} (h : portOf i = none) : Statement i := by
  intro v q hq
  rw [h] at hq
  cases hq

theorem wordIssue (w : MoveWord) : Statement (.wordIssue w) := of_none rfl
theorem stallCountEnd (c : Who) : Statement (.stallCountEnd c) := of_none rfl
theorem idleEnd (c : Who) : Statement (.idleEnd c) := of_none rfl
theorem waitCountLimit (c : Who) : Statement (.waitCountLimit c) := of_none rfl
theorem stallFloorIdleCycle (tile : Nat) : Statement (.stallFloorIdleCycle tile) := of_none rfl
theorem resultLanding (c : Who) (id : Nat) : Statement (.resultLanding c id) := of_none rfl
theorem divideLanding (c : Who) (id : Nat) : Statement (.divideLanding c id) := of_none rfl
theorem queuedReply (id : Nat) : Statement (.queuedReply id) := of_none rfl
theorem faultAfterStart (c : Who) : Statement (.faultAfterStart c) := of_none rfl
theorem intAdd (u : IntUnit) (w : Bool) : Statement (.intAdd u w) := by
  cases u <;> cases w <;> exact of_port rfl (by decide)
theorem intSub (u : IntUnit) (w : Bool) : Statement (.intSub u w) := by
  cases u <;> cases w <;> exact of_port rfl (by decide)
theorem intAnd (u : IntUnit) : Statement (.intAnd u) := by
  cases u <;> exact of_port rfl (by decide)
theorem intOr (u : IntUnit) : Statement (.intOr u) := by
  cases u <;> exact of_port rfl (by decide)
theorem intXor (u : IntUnit) : Statement (.intXor u) := by
  cases u <;> exact of_port rfl (by decide)
theorem intAndn (u : IntUnit) : Statement (.intAndn u) := by
  cases u <;> exact of_port rfl (by decide)
theorem intOrn (u : IntUnit) : Statement (.intOrn u) := by
  cases u <;> exact of_port rfl (by decide)
theorem intShl (u : IntUnit) (w : Bool) : Statement (.intShl u w) := by
  cases u <;> cases w <;> exact of_port rfl (by decide)
theorem intShr (u : IntUnit) (w : Bool) : Statement (.intShr u w) := by
  cases u <;> cases w <;> exact of_port rfl (by decide)
theorem intSar (u : IntUnit) (w : Bool) : Statement (.intSar u w) := by
  cases u <;> cases w <;> exact of_port rfl (by decide)
theorem intRol (u : IntUnit) (w : Bool) : Statement (.intRol u w) := by
  cases u <;> cases w <;> exact of_port rfl (by decide)
theorem intRor (u : IntUnit) (w : Bool) : Statement (.intRor u w) := by
  cases u <;> cases w <;> exact of_port rfl (by decide)
theorem intMul (u : IntUnit) (w : Bool) : Statement (.intMul u w) := by
  cases u <;> cases w <;> exact of_port rfl (by decide)
theorem intMulh (u : IntUnit) (w : Bool) : Statement (.intMulh u w) := by
  cases u <;> cases w <;> exact of_port rfl (by decide)
theorem intMulhu (u : IntUnit) : Statement (.intMulhu u) := by
  cases u <;> exact of_port rfl (by decide)
theorem intDiv (u : IntUnit) (w : Bool) : Statement (.intDiv u w) := by
  cases u <;> cases w <;> exact of_port rfl (by decide)
theorem intDivu (u : IntUnit) (w : Bool) : Statement (.intDivu u w) := by
  cases u <;> cases w <;> exact of_port rfl (by decide)
theorem intRem (u : IntUnit) (w : Bool) : Statement (.intRem u w) := by
  cases u <;> cases w <;> exact of_port rfl (by decide)
theorem intRemu (u : IntUnit) (w : Bool) : Statement (.intRemu u w) := by
  cases u <;> cases w <;> exact of_port rfl (by decide)
theorem intMin (u : IntUnit) : Statement (.intMin u) := by
  cases u <;> exact of_port rfl (by decide)
theorem intMinu (u : IntUnit) : Statement (.intMinu u) := by
  cases u <;> exact of_port rfl (by decide)
theorem intMax (u : IntUnit) : Statement (.intMax u) := by
  cases u <;> exact of_port rfl (by decide)
theorem intMaxu (u : IntUnit) : Statement (.intMaxu u) := by
  cases u <;> exact of_port rfl (by decide)
theorem intAbs (u : IntUnit) : Statement (.intAbs u) := by
  cases u <;> exact of_port rfl (by decide)
theorem intSeq (u : IntUnit) : Statement (.intSeq u) := by
  cases u <;> exact of_port rfl (by decide)
theorem intSne (u : IntUnit) : Statement (.intSne u) := by
  cases u <;> exact of_port rfl (by decide)
theorem intSlt (u : IntUnit) : Statement (.intSlt u) := by
  cases u <;> exact of_port rfl (by decide)
theorem intSle (u : IntUnit) : Statement (.intSle u) := by
  cases u <;> exact of_port rfl (by decide)
theorem intSltu (u : IntUnit) : Statement (.intSltu u) := by
  cases u <;> exact of_port rfl (by decide)
theorem intSleu (u : IntUnit) : Statement (.intSleu u) := by
  cases u <;> exact of_port rfl (by decide)
theorem intSel (u : IntUnit) : Statement (.intSel u) := by
  cases u <;> exact of_port rfl (by decide)
theorem intClz (u : IntUnit) : Statement (.intClz u) := by
  cases u <;> exact of_port rfl (by decide)
theorem intCtz (u : IntUnit) : Statement (.intCtz u) := by
  cases u <;> exact of_port rfl (by decide)
theorem intPopc (u : IntUnit) : Statement (.intPopc u) := by
  cases u <;> exact of_port rfl (by decide)
theorem intBrev (u : IntUnit) : Statement (.intBrev u) := by
  cases u <;> exact of_port rfl (by decide)
theorem intBswap (u : IntUnit) : Statement (.intBswap u) := by
  cases u <;> exact of_port rfl (by decide)
theorem intBext (u : IntUnit) : Statement (.intBext u) := by
  cases u <;> exact of_port rfl (by decide)
theorem intBins (u : IntUnit) : Statement (.intBins u) := by
  cases u <;> exact of_port rfl (by decide)
theorem intSext (u : IntUnit) (e : ExtWidth) : Statement (.intSext u e) := by
  cases u <;> cases e <;> exact of_port rfl (by decide)
theorem intZext (u : IntUnit) (e : ExtWidth) : Statement (.intZext u e) := by
  cases u <;> cases e <;> exact of_port rfl (by decide)
theorem intFpack (u : IntUnit) : Statement (.intFpack u) := by
  cases u <;> exact of_port rfl (by decide)
theorem intFunpack (u : IntUnit) : Statement (.intFunpack u) := by
  cases u <;> exact of_port rfl (by decide)
theorem fpAdd (f : FpFmt) : Statement (.fpAdd f) := by
  cases f <;> exact of_port rfl (by decide)
theorem fpSub (f : FpFmt) : Statement (.fpSub f) := by
  cases f <;> exact of_port rfl (by decide)
theorem fpMin (f : FpFmt) : Statement (.fpMin f) := by
  cases f <;> exact of_port rfl (by decide)
theorem fpMax (f : FpFmt) : Statement (.fpMax f) := by
  cases f <;> exact of_port rfl (by decide)
theorem fpAbs (f : FpFmt) : Statement (.fpAbs f) := by
  cases f <;> exact of_port rfl (by decide)
theorem fpNeg (f : FpFmt) : Statement (.fpNeg f) := by
  cases f <;> exact of_port rfl (by decide)
theorem fpCpsign (f : FpFmt) : Statement (.fpCpsign f) := by
  cases f <;> exact of_port rfl (by decide)
theorem fpEq (f : FpFmt) : Statement (.fpEq f) := by
  cases f <;> exact of_port rfl (by decide)
theorem fpLt (f : FpFmt) : Statement (.fpLt f) := by
  cases f <;> exact of_port rfl (by decide)
theorem fpLe (f : FpFmt) : Statement (.fpLe f) := by
  cases f <;> exact of_port rfl (by decide)
theorem fpClass (f : FpFmt) : Statement (.fpClass f) := by
  cases f <;> exact of_port rfl (by decide)
theorem fpRnd (f : FpFmt) : Statement (.fpRnd f) := by
  cases f <;> exact of_port rfl (by decide)
theorem fpCvtI2f (f : FpFmt) : Statement (.fpCvtI2f f) := by
  cases f <;> exact of_port rfl (by decide)
theorem fpCvtF2i (f : FpFmt) : Statement (.fpCvtF2i f) := by
  cases f <;> exact of_port rfl (by decide)
theorem fpCvtFormat (c : FpCvt) : Statement (.fpCvtFormat c) := by
  cases c <;> exact of_port rfl (by decide)
theorem fpMul (f : FpFmt) : Statement (.fpMul f) := by
  cases f <;> exact of_port rfl (by decide)
theorem fpFma (f : FpFmt) : Statement (.fpFma f) := by
  cases f <;> exact of_port rfl (by decide)
theorem fpFms (f : FpFmt) : Statement (.fpFms f) := by
  cases f <;> exact of_port rfl (by decide)
theorem fpFnma (f : FpFmt) : Statement (.fpFnma f) := by
  cases f <;> exact of_port rfl (by decide)
theorem fpDiv (f : FpFmt) : Statement (.fpDiv f) := by
  cases f <;> exact of_port rfl (by decide)
theorem fpSqrt (f : FpFmt) : Statement (.fpSqrt f) := by
  cases f <;> exact of_port rfl (by decide)
theorem fpRcp (f : FpFmt) : Statement (.fpRcp f) := by
  cases f <;> exact of_port rfl (by decide)
theorem localLoad (u : MemUnit) (f : LoadForm) : Statement (.localLoad u f) := by
  cases u <;> cases f <;> exact of_port rfl (by decide)
theorem store (u : MemUnit) (f : StoreForm) : Statement (.store u f) := by
  cases u <;> cases f <;> exact of_port rfl (by decide)
theorem ldq (f : LoadForm) : Statement (.ldq f) := by
  cases f <;> exact of_port rfl (by decide)
theorem ldqNf (f : LoadForm) : Statement (.ldqNf f) := by
  cases f <;> exact of_port rfl (by decide)
theorem amoAdd (w : Bool) (nc : Bool) : Statement (.amoAdd w nc) := by
  cases w <;> cases nc <;> exact of_port rfl (by decide)
theorem amoAnd (nc : Bool) : Statement (.amoAnd nc) := by
  cases nc <;> exact of_port rfl (by decide)
theorem amoOr (nc : Bool) : Statement (.amoOr nc) := by
  cases nc <;> exact of_port rfl (by decide)
theorem amoXor (nc : Bool) : Statement (.amoXor nc) := by
  cases nc <;> exact of_port rfl (by decide)
theorem amoMax (nc : Bool) : Statement (.amoMax nc) := by
  cases nc <;> exact of_port rfl (by decide)
theorem amoMaxu (nc : Bool) : Statement (.amoMaxu nc) := by
  cases nc <;> exact of_port rfl (by decide)
theorem amoMin (nc : Bool) : Statement (.amoMin nc) := by
  cases nc <;> exact of_port rfl (by decide)
theorem amoMinu (nc : Bool) : Statement (.amoMinu nc) := by
  cases nc <;> exact of_port rfl (by decide)
theorem amoSwap (nc : Bool) : Statement (.amoSwap nc) := by
  cases nc <;> exact of_port rfl (by decide)
theorem fenceComplete (id : Nat) : Statement (.fenceComplete id) := of_none rfl
theorem drainComplete (c : Who) : Statement (.drainComplete c) := of_none rfl
theorem remoteAccessArrival (id : Nat) : Statement (.remoteAccessArrival id) := of_none rfl
theorem pagedAccessArrival (id : Nat) : Statement (.pagedAccessArrival id) := of_none rfl
theorem translationWalk (id : Nat) (useTlb : Bool) : Statement (.translationWalk id useTlb) := of_none rfl
theorem copyOnWriteResolve (id : Nat) : Statement (.copyOnWriteResolve id) := of_none rfl
theorem gatherJoin (id : Nat) : Statement (.gatherJoin id) := of_none rfl
theorem gatherAccept (id : Nat) : Statement (.gatherAccept id) := of_none rfl
theorem gatherRefuse (id : Nat) : Statement (.gatherRefuse id) := of_none rfl
theorem gatherRecall (id : Nat) : Statement (.gatherRecall id) := of_none rfl
theorem gatherFlush (id : Nat) : Statement (.gatherFlush id) := of_none rfl
theorem provisionalStage (id : Nat) : Statement (.provisionalStage id) := of_none rfl
theorem vecVfmt (u : VecUnit) : Statement (.vecVfmt u) := by
  cases u <;> exact of_port rfl (by decide)
theorem vadd (u : VecUnit) (m : MaskMode) : Statement (.vadd u m) := by
  cases u <;> cases m <;> exact of_port rfl (by decide)
theorem vsub (u : VecUnit) (m : MaskMode) : Statement (.vsub u m) := by
  cases u <;> cases m <;> exact of_port rfl (by decide)
theorem vmul (u : VecUnit) (m : MaskMode) : Statement (.vmul u m) := by
  cases u <;> cases m <;> exact of_port rfl (by decide)
theorem vfma (u : VecUnit) (m : MaskMode) : Statement (.vfma u m) := by
  cases u <;> cases m <;> exact of_port rfl (by decide)
theorem vfms (u : VecUnit) (m : MaskMode) : Statement (.vfms u m) := by
  cases u <;> cases m <;> exact of_port rfl (by decide)
theorem vmin (u : VecUnit) (m : MaskMode) : Statement (.vmin u m) := by
  cases u <;> cases m <;> exact of_port rfl (by decide)
theorem vmax (u : VecUnit) (m : MaskMode) : Statement (.vmax u m) := by
  cases u <;> cases m <;> exact of_port rfl (by decide)
theorem vabs (u : VecUnit) : Statement (.vabs u) := by
  cases u <;> exact of_port rfl (by decide)
theorem vneg (u : VecUnit) : Statement (.vneg u) := by
  cases u <;> exact of_port rfl (by decide)
theorem vcmp (u : VecUnit) (c : Cmp) : Statement (.vcmp u c) := by
  cases u <;> cases c <;> exact of_port rfl (by decide)
theorem vsel (u : VecUnit) : Statement (.vsel u) := by
  cases u <;> exact of_port rfl (by decide)
theorem vand (u : VecUnit) : Statement (.vand u) := by
  cases u <;> exact of_port rfl (by decide)
theorem vor (u : VecUnit) : Statement (.vor u) := by
  cases u <;> exact of_port rfl (by decide)
theorem vxor (u : VecUnit) : Statement (.vxor u) := by
  cases u <;> exact of_port rfl (by decide)
theorem vnot (u : VecUnit) : Statement (.vnot u) := by
  cases u <;> exact of_port rfl (by decide)
theorem vshl (u : VecUnit) : Statement (.vshl u) := by
  cases u <;> exact of_port rfl (by decide)
theorem vshr (u : VecUnit) : Statement (.vshr u) := by
  cases u <;> exact of_port rfl (by decide)
theorem vsar (u : VecUnit) : Statement (.vsar u) := by
  cases u <;> exact of_port rfl (by decide)
theorem vaddI (u : VecUnit) : Statement (.vaddI u) := by
  cases u <;> exact of_port rfl (by decide)
theorem vsubI (u : VecUnit) : Statement (.vsubI u) := by
  cases u <;> exact of_port rfl (by decide)
theorem vmulI (u : VecUnit) : Statement (.vmulI u) := by
  cases u <;> exact of_port rfl (by decide)
theorem vdot4 (u : VecUnit) : Statement (.vdot4 u) := by
  cases u <;> exact of_port rfl (by decide)
theorem vredadd (u : VecUnit) : Statement (.vredadd u) := by
  cases u <;> exact of_port rfl (by decide)
theorem vredmax (u : VecUnit) : Statement (.vredmax u) := by
  cases u <;> exact of_port rfl (by decide)
theorem vredmin (u : VecUnit) : Statement (.vredmin u) := by
  cases u <;> exact of_port rfl (by decide)
theorem vperm (u : VecUnit) : Statement (.vperm u) := by
  cases u <;> exact of_port rfl (by decide)
theorem vbcast (u : VecUnit) : Statement (.vbcast u) := by
  cases u <;> exact of_port rfl (by decide)
theorem vslide (u : VecUnit) : Statement (.vslide u) := by
  cases u <;> exact of_port rfl (by decide)
theorem vzip (u : VecUnit) : Statement (.vzip u) := by
  cases u <;> exact of_port rfl (by decide)
theorem vunzip (u : VecUnit) : Statement (.vunzip u) := by
  cases u <;> exact of_port rfl (by decide)
theorem vexp2 (u : VecUnit) : Statement (.vexp2 u) := by
  cases u <;> exact of_port rfl (by decide)
theorem vlog2 (u : VecUnit) : Statement (.vlog2 u) := by
  cases u <;> exact of_port rfl (by decide)
theorem vrcp (u : VecUnit) : Statement (.vrcp u) := by
  cases u <;> exact of_port rfl (by decide)
theorem vrsqrt (u : VecUnit) : Statement (.vrsqrt u) := by
  cases u <;> exact of_port rfl (by decide)
theorem vsqrt (u : VecUnit) : Statement (.vsqrt u) := by
  cases u <;> exact of_port rfl (by decide)
theorem vdiv (u : VecUnit) : Statement (.vdiv u) := by
  cases u <;> exact of_port rfl (by decide)
theorem mand (u : VecUnit) : Statement (.mand u) := by
  cases u <;> exact of_port rfl (by decide)
theorem mor (u : VecUnit) : Statement (.mor u) := by
  cases u <;> exact of_port rfl (by decide)
theorem mnot (u : VecUnit) : Statement (.mnot u) := by
  cases u <;> exact of_port rfl (by decide)
theorem mpopc (u : VecUnit) : Statement (.mpopc u) := by
  cases u <;> exact of_port rfl (by decide)
theorem mfirst (u : VecUnit) : Statement (.mfirst u) := by
  cases u <;> exact of_port rfl (by decide)
theorem packBf16 (p : PackMode) : Statement (.packBf16 p) := by
  cases p <;> exact of_port rfl (by decide)
theorem packH (p : PackMode) : Statement (.packH p) := by
  cases p <;> exact of_port rfl (by decide)
theorem packE4m3 (p : PackMode) : Statement (.packE4m3 p) := by
  cases p <;> exact of_port rfl (by decide)
theorem packE5m2 (p : PackMode) : Statement (.packE5m2 p) := by
  cases p <;> exact of_port rfl (by decide)
theorem matrixChunkApply (tile : Nat) (id : Nat) : Statement (.matrixChunkApply tile id) := of_none rfl
theorem matrixOpComplete (tile : Nat) (id : Nat) : Statement (.matrixOpComplete tile id) := of_none rfl
theorem sxuOpComplete (tile : Nat) (id : Nat) : Statement (.sxuOpComplete tile id) := of_none rfl
theorem copyHandoff (id : Nat) (engine : Nat) : Statement (.copyHandoff id engine) := of_none rfl
theorem copyRefusal (id : Nat) (backoff : Nat) : Statement (.copyRefusal id backoff) := of_none rfl
theorem copyBackoffExpiry (id : Nat) : Statement (.copyBackoffExpiry id) := of_none rfl
theorem copyComplete (id : Nat) : Statement (.copyComplete id) := of_none rfl
theorem reelSlotFill (tile : Nat) (reel : Nat) : Statement (.reelSlotFill tile reel) := of_none rfl
theorem copyTimeout (id : Nat) : Statement (.copyTimeout id) := of_none rfl
theorem releaseSendDepart (id : Nat) : Statement (.releaseSendDepart id) := of_none rfl
theorem messageArrival (m : MsgAt) : Statement (.messageArrival m) := of_none rfl
theorem rotRound (tile : Nat) (job : Nat) : Statement (.rotRound tile job) := of_none rfl
theorem lineRequest (id : Nat) : Statement (.lineRequest id) := of_none rfl
theorem upperArrive (id : Nat) : Statement (.upperArrive id) := of_none rfl
theorem upperRelease (id : Nat) : Statement (.upperRelease id) := of_none rfl
theorem phaseArrivalRegister (c : Who) : Statement (.phaseArrivalRegister c) := of_none rfl
theorem phaseAdvance (job : Nat) : Statement (.phaseAdvance job) := of_none rfl
theorem phaseWatchdogExpiry (job : Nat) : Statement (.phaseWatchdogExpiry job) := of_none rfl
theorem switchRequestEntry (id : Nat) : Statement (.switchRequestEntry id) := of_none rfl
theorem combineWindowExpiry (id : Nat) : Statement (.combineWindowExpiry id) := of_none rfl
theorem replySplit (id : Nat) : Statement (.replySplit id) := of_none rfl
theorem atomicApply (a : AmoAt) : Statement (.atomicApply a) := of_none rfl
theorem linkReplay (link : Nat) (e : ReplayEnd) : Statement (.linkReplay link e) := of_none rfl
theorem linkRetrain (link : Nat) (victim : Victim) : Statement (.linkRetrain link victim) := of_none rfl
theorem linkDown (link : Nat) : Statement (.linkDown link) := of_none rfl
theorem machineCheck (scope : McScope) : Statement (.machineCheck scope) := of_none rfl
theorem launch (h : MsgHdr) (p : Packet) : Statement (.launch h p) := of_none rfl
theorem graphEntry (h : MsgHdr) (p : Packet) : Statement (.graphEntry h p) := of_none rfl
theorem queueBarrier (h : MsgHdr) (p : Packet) : Statement (.queueBarrier h p) := of_none rfl
theorem loadObject (h : MsgHdr) (p : Packet) : Statement (.loadObject h p) := of_none rfl
theorem unload (h : MsgHdr) (p : Packet) : Statement (.unload h p) := of_none rfl
theorem hotReplace (h : MsgHdr) (p : Packet) : Statement (.hotReplace h p) := of_none rfl
theorem snapshot (h : MsgHdr) (p : Packet) : Statement (.snapshot h p) := of_none rfl
theorem restore (h : MsgHdr) (p : Packet) : Statement (.restore h p) := of_none rfl
theorem journalRead (h : MsgHdr) (p : Packet) : Statement (.journalRead h p) := of_none rfl
theorem preEmpt (h : MsgHdr) (p : Packet) : Statement (.preEmpt h p) := of_none rfl
theorem resume (h : MsgHdr) (p : Packet) : Statement (.resume h p) := of_none rfl
theorem debugHalt (h : MsgHdr) (p : Packet) : Statement (.debugHalt h p) := of_none rfl
theorem debugRelease (h : MsgHdr) (p : Packet) : Statement (.debugRelease h p) := of_none rfl
theorem debugStep (h : MsgHdr) (p : Packet) : Statement (.debugStep h p) := of_none rfl
theorem debugReadState (h : MsgHdr) (p : Packet) : Statement (.debugReadState h p) := of_none rfl
theorem debugWriteState (h : MsgHdr) (p : Packet) : Statement (.debugWriteState h p) := of_none rfl
theorem jobPlacement (job : Nat) : Statement (.jobPlacement job) := of_none rfl
theorem preemption (job : Nat) : Statement (.preemption job) := of_none rfl
theorem jobComplete (job : Nat) : Statement (.jobComplete job) := of_none rfl
theorem tetherSessionOpen (h : MsgHdr) (rto : Nat) : Statement (.tetherSessionOpen h rto) := of_none rfl
theorem tetherAck (h : MsgHdr) : Statement (.tetherAck h) := of_none rfl
theorem tetherRetransmit (seq : Nat) : Statement (.tetherRetransmit seq) := of_none rfl
theorem windowRead (h : MsgHdr) (a : WinAddr) (len : Nat) : Statement (.windowRead h a len) := of_none rfl
theorem windowWrite (h : MsgHdr) (a : WinAddr) (data : List Byte) : Statement (.windowWrite h a data) := of_none rfl
theorem windowAtomic (h : MsgHdr) (a : WinAddr) (port : Nat) (x : W64) (y : W64) : Statement (.windowAtomic h a port x y) := of_none rfl
theorem setAddressSpace (h : MsgHdr) (asid : Nat) (root : Nat) : Statement (.setAddressSpace h asid root) := of_none rfl
theorem invalidate (h : MsgHdr) (scope : InvScope) : Statement (.invalidate h scope) := of_none rfl
theorem addSnapshotPool (h : MsgHdr) (pages : List Nat) : Statement (.addSnapshotPool h pages) := of_none rfl
theorem enrolKey (h : MsgHdr) (keyid : Nat) (key : List Byte) : Statement (.enrolKey h keyid key) := of_none rfl
theorem revokeKey (h : MsgHdr) (keyid : Nat) : Statement (.revokeKey h keyid) := of_none rfl
theorem dieCounterControl (h : MsgHdr) (die : Nat) (mask : Nat) : Statement (.dieCounterControl h die mask) := of_none rfl
theorem prefetchEnable (h : MsgHdr) (die : Nat) (on : Bool) : Statement (.prefetchEnable h die on) := of_none rfl
theorem linkEnable (h : MsgHdr) (link : Nat) : Statement (.linkEnable h link) := of_none rfl
theorem setPowerLimit (h : MsgHdr) (watts : Nat) : Statement (.setPowerLimit h watts) := of_none rfl
theorem readTelemetry (h : MsgHdr) : Statement (.readTelemetry h) := of_none rfl
theorem attestation (h : MsgHdr) (nonce : List Byte) : Statement (.attestation h nonce) := of_none rfl
theorem stageFirmware (h : MsgHdr) (off : Nat) (data : List Byte) : Statement (.stageFirmware h off data) := of_none rfl
theorem commitFirmware (h : MsgHdr) (len : Nat) : Statement (.commitFirmware h len) := of_none rfl
theorem packageReset (o : StartOutcome) : Statement (.packageReset o) := of_none rfl
theorem powerThrottle (cycles : Nat) : Statement (.powerThrottle cycles) := of_none rfl
theorem softError (e : SoftErr) : Statement (.softError e) := of_none rfl
theorem retrainingComplete (link : Nat) : Statement (.retrainingComplete link) := of_none rfl
theorem prefetchLineFill (die : Nat) (line : Nat) : Statement (.prefetchLineFill die line) := of_none rfl
theorem phaseGroupArrival (grp : Nat) (member : MemberNote) : Statement (.phaseGroupArrival grp member) := of_none rfl
theorem phaseGroupMemberFailure (grp : Nat) (member : Nat) : Statement (.phaseGroupMemberFailure grp member) := of_none rfl
theorem ctlJump : Statement .ctlJump := of_port rfl (by decide)
theorem ctlJumpr : Statement .ctlJumpr := of_port rfl (by decide)
theorem ctlCall : Statement .ctlCall := of_port rfl (by decide)
theorem ctlCallr : Statement .ctlCallr := of_port rfl (by decide)
theorem ctlRet : Statement .ctlRet := of_port rfl (by decide)
theorem ctlLoop : Statement .ctlLoop := of_port rfl (by decide)
theorem ctlYield : Statement .ctlYield := of_port rfl (by decide)
theorem ctlHalt : Statement .ctlHalt := of_port rfl (by decide)
theorem ctlTrap : Statement .ctlTrap := of_port rfl (by decide)
theorem rfeResume : Statement .rfeResume := of_port rfl (by decide)
theorem rfeRetry : Statement .rfeRetry := of_port rfl (by decide)
theorem rfeSkip : Statement .rfeSkip := of_port rfl (by decide)
theorem ctlBrk : Statement .ctlBrk := of_port rfl (by decide)
theorem ctlGrowG : Statement .ctlGrowG := of_port rfl (by decide)
theorem ctlShrinkG : Statement .ctlShrinkG := of_port rfl (by decide)
theorem ctlGrowV : Statement .ctlGrowV := of_port rfl (by decide)
theorem ctlShrinkV : Statement .ctlShrinkV := of_port rfl (by decide)
theorem ctlLock : Statement .ctlLock := of_port rfl (by decide)
theorem ctlCheck : Statement .ctlCheck := of_port rfl (by decide)
theorem ctlPrio : Statement .ctlPrio := of_port rfl (by decide)
theorem ctlIdle : Statement .ctlIdle := of_port rfl (by decide)
theorem ldF : Statement .ldF := of_port rfl (by decide)
theorem ldFNf : Statement .ldFNf := of_port rfl (by decide)
theorem push : Statement .push := of_port rfl (by decide)
theorem pop : Statement .pop := of_port rfl (by decide)
theorem touch : Statement .touch := of_port rfl (by decide)
theorem pref : Statement .pref := of_port rfl (by decide)
theorem lea : Statement .lea := of_port rfl (by decide)
theorem pset : Statement .pset := of_port rfl (by decide)
theorem pinc : Statement .pinc := of_port rfl (by decide)
theorem ldS : Statement .ldS := of_port rfl (by decide)
theorem ldSNf : Statement .ldSNf := of_port rfl (by decide)
theorem stS : Statement .stS := of_port rfl (by decide)
theorem stP : Statement .stP := of_port rfl (by decide)
theorem amoCas : Statement .amoCas := of_port rfl (by decide)
theorem amoFadd : Statement .amoFadd := of_port rfl (by decide)
theorem amoFaddLoose : Statement .amoFaddLoose := of_port rfl (by decide)
theorem redAdd : Statement .redAdd := of_port rfl (by decide)
theorem redAnd : Statement .redAnd := of_port rfl (by decide)
theorem redOr : Statement .redOr := of_port rfl (by decide)
theorem redXor : Statement .redXor := of_port rfl (by decide)
theorem redMax : Statement .redMax := of_port rfl (by decide)
theorem redMin : Statement .redMin := of_port rfl (by decide)
theorem redFadd : Statement .redFadd := of_port rfl (by decide)
theorem fence : Statement .fence := of_port rfl (by decide)
theorem drain : Statement .drain := of_port rfl (by decide)
theorem own : Statement .own := of_port rfl (by decide)
theorem unpackBf16 : Statement .unpackBf16 := of_port rfl (by decide)
theorem unpackH : Statement .unpackH := of_port rfl (by decide)
theorem unpackE4m3 : Statement .unpackE4m3 := of_port rfl (by decide)
theorem unpackE5m2 : Statement .unpackE5m2 := of_port rfl (by decide)
theorem sqscale : Statement .sqscale := of_port rfl (by decide)
theorem sqenc : Statement .sqenc := of_port rfl (by decide)
theorem sqdec : Statement .sqdec := of_port rfl (by decide)
theorem srBf16 : Statement .srBf16 := of_port rfl (by decide)
theorem srH : Statement .srH := of_port rfl (by decide)
theorem cvtI2f : Statement .cvtI2f := of_port rfl (by decide)
theorem cvtF2i : Statement .cvtF2i := of_port rfl (by decide)
theorem astr : Statement .astr := of_port rfl (by decide)
theorem bstr : Statement .bstr := of_port rfl (by decide)
theorem shape : Statement .shape := of_port rfl (by decide)
theorem mma : Statement .mma := of_port rfl (by decide)
theorem mmz : Statement .mmz := of_port rfl (by decide)
theorem mclear : Statement .mclear := of_port rfl (by decide)
theorem mfill : Statement .mfill := of_port rfl (by decide)
theorem mdrain : Statement .mdrain := of_port rfl (by decide)
theorem mrd : Statement .mrd := of_port rfl (by decide)
theorem mprog : Statement .mprog := of_port rfl (by decide)
theorem mrun : Statement .mrun := of_port rfl (by decide)
theorem mwait : Statement .mwait := of_port rfl (by decide)
theorem msave : Statement .msave := of_port rfl (by decide)
theorem mresume : Statement .mresume := of_port rfl (by decide)
theorem sxuKey : Statement .sxuKey := of_port rfl (by decide)
theorem ylen : Statement .ylen := of_port rfl (by decide)
theorem spin : Statement .spin := of_port rfl (by decide)
theorem spinb : Statement .spinb := of_port rfl (by decide)
theorem knit : Statement .knit := of_port rfl (by decide)
theorem knitCor : Statement .knitCor := of_port rfl (by decide)
theorem xnor : Statement .xnor := of_port rfl (by decide)
theorem purl : Statement .purl := of_port rfl (by decide)
theorem mux : Statement .mux := of_port rfl (by decide)
theorem yarnOr : Statement .yarnOr := of_port rfl (by decide)
theorem count : Statement .count := of_port rfl (by decide)
theorem respin : Statement .respin := of_port rfl (by decide)
theorem sdot : Statement .sdot := of_port rfl (by decide)
theorem draw : Statement .draw := of_port rfl (by decide)
theorem yinfo : Statement .yinfo := of_port rfl (by decide)
theorem cpyPush : Statement .cpyPush := of_port rfl (by decide)
theorem cpyTry : Statement .cpyTry := of_port rfl (by decide)
theorem reelInit : Statement .reelInit := of_port rfl (by decide)
theorem await : Statement .await := of_port rfl (by decide)
theorem rel : Statement .rel := of_port rfl (by decide)
theorem cpyStat : Statement .cpyStat := of_port rfl (by decide)
theorem send : Statement .send := of_port rfl (by decide)
theorem sendv : Statement .sendv := of_port rfl (by decide)
theorem rot : Statement .rot := of_port rfl (by decide)
theorem qcfg : Statement .qcfg := of_port rfl (by decide)
theorem peek : Statement .peek := of_port rfl (by decide)
theorem evtArrive : Statement .evtArrive := of_port rfl (by decide)
theorem evtWait : Statement .evtWait := of_port rfl (by decide)
theorem evtLock : Statement .evtLock := of_port rfl (by decide)
theorem evtUnlock : Statement .evtUnlock := of_port rfl (by decide)
theorem evtSet : Statement .evtSet := of_port rfl (by decide)
theorem evtClear : Statement .evtClear := of_port rfl (by decide)
theorem watch : Statement .watch := of_port rfl (by decide)
theorem unwatch : Statement .unwatch := of_port rfl (by decide)
theorem wpop : Statement .wpop := of_port rfl (by decide)
theorem evtPhase : Statement .evtPhase := of_port rfl (by decide)
theorem ptry : Statement .ptry := of_port rfl (by decide)
theorem chain : Statement .chain := of_port rfl (by decide)
theorem sysRd : Statement .sysRd := of_port rfl (by decide)
theorem sysWr : Statement .sysWr := of_port rfl (by decide)
theorem sysRdc : Statement .sysRdc := of_port rfl (by decide)
theorem sysFrec : Statement .sysFrec := of_port rfl (by decide)
theorem pmuZero : Statement .pmuZero := of_port rfl (by decide)
theorem pmuFreeze : Statement .pmuFreeze := of_port rfl (by decide)
theorem pmuRun : Statement .pmuRun := of_port rfl (by decide)
theorem swapCtx : Statement .swapCtx := of_port rfl (by decide)
theorem startTimeout : Statement .startTimeout := of_none rfl
theorem thermalShutdown : Statement .thermalShutdown := of_none rfl
theorem droppedFrame : Statement .droppedFrame := of_none rfl

end Sys2Proof.Laws.PortRange
end

