-- ==== Sys2Proof/Tests/Slice0.lean ====
section
/-! SUPPORT. Tests, and for every statement a state that meets its hypotheses. Expected values come from the encoding
tables, the worked examples of the manual, or a calculation by hand. -/

set_option maxRecDepth 100000

namespace Sys2Proof.Tests

set_option Elab.async false

open Sys2Proof Sys2Proof.Machine

/-! ### Decoding -/

/-- A word of one move slot and seven empty ones, and what it stands for. -/
def oneMove (slot : Nat) : W256 := wordFrom 0 (slot :: List.replicate 7 0x10000000)
def moveOf (s : Source) (d : Dest) : Except DecodeError MoveWord :=
  .ok { sc := 0, keep := false, bank := 0, slots := .move ⟨false, 0⟩ s d :: List.replicate 7 .empty }

/-- `#0 -> ctl.halt`: SOURCE 0xC00, DEST 0x80A. -/
theorem test_decode_ctl : decodeWord (oneMove 0b00000_110000000000_100000001010) = moveOf (.imm 0x400) (.port 0 10) ∧
    opOf 0 10 0 = some .ctlHalt := by decide
/-- The return names one form by T (R104). -/
theorem test_decode_rfe : opOf 0 12 0 = some .rfeResume ∧ opOf 0 12 1 = some .rfeRetry ∧ opOf 0 12 2 = some .rfeSkip := by decide
/-- `#5 -> inta.shl`: SOURCE 0xC05, DEST 0x84C; and the same form of intb, 0x40 higher. -/
theorem test_decode_int : decodeWord (oneMove 0b00000_110000000101_100001001100) = moveOf (.imm 0x405) (.port 1 12) ∧
    decodeWord (oneMove 0b00000_110000000101_100010001100) = moveOf (.imm 0x405) (.port 2 12) ∧
    opOf 1 12 0 = some (.intShl .inta false) ∧ opOf 2 12 0 = some (.intShl .intb false) := by decide
/-- `fmul.out -> fadd.add.h`: SOURCE 0x120, DEST 0x8C4. -/
theorem test_decode_fadd : decodeWord (oneMove 0b00000_000100100000_100011000100) = moveOf (.res 4 0) (.port 3 4) ∧
    opOf 3 4 0 = some (.fpAdd .h) := by decide
/-- `g5 -> fmul.mul.s`: DEST 0x903. -/
theorem test_decode_fmul : decodeWord (oneMove 0b00000_000000000101_100100000011) = moveOf (.g 5) (.port 4 3) ∧
    opOf 4 3 0 = some (.fpMul .s) := by decide
/-- `g4 -> mema.st.v`: DEST 0x94F. -/
theorem test_decode_mema : decodeWord (oneMove 0b00000_000000000100_100101001111) = moveOf (.g 4) (.port 5 15) ∧
    opOf 5 15 0 = some (.store .mema .v) := by decide
/-- `g2 -> memb.amo.add`: DEST 0x995; `#0x109 -> memb.own`: SOURCE 0xD09, DEST 0x9B4. -/
theorem test_decode_memb : decodeWord (oneMove 0b00000_000000000010_100110010101) = moveOf (.g 2) (.port 6 21) ∧
    opOf 6 21 0 = some (.amoAdd false false) ∧
    decodeWord (oneMove 0b00000_110100001001_100110110100) = moveOf (.imm 0x509) (.port 6 52) ∧ opOf 6 52 0 = some .own := by decide
/-- `v3 -> veca.vfma.mm`: SOURCE 0x203, DEST 0x9CE; the same form of vecb is at 0xA0E. -/
theorem test_decode_vec : decodeWord (oneMove 0b00000_001000000011_100111001110) = moveOf (.v 3) (.port 7 14) ∧
    decodeWord (oneMove 0b00000_001000000011_101000001110) = moveOf (.v 3) (.port 8 14) ∧
    opOf 7 14 0 = some (.vfma .veca .mm) ∧ opOf 8 14 0 = some (.vfma .vecb .mm) := by decide
/-- `v9 -> cvt.sr.bf16`: SOURCE 0x209, DEST 0xA56. -/
theorem test_decode_cvt : decodeWord (oneMove 0b00000_001000001001_101001010110) = moveOf (.v 9) (.port 9 22) ∧
    opOf 9 22 0 = some .srBf16 := by decide
/-- `#0 -> mxu.mrun`: SOURCE 0xC00, DEST 0xA8D. -/
theorem test_decode_mxu : decodeWord (oneMove 0b00000_110000000000_101010001101) = moveOf (.imm 0x400) (.port 10 13) ∧
    opOf 10 13 0 = some .mrun := by decide
/-- `#0x102 -> sxu.knit`: SOURCE 0xD02, DEST 0xAC7. -/
theorem test_decode_sxu : decodeWord (oneMove 0b00000_110100000010_101011000111) = moveOf (.imm 0x502) (.port 11 7) ∧
    opOf 11 7 0 = some .knit := by decide
/-- `g3 -> cpy.push`: DEST 0xB03. -/
theorem test_decode_cpy : decodeWord (oneMove 0b00000_000000000011_101100000011) = moveOf (.g 3) (.port 12 3) ∧
    opOf 12 3 0 = some .cpyPush := by decide
/-- `#0x10 -> net.sendv`: SOURCE 0xC10, DEST 0xB44. -/
theorem test_decode_net : decodeWord (oneMove 0b00000_110000010000_101101000100) = moveOf (.imm 0x410) (.port 13 4) ∧
    opOf 13 4 0 = some .sendv := by decide
/-- `#0 -> evt.phase`: SOURCE 0xC00, DEST 0xB8C. -/
theorem test_decode_evt : decodeWord (oneMove 0b00000_110000000000_101110001100) = moveOf (.imm 0x400) (.port 14 12) ∧
    opOf 14 12 0 = some .evtPhase := by decide
/-- `#0x11 -> sys.rd`: SOURCE 0xC11, DEST 0xBC3; and the three forms of sys.pmu by T (R125). -/
theorem test_decode_sys : decodeWord (oneMove 0b00000_110000010001_101111000011) = moveOf (.imm 0x411) (.port 15 3) ∧
    opOf 15 3 0 = some .sysRd ∧ opOf 15 7 1 = some .pmuZero ∧ opOf 15 7 2 = some .pmuFreeze ∧ opOf 15 7 4 = some .pmuRun := by decide
/-- The header of the journal read of the commentary: KIND 9, QUEUE 63, LEN 1, SEQ 7. -/
theorem test_decode_packet : packetOf ⟨0, 0, 0, 0⟩ ⟨0x09FC000100000007, [0x0000040300000026]⟩ =
    some (.journalRead ⟨0, 0, 0, 0⟩ ⟨0x09FC000100000007, [0x0000040300000026]⟩) := by decide

/-- Word 3 of the newer build of the commentary has XH 1: it does not decode. Without XH, the revision-1 word does. -/
theorem test_decode_newer :
    decodeWord ((0x0002108000000400#64 ++ 0x0000200000000138#64 ++ 0x9408000000400000#64 ++ 0x020000000000494F#64 : BitVec 256)) =
      .error .extension ∧
    decodeWord ((0x0000008000000400#64 ++ 0x0000200000000138#64 ++ 0x9408000000400000#64 ++ 0x020000000000494F#64 : BitVec 256)) =
      .ok { sc := 0, keep := false, bank := 0,
            slots := [.move ⟨false, 0⟩ (.g 4) (.port 5 15), .empty, .empty, .empty, .move ⟨false, 0⟩ (.res 7 0) (.port 5 0),
              .empty, .empty, .empty] } := by decide

/-- The operation that the word `g0 -> DEST` starts, for a DEST code and an operand. -/
def startOf (dest : Nat) (t : W512) : Option Instr :=
  match decodeWord (oneMove dest) with
  | .ok m => m.slots.head?.bind fun
    | .move _ _ (.port u p) => opOf u.toNat p.toNat t
    | _ => none
  | .error _ => none

/-- The operations of consecutive trigger ports from a DEST code on. -/
def startsFrom (dest n : Nat) : List (Option Instr) := (List.range n).map fun k => startOf (dest + k) 0

/-- (R43) Ports 3 to 21 of ctl. -/
theorem test_ports_ctl : startsFrom 0x803 19 = ([
    .ctlJump, .ctlJumpr, .ctlCall, .ctlCallr, .ctlRet, .ctlLoop, .ctlYield, .ctlHalt, .ctlTrap, .rfeResume, .ctlBrk, .ctlGrowG,
    .ctlShrinkG, .ctlGrowV, .ctlShrinkV, .ctlLock, .ctlCheck, .ctlPrio, .ctlIdle] : List Instr).map some := by decide +kernel

/-- (R44) Ports 3 to 61 of inta. -/
theorem test_ports_inta : startsFrom 0x843 59 = ([
    .intAdd .inta false, .intAdd .inta true, .intSub .inta false, .intSub .inta true, .intAnd .inta, .intOr .inta, .intXor .inta,
    .intAndn .inta, .intOrn .inta, .intShl .inta false, .intShl .inta true, .intShr .inta false, .intShr .inta true, .intSar .inta false,
    .intSar .inta true, .intRol .inta false, .intRol .inta true, .intRor .inta false, .intRor .inta true, .intMul .inta false,
    .intMul .inta true, .intMulh .inta false, .intMulh .inta true, .intMulhu .inta, .intDiv .inta false, .intDiv .inta true,
    .intDivu .inta false, .intDivu .inta true, .intRem .inta false, .intRem .inta true, .intRemu .inta false, .intRemu .inta true,
    .intMin .inta, .intMinu .inta, .intMax .inta, .intMaxu .inta, .intAbs .inta, .intSeq .inta, .intSne .inta, .intSlt .inta,
    .intSle .inta, .intSltu .inta, .intSleu .inta, .intSel .inta, .intClz .inta, .intCtz .inta, .intPopc .inta, .intBrev .inta,
    .intBswap .inta, .intBext .inta, .intBins .inta, .intSext .inta .b, .intSext .inta .h, .intSext .inta .w, .intZext .inta .b,
    .intZext .inta .h, .intZext .inta .w, .intFpack .inta, .intFunpack .inta] : List Instr).map some := by decide +kernel

/-- (R44) Ports 3 to 61 of intb. -/
theorem test_ports_intb : startsFrom 0x883 59 = ([
    .intAdd .intb false, .intAdd .intb true, .intSub .intb false, .intSub .intb true, .intAnd .intb, .intOr .intb, .intXor .intb,
    .intAndn .intb, .intOrn .intb, .intShl .intb false, .intShl .intb true, .intShr .intb false, .intShr .intb true, .intSar .intb false,
    .intSar .intb true, .intRol .intb false, .intRol .intb true, .intRor .intb false, .intRor .intb true, .intMul .intb false,
    .intMul .intb true, .intMulh .intb false, .intMulh .intb true, .intMulhu .intb, .intDiv .intb false, .intDiv .intb true,
    .intDivu .intb false, .intDivu .intb true, .intRem .intb false, .intRem .intb true, .intRemu .intb false, .intRemu .intb true,
    .intMin .intb, .intMinu .intb, .intMax .intb, .intMaxu .intb, .intAbs .intb, .intSeq .intb, .intSne .intb, .intSlt .intb,
    .intSle .intb, .intSltu .intb, .intSleu .intb, .intSel .intb, .intClz .intb, .intCtz .intb, .intPopc .intb, .intBrev .intb,
    .intBswap .intb, .intBext .intb, .intBins .intb, .intSext .intb .b, .intSext .intb .h, .intSext .intb .w, .intZext .intb .b,
    .intZext .intb .h, .intZext .intb .w, .intFpack .intb, .intFunpack .intb] : List Instr).map some := by decide +kernel

/-- (R45) Ports 3 to 50 of fadd. -/
theorem test_ports_fadd : startsFrom 0x8C3 48 = ([
    .fpAdd .s, .fpAdd .h, .fpAdd .b, .fpSub .s, .fpSub .h, .fpSub .b, .fpMin .s, .fpMin .h, .fpMin .b, .fpMax .s, .fpMax .h, .fpMax .b,
    .fpAbs .s, .fpAbs .h, .fpAbs .b, .fpNeg .s, .fpNeg .h, .fpNeg .b, .fpCpsign .s, .fpCpsign .h, .fpCpsign .b, .fpEq .s, .fpEq .h,
    .fpEq .b, .fpLt .s, .fpLt .h, .fpLt .b, .fpLe .s, .fpLe .h, .fpLe .b, .fpClass .s, .fpClass .h, .fpClass .b, .fpRnd .s, .fpRnd .h,
    .fpRnd .b, .fpCvtI2f .s, .fpCvtI2f .h, .fpCvtI2f .b, .fpCvtF2i .s, .fpCvtF2i .h, .fpCvtF2i .b, .fpCvtFormat .hs, .fpCvtFormat .bs,
    .fpCvtFormat .sh, .fpCvtFormat .sb, .fpCvtFormat .hb, .fpCvtFormat .bh] : List Instr).map some := by decide +kernel

/-- (R46) Ports 3 to 23 of fmul. -/
theorem test_ports_fmul : startsFrom 0x903 21 = ([
    .fpMul .s, .fpMul .h, .fpMul .b, .fpFma .s, .fpFma .h, .fpFma .b, .fpFms .s, .fpFms .h, .fpFms .b, .fpFnma .s, .fpFnma .h, .fpFnma .b,
    .fpDiv .s, .fpDiv .h, .fpDiv .b, .fpSqrt .s, .fpSqrt .h, .fpSqrt .b, .fpRcp .s, .fpRcp .h, .fpRcp .b] : List Instr).map some := by decide +kernel

/-- (R47) Ports 3 to 15 of mema. -/
theorem test_ports_mema_local : startsFrom 0x943 13 = ([
    .localLoad .mema .b, .localLoad .mema .bu, .localLoad .mema .h, .localLoad .mema .hu, .localLoad .mema .w, .localLoad .mema .wu,
    .localLoad .mema .d, .localLoad .mema .v, .store .mema .b, .store .mema .h, .store .mema .w, .store .mema .d, .store .mema .v] : List Instr).map some := by decide +kernel

/-- (R47) Ports 16 to 40 of mema. -/
theorem test_ports_mema : startsFrom 0x950 25 = ([
    .ldq .b, .ldq .bu, .ldq .h, .ldq .hu, .ldq .w, .ldq .wu, .ldq .d, .ldq .v, .ldqNf .b, .ldqNf .bu, .ldqNf .h, .ldqNf .hu, .ldqNf .w,
    .ldqNf .wu, .ldqNf .d, .ldqNf .v, .ldF, .ldFNf, .push, .pop, .touch, .pref, .lea, .pset, .pinc] : List Instr).map some := by decide +kernel

/-- (R47) Ports 3 to 15 of memb. -/
theorem test_ports_memb_local : startsFrom 0x983 13 = ([
    .localLoad .memb .b, .localLoad .memb .bu, .localLoad .memb .h, .localLoad .memb .hu, .localLoad .memb .w, .localLoad .memb .wu,
    .localLoad .memb .d, .localLoad .memb .v, .store .memb .b, .store .memb .h, .store .memb .w, .store .memb .d, .store .memb .v] : List Instr).map some := by decide +kernel

/-- (R47) Ports 16 to 52 of memb. -/
theorem test_ports_memb : startsFrom 0x990 37 = ([
    .ldS, .ldSNf, .stS, .stP, .amoAdd true false, .amoAdd false false, .amoAnd false, .amoOr false, .amoXor false, .amoMax false,
    .amoMaxu false, .amoMin false, .amoMinu false, .amoSwap false, .amoCas, .amoFadd, .amoFaddLoose, .amoAdd true true, .amoAdd false true,
    .amoAnd true, .amoOr true, .amoXor true, .amoMax true, .amoMaxu true, .amoMin true, .amoMinu true, .amoSwap true, .redAdd, .redAnd,
    .redOr, .redXor, .redMax, .redMin, .redFadd, .fence, .drain, .own] : List Instr).map some := by decide +kernel

/-- (R49) Ports 3 to 60 of veca. -/
theorem test_ports_veca : startsFrom 0x9C3 58 = ([
    .vecVfmt .veca, .vadd .veca .plain, .vsub .veca .plain, .vmul .veca .plain, .vfma .veca .plain, .vfms .veca .plain, .vmin .veca .plain,
    .vmax .veca .plain, .vadd .veca .mm, .vsub .veca .mm, .vmul .veca .mm, .vfma .veca .mm, .vfms .veca .mm, .vmin .veca .mm,
    .vmax .veca .mm, .vadd .veca .ma, .vsub .veca .ma, .vmul .veca .ma, .vfma .veca .ma, .vfms .veca .ma, .vmin .veca .ma, .vmax .veca .ma,
    .vabs .veca, .vneg .veca, .vcmp .veca .eq, .vcmp .veca .lt, .vcmp .veca .le, .vsel .veca, .vand .veca, .vor .veca, .vxor .veca,
    .vnot .veca, .vshl .veca, .vshr .veca, .vsar .veca, .vaddI .veca, .vsubI .veca, .vmulI .veca, .vdot4 .veca, .vredadd .veca,
    .vredmax .veca, .vredmin .veca, .vperm .veca, .vbcast .veca, .vslide .veca, .vzip .veca, .vunzip .veca, .vexp2 .veca, .vlog2 .veca,
    .vrcp .veca, .vrsqrt .veca, .vsqrt .veca, .vdiv .veca, .mand .veca, .mor .veca, .mnot .veca, .mpopc .veca, .mfirst .veca] : List Instr).map some := by decide +kernel

/-- (R49) Ports 3 to 60 of vecb. -/
theorem test_ports_vecb : startsFrom 0xA03 58 = ([
    .vecVfmt .vecb, .vadd .vecb .plain, .vsub .vecb .plain, .vmul .vecb .plain, .vfma .vecb .plain, .vfms .vecb .plain, .vmin .vecb .plain,
    .vmax .vecb .plain, .vadd .vecb .mm, .vsub .vecb .mm, .vmul .vecb .mm, .vfma .vecb .mm, .vfms .vecb .mm, .vmin .vecb .mm,
    .vmax .vecb .mm, .vadd .vecb .ma, .vsub .vecb .ma, .vmul .vecb .ma, .vfma .vecb .ma, .vfms .vecb .ma, .vmin .vecb .ma, .vmax .vecb .ma,
    .vabs .vecb, .vneg .vecb, .vcmp .vecb .eq, .vcmp .vecb .lt, .vcmp .vecb .le, .vsel .vecb, .vand .vecb, .vor .vecb, .vxor .vecb,
    .vnot .vecb, .vshl .vecb, .vshr .vecb, .vsar .vecb, .vaddI .vecb, .vsubI .vecb, .vmulI .vecb, .vdot4 .vecb, .vredadd .vecb,
    .vredmax .vecb, .vredmin .vecb, .vperm .vecb, .vbcast .vecb, .vslide .vecb, .vzip .vecb, .vunzip .vecb, .vexp2 .vecb, .vlog2 .vecb,
    .vrcp .vecb, .vrsqrt .vecb, .vsqrt .vecb, .vdiv .vecb, .mand .vecb, .mor .vecb, .mnot .vecb, .mpopc .vecb, .mfirst .vecb] : List Instr).map some := by decide +kernel

/-- (R50) Ports 3 to 25 of cvt. -/
theorem test_ports_cvt : startsFrom 0xA43 23 = ([
    .packBf16 .plain, .packBf16 .sat, .packBf16 .ro, .packH .plain, .packH .sat, .packH .ro, .packE4m3 .plain, .packE4m3 .sat,
    .packE4m3 .ro, .packE5m2 .plain, .packE5m2 .sat, .packE5m2 .ro, .unpackBf16, .unpackH, .unpackE4m3, .unpackE5m2, .sqscale, .sqenc,
    .sqdec, .srBf16, .srH, .cvtI2f, .cvtF2i] : List Instr).map some := by decide +kernel

/-- (R51) Ports 3 to 16 of mxu. -/
theorem test_ports_mxu : startsFrom 0xA83 14 = ([
    .astr, .bstr, .shape, .mma, .mmz, .mclear, .mfill, .mdrain, .mrd, .mprog, .mrun, .mwait, .msave, .mresume] : List Instr).map some := by decide +kernel

/-- (R51) Ports 3 to 17 of sxu. -/
theorem test_ports_sxu : startsFrom 0xAC3 15 = ([
    .sxuKey, .ylen, .spin, .spinb, .knit, .knitCor, .xnor, .purl, .mux, .yarnOr, .count, .respin, .sdot, .draw, .yinfo] : List Instr).map some := by decide +kernel

/-- (R51) Ports 3 to 8 of cpy. -/
theorem test_ports_cpy : startsFrom 0xB03 6 = ([
    .cpyPush, .cpyTry, .reelInit, .await, .rel, .cpyStat] : List Instr).map some := by decide +kernel

/-- (R51) Ports 3 to 7 of net. -/
theorem test_ports_net : startsFrom 0xB43 5 = ([
    .send, .sendv, .rot, .qcfg, .peek] : List Instr).map some := by decide +kernel

/-- (R51) Ports 3 to 14 of evt. -/
theorem test_ports_evt : startsFrom 0xB83 12 = ([
    .evtArrive, .evtWait, .evtLock, .evtUnlock, .evtSet, .evtClear, .watch, .unwatch, .wpop, .evtPhase, .ptry, .chain] : List Instr).map some := by decide +kernel

/-- (R43, R51) The forms that the operand tells apart, and the ports of sys. -/
theorem test_ports_sys : startOf 0x80C 1 = some .rfeRetry ∧ startOf 0x80C 2 = some .rfeSkip ∧
    ([(0xBC3, 0), (0xBC4, 0), (0xBC5, 0), (0xBC6, 0), (0xBC7, 1), (0xBC7, 2), (0xBC7, 4), (0xBC8, 0)] : List (Nat × W512)).map
      (fun e => startOf e.1 e.2) = ([.sysRd, .sysWr, .sysRdc, .sysFrec, .pmuZero, .pmuFreeze, .pmuRun, .swapCtx] : List Instr).map some := by
  decide +kernel

/-! ### Digests, signatures and objects -/

/-- The digest of the message `abc`, the example of the standard. -/
theorem test_sha384 : beNat (sha384 [0x61, 0x62, 0x63]) =
    0xCB00753F45A35E8BB5A03D699AC65007272C32AB0EDED1631A8B605A43FF5BED8086072BA1E7CC2358BAECA134C825A7 := by decide +kernel

/-- A code object: a version note, one role image of one word, a placement, a boot tree, and a signature that another
implementation made of it; and the key of that signature. -/
def objectB : List Byte := leBytes 448 ((0x9208bc5611cdaa4d29b9ae663473501eaba85875f57d4f2b9d2d51cab607b608762e2a5e6565d5f024a7caab29970b3c3506353033d5c78f#448) ++
    (0x4d29d08580ffcddc2c5c9396d7cf88cdabcf47aa8a044b0f96a595274cff6538d9c69dff0e05e42700000000000000070000000000000000#448) ++
    (0x0000000b000b0000000000000000000100000000000000000000000000000000000000000000000000000000000000000000000000000000#448) ++
    (0x0000000000000000000000000000000000000000000000000000000000000000000000000000000000000000000000000000000000000000#448) ++
    (0x00000000000000000000000000000000000000000000000000000000000000000000000000000000000000000000000000080000ffff0000#448) ++
    (0x0000000000010000000000000000000000000001000000010000006800000158000000000000000f00000008000001500000000000000004#448) ++
    (0x00000010000001400000000000000003000000a0000000a00000000000000002000000100000009000000000000000010000000000000000#448) ++
    (0x0000000000000000000000000000000000000000000000000000000000000000000000000000004100000000000001c0000500014f434b5a#448) :
    BitVec 3584).toNat
def keyB : List Byte := beBytes 97 0x0470d51d7451dc23075c20c7b1fe1accf7ee7fed9a890b742139473c93034c2b37895cb9056c23490cab665af11e0afc80584e21c5d26de04ce01b14d00bad6d49ff43b031c30e2e78cc728f5fd3cd733e0f324ea9b777424cc996b92b285169de

/-- The object passes every check of loading where its key is enrolled as key 7; with another key number, or one byte changed, check 2 fails. -/
theorem test_load : let s := { State.reset with keys := [(7, keyB)] };
    s.loadError 2 5 objectB = none ∧ (State.reset.loadError 2 5 objectB).map (·.1) = some 2 ∧
    (s.loadError 2 5 (objectB.set 0x10 0x42)).map (·.1) = some 2 := by decide +kernel

/-- What does not decode: literal slots that no move claims and a long-literal move without one (R25), two moves to one register
that may both perform (R31), a reserved SOURCE (R29), v768 (R30), a reserved port of ctl (R33), KIND 1 (R26). Under a flag and
its inverse the two moves do not clash. -/
theorem test_decode_refuses :
    decodeWord (wordFrom 0x003000 ([0, 1] ++ List.replicate 6 0x10000000)) = .error (.illegal 0) ∧
    decodeWord (oneMove 0b00000_111111111111_000000000001) = .error (.illegal 0) ∧
    (decodeWord (wordFrom 0 ([0x1, 0x1001] ++ List.replicate 6 0x10000000))).isOk = false ∧
    decodeWord (wordFrom 0 ([0x1000001, 0x11000001] ++ List.replicate 6 0x10000000)) =
      .ok ⟨0, false, 0, [.move ⟨false, 1⟩ (.g 0) (.g 1), .move ⟨true, 1⟩ (.g 0) (.g 1)] ++ List.replicate 6 .empty⟩ ∧
    decodeWord (oneMove 0b00000_000001100000_000000000001) = .error (.illegal 0) ∧
    decodeWord (oneMove 0b00000_000000000001_010100000000) = .error (.illegal 0) ∧
    decodeWord (oneMove 0b00000_000000000001_100000010110) = .error (.unassigned 0) ∧
    decodeWord (wordFrom 1 (List.replicate 8 0x10000000)) = .error .extension := by decide

/-! ### Well-formedness -/

/-- A word of given slots, and of one move under a guard. -/
def wordWith (l : List Slot) : MoveWord := { sc := 0, keep := false, bank := 0, slots := l }
def move1 (gd : Guard) (s : Source) (d : Dest) : MoveWord := wordWith (.move gd s d :: List.replicate 7 .empty)

/-- Each check refuses a word that is ill-formed in its way alone, and a word with every kind of slot passes them all. -/
theorem test_wf_checks :
    (wordWith [.empty]).wf = false ∧ (wordWith [.empty]).slotsOk = false ∧
    (move1 ⟨true, 0⟩ (.g 1) (.g 2)).wf = false ∧ ((move1 ⟨true, 0⟩ (.g 1) (.g 2)).slots.all Slot.guardOk) = false ∧
    (move1 ⟨false, 0⟩ (.v 768) (.v 2)).wf = false ∧ ((move1 ⟨false, 0⟩ (.v 768) (.v 2)).slots.all Slot.sourceOk) = false ∧
    (move1 ⟨false, 0⟩ (.imm 0x7FF) (.g 2)).wf = false ∧ ((move1 ⟨false, 0⟩ (.imm 0x7FF) (.g 2)).slots.all Slot.sourceOk) = false ∧
    (move1 ⟨false, 0⟩ (.g 1) (.v 768)).wf = false ∧ ((move1 ⟨false, 0⟩ (.g 1) (.v 768)).slots.all Slot.destOk) = false ∧
    (move1 ⟨false, 0⟩ .long (.g 2)).wf = false ∧ (move1 ⟨false, 0⟩ .long (.g 2)).literalsOk = false ∧
    (wordWith (.lit 5 :: List.replicate 7 .empty)).wf = false ∧ (wordWith (.lit 5 :: List.replicate 7 .empty)).literalsOk = false ∧
    (wordWith (List.replicate 8 (.move ⟨false, 0⟩ (.g 1) (.g 2)))).wf = false ∧
    (wordWith (List.replicate 8 (.move ⟨false, 0⟩ (.g 1) (.g 2)))).clashFree = false ∧
    (move1 ⟨false, 0⟩ (.g 1) (.port 0 22)).wf = false ∧ (move1 ⟨false, 0⟩ (.g 1) (.port 0 22)).assignedOk = false ∧
    (wordWith [.move ⟨true, 1⟩ (.v 767) (.v 0), .move ⟨false, 0⟩ (.imm 0x7FE) (.port 15 3), .move ⟨false, 0⟩ .long (.a 15), .lit 5,
      .lit 6, .move ⟨false, 3⟩ (.res 13 6) (.f 2), .empty, .empty]).wf = true := by decide

/-- Tiles and contexts of the package, and packets. -/
theorem test_wf_events :
    (Instr.idleEnd ⟨575, 3⟩).wf = true ∧ (Instr.idleEnd ⟨576, 0⟩).wf = false ∧ (Instr.idleEnd ⟨0, 4⟩).wf = false ∧
    (Instr.rotRound 575 0).wf = true ∧ (Instr.rotRound 576 0).wf = false ∧
    (Instr.journalRead ⟨0, 0, 0, 0⟩ ⟨0x09FC000100000007, [0x0000040300000026]⟩).wf = true ∧
    (Instr.journalRead ⟨0, 0, 0, 0⟩ ⟨0x09FC000100000007, []⟩).wf = false ∧
    (Instr.launch ⟨0, 0, 0, 0⟩ ⟨0x09FC000100000007, [0x0000040300000026]⟩).wf = false ∧
    (Instr.wordIssue (wordWith [.empty])).wf = false ∧ (Instr.wordIssue (wordWith (List.replicate 8 .empty))).wf = true := by decide

/-! ### Small states -/

/-- Context 0 of tile 0. -/
def me : Who := ⟨0, 0⟩

/-- The state after reset, with 64 scalar and 768 vector registers in context 0 of tile 0, where a trigger with operand T
of unit `u` starts in slot 2 of word 5 with the operands o1, o2 and o3. -/
def startAt (u : Nat) (t o1 o2 o3 : W512) : State :=
  { State.reset.updCtx me fun x => { x with
      gcount := 64
      vcount := 768
      bank := ((x.bank.setPort u 0 o1).setPort u 1 o2).setPort u 2 o3 } with
    trig := { who := me, word := 5, slot := 2, t := t, again := false, late := false } }

/-- A property of the next state. -/
def after (o : Host.Outcome State Fault Refusal) (p : State → Bool) : Bool :=
  match o with
  | .next t => p t
  | _ => false

/-- The state that a step gives. -/
def nextOf (o : Host.Outcome State Fault Refusal) : State :=
  match o with
  | .next t => t
  | _ => State.reset

/-- The record that a form of fixed latency has put in flight. -/
def startedRec (i : Instr) (s : State) : Rec := (((nextOf (exec i s)).ctx me).bank.fly.map (·.res)).headD Rec.zero

/-- FREC0.CODE and FREC0.INFO of context 0 after a step. -/
def codeInfo (i : Instr) (s : State) : Nat × Nat :=
  let v := ((nextOf (exec i s)).ctx me).frec0
  ((v.extractLsb' 0 8).toNat, (v.extractLsb' 16 16).toNat)

/-! ### Values of the manual's worked examples -/

/-- (Number format commentary) The SQ5 block of sixteen values: 13 bytes with S = 0x7F00 and micro-exponents 0xFE. -/
def sqInput : W512 := (0xBF0000003FF00000#64).setWidth 512 ||| (0x3E0000003E800000#64).setWidth 512 <<< 64 |||
  (0x800000003E900000#64).setWidth 512 <<< 128
theorem test_sqenc : startedRec .sqenc (startAt 9 sqInput 0 1 0x7F00) =
    { out := 0x2041128FFE7F00, aux := 0, stat := 1 } := by decide
theorem test_sqdec : (startedRec .sqdec (startAt 9 0x2041128FFE7F00 0 1 0)).out =
    ((0xBF0000003FF00000#64).setWidth 512 ||| (0x3E0000003E800000#64).setWidth 512 <<< 64 |||
      (0x800000003E800000#64).setWidth 512 <<< 128) := by decide
/-- amax = 1.875 gives S = 0x7F00. -/
theorem test_sqscale : (startedRec .sqscale (startAt 9 sqInput 0 1 0)).out = 0x3FF0000000007F00 := by decide

/-- (Vector commentary) 2 × 3 + 1 under the mask 0xFF, with the largest finite value in lane 15: 7.0 and, undisturbed, 1.0. -/
def eachLane (v : Nat) : W512 := BitVec.ofNat 512 ((List.range 16).foldr (fun _ x => x * 2 ^ 32 + v) 0)
def topLane (v : Nat) (x : W512) : W512 := ((x.extractLsb' 0 480).setWidth 512 ||| (BitVec.ofNat 512 v <<< 480))
theorem test_vfma_mm : startedRec (.vfma .veca .mm)
    (startAt 7 (topLane 0x7F7FFFFF (eachLane 0x40400000)) (eachLane 0x40000000) (lanes 0xFF) (eachLane 0x3F800000)) =
    { out := (eachLane 0x3F800000) <<< 256 ||| (eachLane 0x40E00000) >>> 256, aux := 0, stat := 0 } := by decide
/-- The `.ma` form computes every lane, overflows in lane 15 and records no flag of a lane that the mask leaves out. -/
theorem test_vfma_ma : startedRec (.vfma .veca .ma)
    (startAt 7 (topLane 0x7F7FFFFF (eachLane 0x40400000)) (eachLane 0x40000000) (lanes 0xFF) (eachLane 0x3F800000)) =
    { out := topLane 0x7F800000 (eachLane 0x40E00000), aux := 0, stat := 0 } := by decide

/-- (Vector commentary) x = 1 + 7 × 2^−11 in lanes 0 and 1, K = 4, spindle 1, whose next values are 11 and 3, as those of a spindle
in mode 0 with KEY 11 are: lane 0 rounds up, lane 1 down, and both are inexact. -/
theorem test_sr : startedRec .srBf16 ((startAt 9 0 0x3F8070003F807000 0x401 0).updCtx me fun x =>
    x.setSpindle 1 { key := 11, mode := false, epoch := 0, state := 0 }) = { out := 0x3F803F81, aux := 0, stat := 1 } := by decide

/-- (Memory rules, a worked translation) PA 0x91A2_3440 interleaved: home die 1, stack 4, index 49,709. -/
theorem test_placement : placeLoc 0 0 0 0x91A23440 = 2 ^ 40 + 4096 * (2 ^ 24 * 4 + 49709) + 0x440 ∧
    homeDie (placeLoc 0 0 0 0x91A23440) = 1 := by decide

/-- (R256, matrix commentary) Min-plus over the pairs (0, ∞), (3, 2), (∞, 0), (7, ∞) from +∞ gives 5. -/
theorem test_min_plus : [(0, 0x7F800000), (0x40400000, 0x40000000), (0x7F800000, 0), (0x40E00000, 0x7F800000)].foldl
    (fun acc (p : Nat × Nat) => recurStep 0x0000000070C02280 0 acc (Fmt.fp32.val p.1) (Fmt.fp32.val p.2)) 0x7F800000 =
      0x40A00000 := by decide

/-- (Yarn commentary) 4/16 and 6/16 spun from a fresh spindle in mode 0 are 0x1111 and 0x1515. -/
theorem test_spin : let y (v : W512) := ((nextOf (exec .spin (startAt 11 0 v 0 0))).ctx me).yarn 0
    (y 4).bits = 0x1111 ∧ (y 6).bits = 0x1515 ∧ (y 4).k = 4 := by decide

/-- The trigger stands in another word. -/
def inWord (s : State) (w : Nat) : State := { s with trig := { s.trig with word := w } }

/-- Context 0 of tile 0 is changed. -/
def with' (s : State) (f : Ctx → Ctx) : State := s.updCtx me f

/-- Context 0 of tile 0 runs a strand of a job, the only one. -/
def ofJob (s : State) (j : Job) : State :=
  { s.updCtx me fun x => { x with job := some j.id } with
    jobs := [j]
    fresh := 100 }

/-! ### For each statement, states that meet its hypotheses -/

theorem witness_IntegerForms : (intForm (.intMulh .intb true)).isSome = true ∧ (intForm (.intSel .inta)).isSome = true := by decide +kernel
theorem witness_DividesAndFlagPacking : (divForm (.intRemu .inta true)).isSome = true := by decide +kernel
theorem witness_FloatForms : (fpForm (.fpFnma .b)).isSome = true ∧ (fpForm (.fpCvtFormat .bh)).isSome = true := by decide +kernel
/-- Both the largest finite encoding and the largest negative one. -/
theorem witness_EncodingsAndOverflow : (0x7F7FFFFF : Nat) < 2 ^ (Fmt.fp32.signPos + 1) ∧ 0x7F7FFFFF % 2 ^ Fmt.fp32.signPos ≤ Fmt.fp32.maxCode ∧
    0xFE < 2 ^ (Fmt.e4m3.signPos + 1) ∧ 0xFE % 2 ^ Fmt.e4m3.signPos ≤ Fmt.e4m3.maxCode := by decide +kernel

/-- A program of one word, `g1 -> g2`, to issue next; and the last word of the store. -/
def issueAt (pc : Nat) (w : W256) : State :=
  { (State.reset.updTile 0 fun t => { t with istore := [(pc, w)] }).updCtx me fun x => { x with
      pc := pc
      gcount := 64
      vcount := 768 } with
    agenda := [.issue me] }

theorem witness_StepRunsTheDecodedInstruction :
    ((issueAt 8191 (oneMove 0x1002)).agenda = [.issue me] ∧ ((issueAt 8191 (oneMove 0x1002)).ctx me).pc < 8192 ∧
      ((issueAt 8191 (oneMove 0x1002)).tile 0).badWords.contains 8191 = false ∧
      decodeMoves (((issueAt 8191 (oneMove 0x1002)).tile 0).word 8191) = moveOf (.g 1) (.g 2)) ∧
    ({ State.reset with agenda := [.run Trig.init .pref] } : State).agenda = [.run Trig.init .pref] ∧
    (let s : State := { State.reset with sched := [(0, .droppedFrame)] };
      s.agenda = [] ∧ s.worked = false ∧ 0 ≤ s.cycle.toNat ∧ portOf .droppedFrame = none ∧ ∀ m, Instr.droppedFrame ≠ .wordIssue m) := by
  refine ⟨by decide, rfl, by decide, by decide, by decide, by decide, ?_⟩
  intro m; exact nofun

/-- The model of a word: `g1 -> g2` and `#5 -> inta.add`. -/
def twoMoves : MoveWord := wordWith ([.move ⟨false, 0⟩ (.g 1) (.g 2), .move ⟨false, 0⟩ (.imm 0x405) (.port 1 3)] ++ List.replicate 6 .empty)

theorem witness_WordsPerform :
    (let s := issueAt 0 0;
      (s.trialled s.trig.who).verdict s.trig.who twoMoves none = .go) ∧
    (let s := issueAt 0 0;
      let m := move1 ⟨false, 0⟩ (.g 63) (.v 767)
      m.wf = true ∧ s.parity = [] ∧ ∀ k ∈ wordMoves m, k.plain (s.ctx s.trig.who) = true) := by decide +kernel

/-- A result of inta in flight. -/
def flying (div : Bool) : InFlight :=
  { unit := 1, id := 7, left := 0, cyc := 0, div := div, res := { out := 3, aux := 0, stat := 0 }, eff := Effects.none }
def withFlying (div : Bool) (lock : BitVec 16) : State := State.reset.updCtx me fun x => { x with
  bank := { x.bank with fly := [flying div] }
  lock := lock }

/-- A divide at its bound behind a divide of an earlier slot of its word. -/
def twoDivides (lock : BitVec 16) : State := State.reset.updCtx me fun x => { x with
  bank := { x.bank with fly := [{ flying true with
    id := 6
    left := 9 }, flying true] }
  lock := lock }

theorem witness_ResultsLand : (∀ div : Bool, ∀ lock ∈ [0xFFFF, 0xFFFD], let s := withFlying div (BitVec.ofNat 16 lock)
    (s.ctx me).bank.fly.find? (fun y => y.id == 7) = some (flying div) ∧ (flying div).left = 0 ∧
      (∀ q ∈ (s.ctx me).bank.fly, q.unit = 1 → q.cyc = 0 → 7 ≤ q.id) ∧ (s.ctx me).locked 1 = (lock == 0xFFFF)) ∧
    ∀ lock ∈ [0xFFFF, 0xFFFD], let s := twoDivides (BitVec.ofNat 16 lock)
      (s.ctx me).bank.fly.find? (fun y => y.id == 7) = some (flying true) ∧ (flying true).div = true ∧ (flying true).left = 0 ∧
        (s.ctx me).locked 1 = (lock == 0xFFFF) := by decide +kernel

theorem witness_StartingResultsFrame : exec (.intAdd .inta false) (startAt 1 5 3 0 0) =
    .next ((startAt 1 5 3 0 0).startFixed 1 1 { out := 8, aux := 0, stat := 0 } Effects.none) := by rfl

/-- A job on tiles 0 and 1 of die 0, all four contexts of each. -/
def jobA : Job := { Job.bare with
  rects := [{ pdie := 0, oy := 0, ox := 0, h := 1, w := 2, ctx := 0xF, gc := 64, vc := 192, cprio := 0 }]
  swcnt := 16
  args := [1, 2] }

/-- The job runs, with context 0 of tile 0. -/
def running (j : Job) : State := ofJob (startAt 0 0 0 0 0) j

theorem witness_CountsEnd :
    (let s := with' (running jobA) fun x => { x with stall := 1 };
      (s.ctx me).counting = true ∧ (s.ctx me).stall = 1) ∧
    (let s := with' (running jobA) fun x => { x with idle := 1 };
      (s.ctx me).counting = true ∧ (s.ctx me).stall = 0 ∧ (s.ctx me).idle = 1) ∧
    240 ≤ ((with' (running jobA) fun x => { x with waits := 240 }).ctx me).waits ∧
    (∀ p ∈ [(2, 0), (1, 0), (0, 2), (0, 1)], let s := with' (running jobA) fun x => { x with
        stall := p.1
        idle := p.2
        starved := 240 }
      me ∈ s.countingOn 0 ∧ 240 ≤ (s.ctx me).starved) := by decide +kernel

/-- A word with every field at an extreme of its range. -/
theorem witness_DecodeEncode : ({ sc := 15, keep := true, bank := 7, slots := [.move ⟨true, 15⟩ (.g 63) (.v 767),
    .move ⟨false, 0⟩ (.v 767) (.a 15), .move ⟨false, 0⟩ (.imm 0x7FE) (.port 15 3), .move ⟨false, 0⟩ .long (.port 14 0), .lit 0x1FFFFFFF,
    .lit 0, .move ⟨false, 1⟩ (.res 9 2) (.f 15), .empty] } : MoveWord).wf = true := by decide +kernel

theorem witness_DecodingIsStrict : decodeWord (oneMove 0x1002) = moveOf (.g 1) (.g 2) ∧
    (let w := wordFrom 0 ([0x1001, 0x3000001] ++ List.replicate 6 0x10000000);
      (views w)[0]? = some (.move ⟨false, 0⟩ (some (.g 1)) (some (.g 1))) ∧
      (views w)[1]? = some (.move ⟨false, 3⟩ (some (.g 0)) (some (.g 1))) ∧ ¬((0 : BitVec 4) = 3 ∧ false ≠ false)) := by decide +kernel

theorem witness_PortsNameOperations : opOf 1 3 0 = some (.intAdd .inta false) ∧ portOf .swapCtx = some (15, 8) := by decide +kernel

/-- A trap shadow with a way to go on. -/
def shadowOf (r : RetKind) : Shadow :=
  { bank := Bank.init, lock := 3, loop := LoopSt.init, xfer := [], pc := 9, word := 9, sc := 0, cyc := 0, same := false, stalled := false, stall := 0, idle := 0,
    parity := [], loopReq := none, halting := none, draining := false, cont := [], ret := r }

theorem witness_TrapEntry :
    (let s := startAt 1 5 3 0 0;
      noneLate s = true ∧ s.self.shadow = none) ∧
    (let s := with' (startAt 1 5 3 0 0) fun x => { x with shadow := some (shadowOf .decode) };
      noneLate s = true ∧ s.self.shadow ≠ none ∧ s.self.job = none) := by decide +kernel

theorem witness_WordsFaultAtDecode : let s := issueAt 0 0
    let x := ((s.trialled me).ctx me).applyLater
    (∃ f1, (s.trialled me).verdict me (move1 ⟨false, 0⟩ (.g 1) (.port 0 22)) none = .decode 0 .port f1 []) ∧
    (∃ f1, (s.trialled me).verdict me (move1 ⟨false, 0⟩ (.res 1 0) (.g 1)) none = .decode 0 .port f1 []) ∧ x.shadow = none :=
  ⟨⟨_, rfl⟩, ⟨_, rfl⟩, rfl⟩

theorem witness_ControlTransfers : ∀ i ∈ [Instr.ctlJump, .ctlJumpr, .ctlCall, .ctlCallr, .ctlRet], (transferForm i).isSome = true := by
  decide

/-- A state at the end of a word, with a loop and transfers. -/
def ending (l : LoopSt) (ds : List Transfer) (req : Option (Nat × Nat × Nat)) : State :=
  { State.reset.updCtx me fun x => { x with
      loop := l
      xfer := ds
      loopReq := req
      curWord := 20 } with
    agenda := [.wordEnd me] }
def transfer (left : Nat) (target : W64) : Transfer := { left := left, target := target, word := 18, slot := 0, port := 3, t := target }
def loopOf (stop left : Nat) : LoopSt := { start := 10, stop := stop, left := left, active := true }

/-- A transfer to no address of the store is due. -/
def dueBad : State := { (with' (running jobA) fun x => { x with xfer := [transfer 0 8192, transfer 2 7] }) with agenda := [.select 0] }

theorem witness_StreamOrder :
    (∀ l ∈ [LoopSt.init, loopOf 21 5, loopOf 20 5, loopOf 20 1], let s := ending l [transfer 3 7] none
      s.agenda = [.wordEnd me] ∧ (s.ctx me).later = [] ∧ (s.ctx me).halting = none ∧ (s.ctx me).loopReq = none ∧
        (s.ctx me).rfeReq = none ∧ (s.ctx me).cont = [] ∧ ∀ d ∈ (s.ctx me).xfer, 1 < d.left) ∧
    (let s := ending LoopSt.init [transfer 1 8192, transfer 2 0] none;
      (s.ctx me).xfer = [transfer 1 8192, transfer 2 0] ∧ (transfer 1 8192).left = 1 ∧ 8192 ≤ (transfer 1 8192).target.toNat) ∧
    (let s := dueBad;
      s.agenda = [.select 0] ∧ me ∈ whosOf 0 ∧ s.runs? me = true ∧ (∀ e ∈ whosOf 0, e ≠ me → s.runs? e = false) ∧
        let x := s.ctx me
        x.exit = none ∧ x.dbgHalt = false ∧ x.woken = false ∧ x.faults = [] ∧ x.stall = 0 ∧ x.idle = 0 ∧ x.block = [] ∧ x.cont = [] ∧
          x.shadow = none ∧ x.xfer.find? (fun e => e.left == 0) = some (transfer 0 8192)) ∧
    (let s := ending LoopSt.init [transfer 1 8191, transfer 2 0] none;
      (s.ctx me).xfer = [transfer 1 8191, transfer 2 0] ∧ (transfer 1 8191).left = 1 ∧ (∀ e ∈ [transfer 2 0], 1 < e.left) ∧
        (transfer 1 8191).target.toNat < 8192) ∧
    (∀ p ∈ [(1, 8190), (64, 8127)], let s := inWord (startAt 0 (BitVec.ofNat 512 (65536 * p.1 + 65535)) 0 0 0) p.2
      let n := (s.opT64.extractLsb' 16 7).toNat
      1 ≤ n ∧ n ≤ 64 ∧ s.opT64.extractLsb' 23 41 = 0 ∧ s.trig.word + n ≤ 8191) ∧
    (∀ t ∈ [0, 65 * 65536, 0x800000, 64 * 65536], let s := inWord (startAt 0 (BitVec.ofNat 512 t) 0 0 0) 8128
      let n := (s.opT64.extractLsb' 16 7).toNat
      (n = 0 ∨ 64 < n ∨ s.opT64.extractLsb' 23 41 ≠ 0 ∨ 8191 < s.trig.word + n) ∧ noneLate s = true ∧ s.self.shadow = none) ∧
    (∀ p ∈ [0, 1], let s := ending LoopSt.init [] (some (20, 3, p))
      s.agenda = [.wordEnd me] ∧ (s.ctx me).later = [] ∧ (s.ctx me).halting = none ∧ (s.ctx me).loopReq = some (20, 3, p) ∧
        (s.ctx me).xfer = []) := by decide +kernel

theorem witness_IssueControls :
    (let s := startAt 0 3 0 0 0;
      s.opT64.extractLsb' 2 62 = 0 ∧ s.opT64.extractLsb' 0 2 ≤ (s.jobFor s.trig.who).prio) ∧
    (let s := with' (startAt 0 0 0 0 0) fun x => { x with release := 0xFFFF };
      ∀ u, u < 16 → s.self.lock.getLsbD u = true → (s.opT64 ||| 0x7C01).getLsbD u = false → s.self.release.getLsbD u = true) ∧
    (∀ t ∈ [3, 4], let s := ofJob (startAt 0 (BitVec.ofNat 512 t) 0 0 0) { jobA with prio := 2 }
      noneLate s = true ∧ s.self.shadow = none ∧
        (s.opT64.extractLsb' 2 62 ≠ 0 ∨ (s.jobFor s.trig.who).prio < s.opT64.extractLsb' 0 2)) ∧
    (let s := startAt 0 0 0 0 0;
      s.self.lock.getLsbD 1 = true ∧ (s.opT64 ||| 0x7C01).getLsbD 1 = false ∧ s.self.release.getLsbD 1 = false) ∧
    rfeForm .rfeSkip = some 2 := by decide +kernel

theorem witness_Allotments :
    (let s := startAt 0 0 0 0 0;
      s.opT64 = 0) ∧
    (∀ p ∈ [(false, 8), (true, 32)], let s := startAt 0 (BitVec.ofNat 512 p.2) 0 0 0
      s.opT64 ≠ 0 ∧ (allotTo p.1 false (if p.1 then s.self.vcountNow else s.self.gcountNow)
          (freeOf s 0 p.1) s.opT64.toInt).isSome = true ∧
        allotTo p.1 true (if p.1 then s.self.vcountNow else s.self.gcountNow)
          (freeOf s 0 p.1) s.opT64.toInt = none ∧ noneLate s = true ∧ s.self.shadow = none) := by decide +kernel

theorem witness_TrapsAndReturns :
    (let s := startAt 0 7 0 0 0;
      noneLate s = true ∧ s.self.shadow = none ∧ (s.jobFor s.trig.who).debug = false) ∧
    (let s := ofJob (startAt 0 7 0 0 0) { jobA with debug := true };
      (s.jobFor s.trig.who).debug = true) ∧
    (∀ r ∈ [RetKind.decode, .trigger Trig.init .push [], .target (transfer 1 8192)],
      let s := with' (startAt 0 2 0 0 0) fun x => { x with shadow := some (shadowOf r) }
      s.opT64.toNat < 3 ∧ s.self.shadow = some (shadowOf r) ∧ s.self.halting = none) := by decide +kernel

theorem witness_SystemReads :
    (∀ n ∈ [0, 0x25], (sysForm (startAt 15 (BitVec.ofNat 512 n) 0 0 0) .sysRd).isSome = true) ∧ (sysForm (startAt 15 10 0 0 0) .sysRdc).isSome = true ∧
    (sysForm (startAt 15 3 0 0 0) .sysFrec).isSome = true ∧
    (let s := startAt 15 0x26 0 0 0;
      sysForm s .sysRd = none ∧ noneLate s = true ∧ s.self.shadow = none) ∧
    sysForm (startAt 15 11 0 0 0) .sysRdc = none ∧ sysForm (startAt 15 4 0 0 0) .sysFrec = none ∧
    Job.bare.logical 575 = some (3, 11, 11) ∧
    stageHolds 3 11 11 0x7F0B0B = true ∧ stageHolds 3 11 11 0x3F0B0B = false := by decide +kernel

theorem witness_SystemWrites :
    (∀ n ∈ [0x10, 0x1B], let s := startAt 15 (BitVec.ofNat 512 n) 5 0 0
      s.self.later = [] ∧ (sysWritten s.opT64.toNat (s.opPort64 15 0)).isSome = true) ∧
    (let s := startAt 15 0 5 0 0;
      sysWritten s.opT64.toNat (s.opPort64 15 0) = none ∧ noneLate s = true ∧ s.self.shadow = none) ∧
    (let s := startAt 15 5 0 0 0;
      ¬(s.opT64.getLsbD 1 = true ∧ s.opT64.getLsbD 2 = true)) ∧
    (let s := startAt 15 6 0 0 0;
      s.opT64.getLsbD 1 = true ∧ s.opT64.getLsbD 2 = true) := by decide +kernel

/-- The pointer to an offset of tile 0 at logical (0, 0, 0). -/
def here (off : Nat) : W512 := BitVec.ofNat 512 (0xFF0000000000 + off)

/-- Nothing of a state's context is outstanding or blocks it. -/
theorem allPerformed_nil (s : State) (h : s.ops = []) (hb : s.self.block = []) : allPerformed s := by
  simp [allPerformed, acquiresNothing, h, hb]

theorem witness_LocalLoadsAndStack :
    (∀ off ∈ [0, 0xFFFC0], let s := startAt 5 (here off) 0 0 0;
      startsNow s 5 ∧ localCheck s me s.opT64 64 none true = none) ∧
    (let s := startAt 5 (here 0xFFFFF) 0 0 0;
      localCheck s me s.opT64 1 none true = none ∧ localCheck s me s.opT64 8 none true = some 6 ∧ s.self.shadow = none) ∧
    (let s := with' (startAt 5 9 0 0 0) fun x => { x with a := [(15, lo64 (here 0x100008))] };
      localCheck s me (lo64 (here 0x100000)) 8 (some s.self.slim) false = some 7) ∧
    (let s := with' (startAt 5 9 0 0 0) fun x => { x with a := [(15, lo64 (here 8))] };
      startsNow s 5 ∧ s.memOk ∧ localCheck s me (lo64 (here 0)) 8 (some s.self.slim) false = none ∧
        localCheck s me (s.self.readA 15) 8 none true = none ∧ localCheck s me (lo64 (here 0)) 8 (some 0xFF0000000001) false = some 5) ∧
    (let s := with' (startAt 5 9 0 0 0) fun x => { x with a := [(15, 9)] };
      localCheck s me (s.self.readA 15) 8 none true = some 0x18 ∧ s.self.shadow = none) := by
  unfold startsNow State.memOk; decide +kernel

theorem witness_LocalStoresAndAtomics : ∀ i ∈ [Instr.store .mema .d, .store .memb .d, .stS, .amoAdd false true, .redAdd],
    (storeForm i).isSome = true ∧ ∀ o3 ∈ [0, 256],
      ((atomicOut i 0).isSome = true → o3 = 0) → ∀ u ∈ [5, 6], let s := startAt u (here 0xFFFF8) 1 0 (BitVec.ofNat 512 o3);
      startsNow s u ∧ allPerformed s ∧ s.memOk ∧ ((atomicOut i 0).isSome = true → (s.opPort64 u 2).getLsbD 8 = false) ∧
        localCheck s me s.opT64 8 none false = none ∧ localCheck s me s.opT64 8 none true = none := by
  have ha (u n : Nat) : allPerformed (startAt u (here 0xFFFF8) 1 0 (BitVec.ofNat 512 n)) := allPerformed_nil _ rfl rfl
  simp only [ha, true_and]
  unfold startsNow State.memOk; decide +kernel

theorem witness_QueuedChecks :
    (∀ e ∈ [(Instr.ldq .d, 4, 0, 6), (.stS, 0x2000000000008, 0, 7), (.redAdd, 0xFFF000000000, 0, 0xB), (.amoSwap false, 2, 0, 6), (.ldF, 8, 0, 7),
        (.ldF, 0x2000000000000001, 0, 6), (.touch, 0x2000000000000, 0, 7), (.amoAdd false false, 64, 0x100, 7),
        (.amoAdd false false, 0xFF0000000000, 0x100, 0xB)],
      ∃ k u, queuedForm e.1 = some (u, k) ∧ k.suppresses = false ∧
        let s := startAt u (BitVec.ofNat 512 e.2.1) 0 0 (BitVec.ofNat 512 e.2.2.1);
        startsNow s u ∧ s.self.shadow = none ∧ queuedCheck s s.trig.who k s.opT64 (s.opPort64 u 1) (s.opPort64 u 2) = some e.2.2.2) := by
  intro e he
  simp only [List.mem_cons, List.not_mem_nil, or_false] at he
  rcases he with rfl | rfl | rfl | rfl | rfl | rfl | rfl | rfl | rfl <;> refine ⟨_, _, rfl, by decide, ?_⟩ <;> unfold startsNow <;> decide +kernel

theorem witness_QueuedFormsStart :
    (∀ k ∈ [MemKind.ldq .v true, .sts, .red .fadd, .amo .cas false true, .touch, .stp], let s := startAt 6 64 1 2 0;
      startsNow s 6 ∧ s.memFault s.trig.who true k s.opT64 (s.opPort64 6 1) (s.opPort64 6 2) = none ∧
        namesOwnTile s s.trig.who s.opT64 = false ∧ s.opT64.extractLsb' 40 8 ≠ 0xFF) ∧ (queuedForm .touch).isSome = true := by
  unfold startsNow; decide +kernel

theorem witness_PointerForms :
    (let s := with' (startAt 5 8 0 3 0) fun x => { x with
        a := [(3, lo64 (here 16))]
        wd := [(3, 0x1)] };
      s.self.wd.get 0 (s.opPort64 5 1).toNat ≠ 0 ∧ s.self.wd.get 0 2 = 0 ∧ (s.self.readA 2).extractLsb' 40 8 ≠ 0xFF) ∧
    (let s := startAt 5 (here 0xFFFFF) 0 0 0;
      startsNow s 5 ∧ s.opT64.extractLsb' 40 8 = 0xFF ∧
        s.memFault s.trig.who false .touch s.opT64 (s.opPort64 5 1) (s.opPort64 5 2) = none) ∧
    (∀ p ∈ [(1, 1, 1), (4, 12, 12)], 1 ≤ p.1 ∧ p.1 ≤ 4 ∧ 1 ≤ p.2.1 ∧ p.2.1 ≤ 12 ∧ 1 ≤ p.2.2 ∧ p.2.2 ≤ 12 ∧ (20 : W64) ≠ 0 ∧
      (lo64 (here 0xFFFFF)).extractLsb' 40 8 = 0xFF) := by
  unfold startsNow; decide +kernel

/-- An operation that stays outstanding. -/
def memOp (k : MemKind) (st : OpSt) : MemOp :=
  { id := 7, who := me, job := none, unit := 6, word := 5, slot := 2, kind := k, addr := 64, o1 := 1, o2 := 2, o3 := 0, st := st, locs := [],
    leaf := none, pas := [], res := Rec.zero, dbl := false, hold := none, tag := 0, status := none }

/-- A state with one such operation. -/
def withOp (s : State) (o : MemOp) : State := { s with
  ops := [o]
  fresh := 100 }

theorem witness_LocalLoadsHold :
    (let s := startAt 5 (here 0) 0 0 0;
      nothingHolds s ∧ startsNow s 5) ∧
    (let s := withOp (startAt 5 (here 0) 0 0 0) (memOp (.amo .add false true) .waiting);
      somethingHolds s ∧ startsNow s 5) ∧
    (let s := with' (startAt 5 (here 0) 0 0 0) fun x => { x with block := [.drain] };
      somethingHolds s ∧ startsNow s 5) := by
  have hn (s : State) (h : s.ops = []) (hb : s.self.block = []) : nothingHolds s := by
    simp [nothingHolds, acquiresNothing, h, hb]
  refine ⟨⟨hn _ rfl rfl, by unfold startsNow; decide⟩, ⟨?_, by unfold startsNow; decide⟩, ?_, by unfold startsNow; decide⟩
  · refine .inr ⟨rfl, memOp (.amo .add false true) .waiting, by simp [withOp], rfl, rfl, ?_, trivial⟩
    intro h; exact absurd h.1 (by decide)
  · refine .inl fun h => ?_
    obtain ⟨o, ho⟩ := h .drain (by decide)
    cases ho

theorem witness_FenceDrainOwn :
    (let s := startAt 6 5 0 0 0;
      startsNow s 6 ∧ s.opT64.toNat ≤ 5 ∧ s.fenced me s.self.job s.fresh 5 false = true ∧ s.drained me = true ∧ s.self.shadow = none) ∧
    (let s := withOp (startAt 6 0 0 0 0) (memOp .sts .waiting);
      startsNow s 6 ∧ s.fenced me s.self.job s.fresh 0 false = false ∧ s.drained me = false) ∧
    (let s := startAt 6 6 0 0 0;
      5 < s.opT64.toNat ∧ s.self.shadow = none) ∧
    (let s := startAt 6 1023 0 0 0;
      s.opT64.toNat < 1024 ∧ (s.opT64.extractLsb' 0 8).toNat < (s.jobFor me).swcnt ∧
        (s.jobFor me).swbase + (s.opT64.extractLsb' 0 8).toNat < 256) ∧
    1024 ≤ (startAt 6 1024 0 0 0).opT64.toNat ∧
    (let s := ofJob (startAt 6 16 0 0 0) jobA;
      s.opT64.toNat < 1024 ∧ (s.jobFor me).swcnt ≤ (s.opT64.extractLsb' 0 8).toNat) := by
  unfold startsNow; decide +kernel

theorem witness_VectorLaneForms : (laneForm (.vfms .vecb .ma)).isSome = true ∧ (startAt 7 5 0 0 0).opT64.toNat < 6 ∧
    6 ≤ (startAt 7 6 0 0 0).opT64.toNat ∧ ((startAt 7 0 0 1 0).opPort 7 1).getLsbD 0 = true ∧
    ((startAt 7 0 0 1 0).opPort 7 1).getLsbD 15 = false := by decide +kernel
theorem witness_VectorBitForms : (moveForm (.vslide .veca)).isSome = true ∧ (maskForm (.mfirst .vecb)).isSome = true := by decide
theorem witness_VectorReductionsAndFunctions : (redForm (.vredadd .veca)).isSome = true ∧ (funcForm (.vlog2 .vecb)).isSome = true ∧
    (unitLanes (startAt 7 0 0 0 0) .veca).2 = some .fp32 ∧
    (unitLanes (with' (startAt 7 0 0 0 0) fun x => { x with bank := { x.bank with lfB := 3 } }) .vecb).2 = none := by decide +kernel
theorem witness_NarrowingAndWidening : (packForm (.packE5m2 .ro)).isSome = true ∧ (unpackForm .unpackE4m3).isSome = true := by decide
theorem witness_StochasticRounding : srForm .srH = some .fp16 ∧ (∀ c ∈ [0x400, 0xC03], srAccepts (BitVec.ofNat 64 c) = true) ∧
    ∀ c ∈ [0x300, 0xD00, 0x404, 0x1400], srAccepts (BitVec.ofNat 64 c) = false := by decide
theorem witness_SqBlocks : (∀ c ∈ [0x0, 0x16, 0x3A], sqAccepts (BitVec.ofNat 64 c) = true) ∧
    (∀ c ∈ [0x3, 0xC, 0x10, 0x40], sqAccepts (BitVec.ofNat 64 c) = false) ∧ isNan32 0x7F800001 = true ∧ isNan32 0x7F800000 = false := by decide

/-- A trigger of mxu under the shape M 4, N 4, K 4, m0, with BF16 operands in tile 0. -/
def matAt (t o1 : W512) : State := with' (startAt 10 t o1 0 0) fun x => { x with bank := { x.bank with
  mxShape := 0x04040004
  mxA := 0x6000FF0000000000
  mxAs := 32
  mxB := 0x6000FF0000000100
  mxBs := 32 } }
def runOf (t : W512) (recurs : Bool) : Option Raised :=
  let b := (matAt t 0).self.bank
  runCheck (matAt t 0) me recurs (matAt t 0).opT64 b.mxShape b.mxA b.mxB b.mxAs b.mxBs
def resumeOf (t : W512) : Option Raised :=
  let b := (matAt t 0).self.bank
  resumeCheck (matAt t 0) me (matAt t 0).opT64 b.mxShape b.mxA b.mxB b.mxAs b.mxBs

/-- An operation of the matrix queue. -/
def mxOp (k : MxKind) (k0 : Nat) : MxOp :=
  { id := 7, who := me, job := none, word := 5, slot := 2, kind := k, acc := 0, t := 0, o1 := 0xFF0000000000, a := 0x6000FF0000000000, as := 32,
    b := 0x6000FF0000000100, bs := 32, shape := 0x04040004, prog := 0, const := 0, k0 := k0, i := 0, j := 0, z := false, verify := false,
    dbl := false }

/-- The state of tile 0's matrix unit. -/
def matrixOf (s : State) (q : List MxOp) (a : Sparse AccSt) (w : List MxWait) : State := s.updTile 0 fun t => { t with
  mxq := q
  accs := a
  mxw := w
  owner := [(0, 1)] }

theorem witness_MatrixForms :
    (∀ t ∈ [0, 0xFFFFFFFF], (BitVec.ofNat 64 t).extractLsb' 32 32 = 0) ∧ (BitVec.ofNat 64 0x100000000).extractLsb' 32 32 ≠ 0 ∧
    (∀ t ∈ [0x01010001, 0x740401000], shapeFits (BitVec.ofNat 64 t) = true) ∧ (∀ t ∈ [0, 0x41010001, 0x800404], shapeFits (BitVec.ofNat 64 t) = false) ∧
    progFits 0x70C02280 = true ∧ progFits 0xE000 = false ∧
    runOf 0 false = none ∧ runOf 0 true = none ∧ runOf 1 false = some (1, 0, 1) ∧ resumeOf 0x8000000003030000 = none ∧
    resumeOf 0x8000000004030000 = some (0x16, 10, 0x8000000004030000) ∧
    accCheck (matAt 7 0) .mclear = none ∧ accCheck (matAt 8 0) .mclear = some (1, 0, 8) ∧
    accCheck (matAt 0x3F00 (here 0xFC000)) .mfill = none ∧ accCheck (matAt 0x3F00 (here 0xFC100)) .mdrain = some (0x18, 0, lo64 (here 0xFC100)) ∧
    accCheck (matAt 0x33F07 0) .mrd = none ∧ accCheck (matAt 0x40000 0) .mrd = some (1, 0, 0x40000) ∧ accCheck (matAt 7 0) .msave = none ∧
    ((255 : W64).extractLsb' 8 56 = 0 ∧ (256 : W64).extractLsb' 8 56 ≠ 0) ∧
    (let s := matrixOf (matAt 0 0) [mxOp .mma 0] [(0, .busy 7 none)] [];
      (s.tile 0).acc 0 = .busy 7 none ∧ (s.tile 0).mxq.find? (fun x => x.id == 7) = some (mxOp .mma 0)) := by decide +kernel

/-- An mwait on m0, and an msave. -/
def mxWait (save : Bool) : MxWait := { id := 7, who := me, mask := 1, save := save, res := Rec.zero, drains := [] }

/-- An operand's region, byte by byte. -/
theorem arrayReads_iff (s : State) (o : MxOp) (p : W64) (d n : Nat) : arrayReads s o p d n ↔
    p.extractLsb' 40 8 = 0xFF ∧ (p.extractLsb' 0 20).toNat + d + n ≤ 4096 * (s.jobNo o.job).swcnt ∧
      (s.jobNo o.job).swbase + (s.jobNo o.job).swcnt ≤ 256 ∧ s.poison = [] ∧
      ∀ k, k < n → (s.tile o.who.tile).owner.get 0 ((s.jobNo o.job).swbase + ((p.extractLsb' 0 20).toNat + d + k) / 4096) = 1 := by
  constructor
  · rintro ⟨h1, h2, h3, h4, h5⟩
    exact ⟨h1, h2, h3, h4, fun k hk => h5 _ (by omega) (by omega)⟩
  · rintro ⟨h1, h2, h3, h4, h5⟩
    refine ⟨h1, h2, h3, h4, fun x hx hn => ?_⟩
    have := h5 (x - ((p.extractLsb' 0 20).toNat + d)) (by omega)
    rwa [show (p.extractLsb' 0 20).toNat + d + (x - ((p.extractLsb' 0 20).toNat + d)) = x by omega] at this

/-- The fault of a read of an operand, or none. -/
def errOf (r : Except (Flt × Nat × Nat) (List Nat)) : Option (Flt × Nat × Nat) :=
  match r with
  | .error e => some e
  | .ok _ => none

/-- Local operands, one in a swatch that the mxu does not own, and a streamed one in an address space without tables. -/
theorem witness_MatrixChunks :
    (∀ e ∈ [(0x6000FF0000000000, 0x6000FF0000000100, none, none), (0x6000FF0000001000, 0x6000FF0000000100, some (Flt.owner, 0, 0xFF0000001000), none),
        (0x6000FF0000000000, 0x6000FF0000001000, none, some (Flt.owner, 0, 0xFF0000001000)),
        (0x6000000000000000, 0x6000FF0000000100, some (Flt.transl, 0, 0), none)],
      ∀ k ∈ [MxKind.mma, .mresume false], let o : MxOp := { mxOp k 0 with
        a := BitVec.ofNat 64 e.1
        b := BitVec.ofNat 64 e.2.1
        verify := k != .mma }
      let s := matrixOf (matAt 0 0) [o] [(0, .busy 7 none)] []
      (s.tile 0).mxq.find? (fun x => x.id == 7) = some o ∧ s.mxFree 0 o = true ∧ (s.tile 0).mismatch o.acc = none ∧ o.who.tile = 0 ∧
        s.hlines = [] ∧ s.links = [] ∧ s.swIn = [] ∧ o.k0 < kIn o.shape ∧
        kIn o.shape ≤ 4096 ∧ nIn o.shape ≤ 64 ∧ mIn o.shape ≤ 64 ∧ o.i < mIn o.shape ∧ o.j < nIn o.shape ∧
        pairs false (fmtP o.a) (fmtP o.b) = true ∧ sqFmt (fmtP o.a) = false ∧ o.k0 % kcOf o.a = 0 ∧
        (s.ctx o.who).exit = none ∧ (s.ctx o.who).job = o.job ∧
        let ra := operandBytes (chunkStart s 0 o) o o.a 0 8
        errOf ra.2 = e.2.2.1 ∧ (e.2.2.1 = none → errOf (operandBytes ra.1 o o.b 0 8).2 = e.2.2.2)) := by
  decide +kernel

/-- An accumulator whose checksums are wrong at row 1 and column 2, and at two rows. -/
def spoilt (k : MxKind) (rows : Sparse W32) (p : Option MxOp) : State :=
  (matrixOf (matAt 0 0) [{ mxOp k 0 with verify := true }] [(0, .busy 7 p)] []).updTile 0 fun t => { t with
    csum := rows
    rsum := [(2, 1)] }

theorem witness_MatrixChunks_checksums :
    (∀ k ∈ [MxKind.mresume true, .mdrain 0], ∀ p ∈ [none, some (mxOp .mma 0)], let s := spoilt k [(1, 1)] p
      let o : MxOp := { mxOp k 0 with verify := true }
      (s.tile 0).mxq.find? (fun x => x.id == 7) = some o ∧ s.mxFree 0 o = true ∧ (s.tile 0).mismatch 0 = some 0x102 ∧ o.k0 < kIn o.shape ∧
        (s.tile 0).acc 0 = .busy 7 p ∧ (s.tile 0).cells.Pairwise (fun a b => a.1 < b.1)) ∧
    (((spoilt .mma [(1, 1), (3, 5)] none).tile 0).mismatch 0 = some 0x8102) ∧
    ((matrixOf (matAt 0 0) [] [] []).tile 0).mismatch 0 = none := by decide +kernel

theorem witness_MatrixChunks_blocks :
    (let o := { mxOp .mmz 0 with
        a := 0xA000FF0000000000
        b := 0x9000FF0000000100
        shape := 0x04040010 };
      let s := matrixOf (matAt 0 0) [o] [(0, .busy 7 none)] [];
      s.mxFree 0 o = true ∧ pairs false (fmtP o.a) (fmtP o.b) = true ∧ sqFmt (fmtP o.a) = true ∧ blkP o.a = blkP o.b ∧
        kIn o.shape % kcOf o.a = 0 ∧ arrayReads s o o.a 0 (blockSize o.a) ∧ arrayReads s o o.b 0 (blockSize o.b)) := by
  simp only [arrayReads_iff]; decide +kernel

theorem witness_MatrixChunks_operations :
    (∀ k ∈ [MxKind.mma, .mclear 5, .mfill 0, .mdrain 0, .mrd 63 3], let o := mxOp k 4;
      let s := matrixOf (matAt 0 0) [o] [(0, .busy 7 none)] [];
      (s.tile 0).mxq.find? (fun x => x.id == 7) = some o ∧ s.mxFree 0 o = true ∧ o.acc < 8 ∧ kIn o.shape ≤ o.k0 ∧
        arrayReads s o o.o1 0 256 ∧ (s.tile 0).mismatch 0 = none ∧ s.memOk) := by
  simp only [arrayReads_iff, State.memOk]; decide +kernel

theorem witness_MatrixChunks_waits :
    (∀ save : Bool, ∀ a ∈ [AccSt.idle, .stopped (mxOp .mma 0)], let s := matrixOf (matAt 0 0) [] [(0, a)] [mxWait save];
      (∀ o ∈ (s.tile 0).mxq, o.id ≠ 7) ∧ (s.tile 0).mxw.find? (fun x => x.id == 7) = some (mxWait save) ∧
        (∀ m, m < 8 → (mxWait save).mask.getLsbD m = true → (s.tile 0).accBusy m = false) ∧
        (∀ o ∈ (s.tile 0).mxq ++ (s.tile 0).mxLate, o.id ∉ (mxWait save).drains) ∧ (∀ c ∈ whosOf 0, (s.ctx c).faults = []) ∧
        (mxWait save).mask = (1 <<< 0 : BitVec 8) ∧ (s.tile 0).acc 0 = a) := by
  decide +kernel

/-- Yarns of lengths 16 and 32, of which y0 and y2 hold one lot. -/
def yarnAt (t : W512) : State := with' (startAt 11 t (here 0) (here 0x100) 0) fun x => { x with
  yarns := [(0, { Yarn.init with lin := { mask := 1, mix := 0, ep := 0 } }), (1, { Yarn.init with k := 5 }),
    (2, { Yarn.init with lin := { mask := 1, mix := 0, ep := 0 } })] }

/-- A full queue of records to come. -/
def full (key : Nat) (s : State) : State := with' s fun x => { x with
  bank := { x.bank with outst := (List.range 8).map fun n => { key := key, id := n, res := none } } }

theorem witness_YarnForms :
    opFits 0x337777 = true ∧ opFits 8 = false ∧ hasRoom (yarnAt 0) 11 = true ∧ hasRoom (full 11 (yarnAt 0)) 11 = false ∧
    (let s := yarnAt 0x103;
      (yarnForm s.opT64 .knit).isSome = true ∧ (s.self.yarn (yaOf s.opT64)).k ≠ (s.self.yarn (ybOf s.opT64)).k) ∧
    (let s := yarnAt 0x203;
      (s.self.yarn (yaOf s.opT64)).k = (s.self.yarn (ybOf s.opT64)).k ∧
        clashBits (s.self.yarn (yaOf s.opT64)).lin (s.self.yarn (ybOf s.opT64)).lin ≠ 0) ∧
    (let s := yarnAt 0x303;
      (s.self.yarn (yaOf s.opT64)).k = (s.self.yarn (ybOf s.opT64)).k ∧
        clashBits (s.self.yarn (yaOf s.opT64)).lin (s.self.yarn (ybOf s.opT64)).lin = 0) ∧
    sdotCheck (startAt 11 0 0xC000FF0000000000 0xC000FF0000000100 0) = none ∧
    sdotCheck (startAt 11 0 0 0 0) = some (0x16, 11, 0) := by decide +kernel

/-- An operation of the yarn engine, and an array of two yarns of length 16 without a lot at the start of tile 0. -/
def sxOp (k : SxKind) : SxOp := { id := 7, who := me, job := none, word := 5, slot := 2, t := 0, kind := k, dbl := false }
def sxState (k : SxKind) : State := { (yarnAt 0).updTile 0 fun t => { t with
    sxq := [sxOp k]
    owner := [(0, 2)] } with
  mem := [(5, 0x40), (8, 2), (64, 0x11), (65, 0x11)] }

theorem witness_YarnCompletions : ∀ k ∈ [SxKind.silent, .ready Rec.zero, .sdot (lo64 (here 0)) (lo64 (here 0))], let s := sxState k;
    let l : Lineage := { mask := 0, mix := 0, ep := 0 };
    (s.tile 0).sxq = [sxOp k] ∧ arrayFits s me (lo64 (here 0)) 4 2 l ∧ clashBits l l = 0 := by
  unfold arrayFits; decide +kernel

/-! Copies and messages. -/

/-- A reel of four slots, and a copy of two rows of 64 bytes from DRAM to tile 0. -/
def reelOf (pushed released : Nat) : Reel := { Reel.init with
  size := 4
  pushed := BitVec.ofNat 16 pushed
  released := BitVec.ofNat 16 released }
def copyAt (t : W512) (r : Reel) : State :=
  (startAt 12 t 0x1000 (here 0x2000) (BitVec.ofNat 512 (64 * 2 ^ 4 + 2 * 2 ^ 24 + 64 * 2 ^ 40))).updTile 0 fun y => { y with reels := [(0, r)] }

theorem witness_CopyForms :
    (copyCheck (copyAt 0 (reelOf 3 0)) = none ∧ canAccept ((copyAt 0 (reelOf 3 0)).tile 0) 0 = true) ∧
    (copyCheck (copyAt 0 (reelOf 4 0)) = none ∧ canAccept ((copyAt 0 (reelOf 4 0)).tile 0) 0 = false) ∧
    copyCheck (copyAt 16 (reelOf 0 0)) = some (1, 0, 64 * 2 ^ 4 + 2 * 2 ^ 24 + 64 * 2 ^ 40) ∧ copyCheck (copyAt 1 (reelOf 0 0)) = some (0x16, 16, 1) ∧
    hasRoom (copyAt 0 (reelOf 0 0)) 12 = true ∧
    (∀ t ∈ [0x100, 0x400F], (BitVec.ofNat 64 t).extractLsb' 4 4 = 0 ∧ (BitVec.ofNat 64 t).extractLsb' 15 49 = 0 ∧
      (BitVec.ofNat 64 t).extractLsb' 8 7 ≠ 0 ∧ ((BitVec.ofNat 64 t).extractLsb' 8 7).toNat ≤ 64) ∧
    (∀ t ∈ [0x0, 0x4100], (BitVec.ofNat 64 t).extractLsb' 8 7 = 0 ∨ 64 < ((BitVec.ofNat 64 t).extractLsb' 8 7).toNat) ∧
    (let r := reelOf 1 0;
      r.awaited ≠ r.pushed ∧ r.filled = r.awaited ∧ r.claims = []) ∧
    (let r := { reelOf 1 0 with filled := 1 };
      r.awaited ≠ r.pushed ∧ r.filled ≠ r.awaited ∧ r.claims = []) ∧
    (let r := { reelOf 1 0 with awaited := 1 };
      r.size ≠ 0 ∧ r.released ≠ r.awaited - BitVec.ofNat 16 r.claims.length) := by decide +kernel

/-- A copy of 16 bytes from one place of tile 0 to another. -/
def copyReq (st : CpSt) : CopyReq :=
  { id := 7, rank := 7, who := me, job := some 0, word := 5, slot := 2, src := lo64 (here 0), dst := lo64 (here 0x100), shape := 16 * 2 ^ 4 + 2 ^ 24 + 16 * 2 ^ 40,
    t := 0, reel := 0, k := 0, place := 0, st := st, refused := 0, age := 5, dbl := false }
def copying (o : CopyReq) : State := (ofJob (copyAt 0 (reelOf 1 0)) { jobA with cto := 5 }).updTile 0 fun y => { y with
  cpq := [o]
  owner := [(0, 3)] }

theorem witness_CopyEvents :
    (∀ st ∈ [CpSt.offered, .backoff 0, .engine 15, .done 16 0], let o := copyReq st;
      let s := copying o;
      s.copyReq? 7 = some (0, o) ∧ o ∈ (s.tile 0).cpq ∧ (s.tile 0).cpq.find? (fun x => x.reel == o.reel && x.k == o.k) = some o ∧
        o.k = ((s.tile 0).reel o.reel).filled) ∧
    (let o := copyReq (.stopping .engine 20 (lo64 (here 0)));
      let s := copying o;
      s.copyReq? 7 = some (0, o) ∧ o ∈ (s.tile 0).cpq ∧ s.copyWaits o = false ∧ s.copyGathering o = [] ∧ s.takesFaults me o.job = true) ∧
    (let o := copyReq (.engine 15);
      let s := { copying o with swIn := [(0, 4)] };
      s.copyReq? 7 = some (0, o) ∧ o ∈ (s.tile 0).cpq ∧ s.copyWaits o = true) ∧
    (let o := copyReq (.engine 15);
      let s := copying o;
      let a := s.copySide o false;
      let b := a.s.copySide o true;
      s.copyWaits o = false ∧ s.copyGathering o = [] ∧ a.bad = [] ∧ b.bad = [] ∧ b.s.trail = [] ∧ b.locs.Nodup ∧ (∀ l ∈ b.locs, l ∉ a.locs) ∧ b.locs.length = 16 ∧
        (s.jobNo o.job).cto ≠ 0 ∧ (s.jobNo o.job).cto ≤ o.age ∧ s.takesFaults me o.job = true) := by decide +kernel

/-- A message on its way to queue 1 of tile 1. -/
def msgOf (rls : Bool) (st : MsgSt) : Msg :=
  { id := 7, who := me, job := some 0, word := 5, slot := 2, t := 0x11, value := 9, header := 0, tile := some 1, q := 1, rls := rls, st := st,
    dbl := false }
def sending (m : Msg) (q : RQueue) : State :=
  { (ofJob (startAt 13 0 0 0 0) jobA).updTile 1 fun y => { y with rqs := [(1, q)] } with msgs := [m] }

theorem witness_NetForms :
    (let s := ofJob (startAt 13 0x11 9 0 0) jobA;
      s.trig.late = false ∧ noneLate s = true ∧ (s.jobFor me).member < 256 ∧ (s.jobFor me).rects.length ≤ 4 ∧ sendCheck s = none ∧
        hasRoom s 13 = true ∧ s.msgs = [] ∧ namesAbroad (s.jobFor me) s.opT64 = false) ∧
    sendCheck (ofJob (startAt 13 0x20 9 0 0) jobA) = some (0xB, 0, 0x20) ∧ sendCheck (ofJob (startAt 13 4 9 0 0) jobA) = some (1, 0, 4) ∧
    (sendCheck (ofJob (startAt 13 0x1010000 9 0 0) { jobA with
      group := 5
      gsize := 2 }) = none) ∧
    (∀ t ∈ [0x0, 0x1FF], (BitVec.ofNat 64 t).extractLsb' 9 55 = 0) ∧ (0x200 : W64).extractLsb' 9 55 ≠ 0 ∧
    (∀ t ∈ [0x0, 0x333], (BitVec.ofNat 64 t).extractLsb' 2 2 = 0 ∧ (BitVec.ofNat 64 t).extractLsb' 6 2 = 0 ∧
      (BitVec.ofNat 64 t).extractLsb' 10 54 = 0) ∧ (0x4 : W64).extractLsb' 2 2 ≠ 0 ∧ hasRoom (full 13 (startAt 13 0 0 0 0)) 13 = false := by
  decide +kernel

/-- Both members of a ring of two tiles have joined with swatch 2. -/
def rotating : State :=
  let s := ofJob (startAt 13 2 0 0 0) jobA
  let e (u : Nat) : Nat × Trig × Nat := (0, { who := ⟨u, 0⟩, word := 5, slot := 2, t := 2, again := false, late := false }, 7 + u)
  ([0, 1].foldl (fun (s : State) u => (s.updTile u fun y => { y with
    rots := [e u]
    owner := [(2, 3)] }).updCtx ⟨u, 0⟩ fun x => { x with job := some 0 }) s)

theorem witness_MessagesAndRounds :
    (let s := sending (msgOf true .waiting) RQueue.init;
      s.msgs.find? (fun x => x.id == 7) = some (msgOf true .waiting) ∧ s.fenced me (some 0) 7 5 false = true ∧
        s.mayDepart (msgOf true .waiting) = true ∧ (∀ x ∈ s.msgs, x.st = .waiting → x.rls = true) ∧ s.downOn (s.msgLinks (msgOf true .waiting)) = none) ∧
    (∀ q ∈ [RQueue.init, { RQueue.init with entries := List.replicate 15 (0, 0) }, { RQueue.init with entries := List.replicate 16 (0, 0) },
        { RQueue.init with opened := false }], let m := msgOf false .moving;
      let s := sending m q;
      s.msgs.find? (fun x => x.id == 7) = some m ∧ m.st ≠ .waiting ∧ s.msgFirst m = true ∧ (s.jobNo m.job).sendsHere m.t = true ∧
        s.heldOn (s.msgLinks m) = false ∧ s.downOn (s.msgLinks m) = none ∧ s.takesFaults m.who m.job = true ∧ (s.tile 1).rq 1 = q) ∧
    ({ jobA with member := 1 }).sendsHere 0x1000000 = false ∧
    (let m := { msgOf true .waiting with t := 0x1010011 };
      let s := { sending m RQueue.init with msgs := [{ m with id := 5 }, m] };
      s.msgs.find? (fun x => x.id == 7) = some m ∧ s.fenced m.who m.job 7 5 m.dbl = true ∧ s.mayDepart m = false) ∧
    (jobA.ring 0 = [0, 1] ∧ rotating.job? jobA.id = some jobA ∧ rotating.heldOn (ringLinks [0, 1]) = false ∧
      rotating.downOn (ringLinks [0, 1]) = none ∧ (∀ u ∈ [0, 1], u < 576 ∧ ((rotating.tile u).rotOf 0).map (fun e => (e.2.1.who.tile, lo64 e.2.1.t)) = some (u, 2)) ∧ ((rotating.tile 0).rotOf 0).isSome = true ∧ ((rotating.tile 1).rotOf 0).isSome = true ∧
      (∀ u ∈ [0, 1], (rotating.tile u).owner.get 0 ((jobA.swbase + 2) % 256) = 3 ∧ (rotating.tile u).cmps = [] ∧ (rotating.tile u).wpops = []) ∧
      rotating.poison = [] ∧ rotating.jobFor me = jobA) := by decide +kernel

/-- Rounds that fail: words that differ, a link of the ring that is down, a swatch that net does not own, a poisoned doubleword. -/
theorem witness_MessagesAndRounds_failed :
    (let s := rotating.updTile 1 fun y => { y with rots := y.rots.map fun e => (e.1, { e.2.1 with t := 3 }, e.2.2) };
      s.job? jobA.id = some jobA ∧ s.heldOn (ringLinks [0, 1]) = false ∧
        (∀ u ∈ [0, 1], ((s.tile u).rotOf 0).map (fun e => (e.2.1.who.tile, lo64 e.2.1.t)) = some (u, BitVec.ofNat 64 (u + 2)))) ∧
    (let s := { rotating with links := [(meshLink 0 1, .down)] };
      s.heldOn (ringLinks [0, 1]) = false ∧ s.downOn (ringLinks [0, 1]) = some (meshLink 0 1)) ∧
    (let s := rotating.updTile 1 fun y => { y with owner := [] };
      (s.tile 1).owner.get 0 ((jobA.swbase + 2) % 256) ≠ 3) ∧
    (let s := { rotating with poison := [(2 ^ 20 + 8192) / 8] };
      (swatchLoc jobA 1 2 + 0) / 8 ∈ s.poison) ∧ ∀ u ∈ [0, 1], (rotating.ctx ⟨u, 0⟩).exit = none := by decide +kernel

/-! Events and phases. -/

/-- A trigger of evt in a job that holds line 3 of its cluster, of a mode. -/
def lineOf (mode : BitVec 2) : Line := { Line.init with
  mode := mode
  count := 2
  job := some 0 }
def eventAt (t : W512) (l : Line) : State := { ofJob (startAt 14 t (here 0) 64 0) jobA with lines := [(3, l)] }

theorem witness_EventForms :
    (let s := eventAt 3 (lineOf 1);
      s.trig.late = false ∧ noneLate s = true ∧ lineCheck s [1] = none ∧ hasRoom s 14 = true ∧ modeSeen s 3 = 1 ∧ (s.line 3).arr = 0 ∧
        (s.line 3).waiters = [] ∧ lineCheck s [2] = some (0x16, 3, 3) ∧ s.self.mutex.contains 3 = false) ∧
    (lineCheck (eventAt 3 (lineOf 2)) [2] = none ∧ lineCheck (eventAt 3 (lineOf 3)) [3] = none ∧ lineCheck (eventAt 32 (lineOf 3)) [3] = some (1, 0, 32)) ∧
    (with' (eventAt 3 (lineOf 2)) fun x => { x with mutex := [3] }).self.mutex.contains 3 = true ∧
    hasRoom (full 14 (eventAt 0 Line.init)) 14 = false ∧
    watchCheck (eventAt 0xFF07 Line.init) = none ∧ watchCheck (eventAt 8 Line.init) = some (1, 0, 8) ∧
    ((7 : W64).extractLsb' 3 61 = 0 ∧ (8 : W64).extractLsb' 3 61 ≠ 0) ∧
    (let s := (eventAt 0 Line.init).updTile 0 fun y => { y with wakeq := [0x700005] };
      (s.tile 0).wpops = [] ∧ (s.tile 0).wakeq.find? (fun q => !(s.jobFor me).cmpx.getLsbD (q.extractLsb' 20 3).toNat) = some 0x700005 ∧
        s.self.block = [] ∧ (s.tile 0).cmps = []) ∧
    (∀ q ∈ [none, some 0, some 5], (with' (eventAt 0 Line.init) fun x => { x with ptry := q.map (BitVec.ofNat 32) }).self.ptry = q.map (BitVec.ofNat 32)) ∧
    ((eventAt 0 Line.init).jobFor me).phase = 0 := by decide +kernel

/-- A request of context 0 of tile 0 at line 3. -/
def reqOf (k : EvKind) : EvReq := { id := 7, who := me, job := some 0, line := 3, kind := k, rid := 9, word := 5, slot := 2, t := 3, dbl := false }
def asked (k : EvKind) (l : Line) : State := { eventAt 0 l with evreqs := [reqOf k] }

theorem witness_LineEvents :
    (∀ k ∈ [EvKind.arrive, .wait, .lock, .unlock, .set, .clear], ∀ l ∈ [lineOf 1, lineOf 2, lineOf 3, { lineOf 3 with flag := true },
        { lineOf 1 with rel := 1 }, { lineOf 1 with pend := 1 }, { lineOf 2 with
          owner := some me
          waiters := [(⟨1, 0⟩, 8)] }], let s := asked k l;
      s.evreqs.find? (fun x => x.id == 7) = some (reqOf k) ∧ s.canReach (reqOf k) = true ∧ s.downOn (reqOf k).links = none ∧
        (s.line 3).job = (reqOf k).job ∧
        ((s.line 3).waiters.map fun w => evIndex w.1).Nodup ∧ ∀ w ∈ (s.line 3).waiters, evIndex w.1 ≠ evIndex me) ∧
    evIndex me = 0 ∧
    (∀ rel : Bool, let m : LineMsg := { id := 7, lower := 3, upper := 2304, release := rel };
      let s := { asked .arrive (lineOf 1) with
        lines := [(3, lineOf 1), (2304, lineOf 1)]
        lmsgs := [m] };
      s.lmsgs.find? (fun x => x.id == 7) = some m ∧ (s.line 3).job ≠ none ∧ (s.line 3).job = (s.line 2304).job ∧
        ((s.line (if rel then 3 else 2304)).waiters.map fun w => evIndex w.1).Nodup) := by decide +kernel

/-- A job of one strand, arrived in phase 0 with one staged store. -/
def jobB : Job := { jobA with rects := [{ pdie := 0, oy := 0, ox := 0, h := 1, w := 1, ctx := 1, gc := 64, vc := 192, cprio := 0 }] }
def stagedOne : Staged := { loc := 64, value := 5, job := 0, phase := 0, home := 0, leaf := none }
def arrivedIn (j : Job) : State := { with' (running j) fun x => { x with
    arrived := some 0
    block := [.phase 9 0] } with
  staged := [stagedOne]
  journal := [{ queue := 0, seq := 0, kind := 1, st := 1, time := 0, reason := 0, w3 := 0 }] }

theorem witness_PhaseEvents :
    (let s := with' (running jobB) fun x => { x with arriving := some (0, 50) };
      (s.ctx me).arriving = some (0, 50) ∧ ∀ o ∈ s.ops, o.who = me → 50 ≤ o.id) ∧
    (∀ touched : Bool, let j := { jobB with touched := touched };
      let s := arrivedIn j;
      s.job? 0 = some j ∧ s.canAdvance j = true ∧ j.due = [] ∧ s.hlines = [] ∧ s.memOk ∧
        (∀ g ∈ s.staged, g.job = j.id → g.phase = j.phase → g.leaf = none) ∧ (stagedOne.job = j.id ∧ stagedOne.phase = j.phase) ∧
        me ∈ j.whos ∧ (s.ctx me).block = [.phase 9 0]) ∧
    (∀ u, ((arrivedIn jobB).tile u).cmps = [] ∧ ((arrivedIn jobB).tile u).wpops = []) ∧
    (let j := { jobB with
        wdog := 2
        dog := 131072 };
      let s := arrivedIn j;
      s.job? 0 = some j ∧ j.st = .running ∧ j.wdog ≠ 0 ∧ 65536 * j.wdog ≤ j.dog ∧ (s.ctx me).job = some 0 ∧
        ∀ e ∈ s.journal, e.queue = j.queue ∧ e.seq = j.pseq ∧ e.st = 1) ∧
    (let j := { jobB with
        group := 5
        member := 0
        gsize := 2 };
      (running j).job? 0 = some j ∧ j.group ≠ 0 ∧ j.st = .running ∧ j.member ≠ 1 ∧ 1 < j.gsize) := by
  refine ⟨by decide +kernel, by unfold State.memOk; decide +kernel, ?_, by decide +kernel, by decide +kernel⟩
  intro u
  by_cases h : u = 0
  · subst h; decide +kernel
  · have : (arrivedIn jobB).tile u = Tile.init := by
      have e : (arrivedIn jobB).tiles = [(0, (arrivedIn jobB).tile 0)] := by decide +kernel
      rw [State.tile, e, Sparse.get, Sparse.get?, if_neg h]
      rfl
    rw [this]; decide +kernel

/-! Translation, accesses, gathering and atomics. -/

/-- Page tables at 0x2000, 0x4000 and 0x6000 for VA 0x0040_8012_3440, with a leaf entry. -/
def tablesWith (leaf : Nat) : List Host.Cell :=
  [(0x2000, 0x4001), (0x4000 + 8 * 0x204, 0x6001), (0x6010, leaf)].foldl (fun m p => Memory.writeLe m (paLoc p.1) 8 p.2) []
def paged (s : State) (leaf : Nat) : State := { s with
  roots := [(0, 0x2000)]
  mem := tablesWith leaf }

/-- (Memory rules, a worked translation) The load of 0x0040_8012_3440 finds PA 0x91A2_3440, and the walk leaves A in the leaf entry. -/
theorem test_translation : let r := (paged State.reset 0x91A00007).translate 0 0 0x4080123440 .read false false;
    r.2 = .ok (placeLoc 0 0 0 0x91A23440) (paLoc 0x6010) 0x91A23440 ∧ r.1.entry (paLoc 0x6010) = 0x91A00047 := by decide +kernel

theorem witness_Translation :
    State.reset.roots.get? 0 = none ∧
    (∀ leaf ∈ [0x91A00007, 0x91A00000, 0x91A00005, 0x91A00017], let s := paged State.reset leaf;
      let e0 := s.entry (paLoc 0x2000);
      let e1 := s.entry (paLoc (0x4000 + 8 * 0x204));
      s.roots.get? 0 = some 0x2000 ∧ tableOk e0 = true ∧ nextTable e0 = 0x4000 ∧ (e1.getLsbD 0 && e1.getLsbD 3) = false ∧ tableOk e1 = true ∧
        s.memOk) ∧
    (let s := { State.reset with roots := [(0, 0x2000)] };
      tableOk (s.entry (paLoc 0x2000)) = false) ∧
    (let s := { State.reset with
        roots := [(0, 0x2000)]
        mem := Memory.writeLe (Memory.writeLe [] (paLoc 0x2000) 8 0x4001) (paLoc 0x4000) 8 0x20000009 };
      let e1 := s.entry (paLoc 0x4000);
      (e1.getLsbD 0 && e1.getLsbD 3) = true ∧ leafOk e1 1 = true) ∧
    (∀ place ∈ [0, 1, 2], (placeOf place 3 2 (0xBFFFFFFFFF / 4096)).2 < 2 ^ 24 ∨ place ≠ 0) ∧
      (placeOf 2 3 2 (0xFFFFFFFFF / 4096)).2 < 2 ^ 24 := by
  unfold State.memOk; decide +kernel

/-- An operation of the job of tile 0, at an address. -/
def opAt (k : MemKind) (st : OpSt) (a : Nat) : MemOp := { memOp k st with
  job := some 0
  addr := BitVec.ofNat 64 a }
def accessing (o : MemOp) (leaf : Nat) : State := withOp (paged (ofJob (startAt 6 0 0 0 0) jobA) leaf) o
def there (off : Nat) : Nat := 0xFF0040000000 + off

theorem witness_AccessesArrive :
    (∀ k ∈ [MemKind.ldq .d false, .ldq .d true, .sts, .stp, .amo .add false false], ∀ leaf ∈ [0x91A00007, 0x91A00017, 0x91A00000],
      let o := opAt k .waiting 0x4080123440;
      let s := { accessing o leaf with misses := (accessing o leaf).missed o false };
      s.op? 7 = some o ∧ s.canTranslate o = true ∧ (s.missed o false).all s.walking = true ∧ s.takesFaults me (some 0) = true ∧
        ((s.translateOp o false).bad = none ↔ leaf ≠ 0x91A00000) ∧ ((s.translateOp o false).cow = none ↔ leaf ≠ 0x91A00017 ∨ k.acc = .read)) ∧
    (let o := opAt .sts .cow 0x4080123440;
      let s := { accessing o 0x91A00017 with pool := [0x100000] };
      s.op? 7 = some o ∧ s.memOk ∧ (match s.walkTables 0 0x4080123440 false 0 with
        | .ok f => f.level == 2 && f.ent.getLsbD 4
        | .error _ => false) = true ∧ (0x100000 : Nat) < 2 ^ 52 ∧ 0x100000 % 2 ^ 19 = 0 ∧ (accessing o 0x91A00017).pool = []) ∧
    (∀ k ∈ [MemKind.ldq .d false, .sts, .red .add], let o := { opAt k .translated 0x4080123440 with locs := (List.range 8).map (2 ^ 40 + ·) };
      let s := accessing o 0x91A00007;
      s.op? 7 = some o ∧ o.inTiles = false ∧ mayReach s o ∧ wayClear s o o.locs) ∧
    (∀ k ∈ [MemKind.ldq .d false, .sts, .red .add, .stp], let o := opAt k .waiting (there 64);
      let s := accessing o 0;
      let locs := (o.kind.vas o.addr).map (s.jobNo o.job).tileLoc;
      s.opLocal o = false ∧ o.inTiles = true ∧ mayReach s o ∧ wayClear s o locs ∧ locs = (List.range 8).map (2 ^ 20 + 64 + ·) ∧ s.memOk) ∧
    (let o := opAt .sts .cow 0x4080123440;
      let s := accessing o 0x91A00007;
      s.op? 7 = some o ∧ (match s.walkTables 0 0x4080123440 false 0 with
        | .ok f => !f.ent.getLsbD 4
        | .error _ => false) = true) ∧
    (∀ k ∈ [MemKind.ldq .d false, .sts, .amo .add false false, .stp], let o := opAt k .waiting 0xFF0000000040;
      let s := accessing o 0;
      s.opLocal o = true ∧ s.mayGo o = true ∧ wayClear s o ((o.kind.vas o.addr).map (s.jobNo o.job).tileLoc)) ∧
    (let o := opAt .stp .waiting (there 64);
      let s := { accessing o 0 with staged := [{ stagedOne with loc := 2 ^ 20 + 64 }] };
      (∃ g ∈ s.staged, g.loc = 2 ^ 20 + 64 ∧ g.job = 0 ∧ g.phase = (s.jobNo (some 0)).phase) ∧
      (∀ g ∈ (accessing o 0).staged, ¬(g.loc = 2 ^ 20 + 64)) ∧
        ((accessing o 0).staged.filter fun g => g.home == 1).length < 256) := by
  unfold wayClear mayReach State.memOk; decide +kernel

/-- A page under placement 2, to be copied to one that stands apart from it. -/
theorem witness_AccessesArrive_page : let s := accessing (opAt .sts .cow 0x4080123440) 0x91A00117;
    (match s.walkTables 0 0x4080123440 false 0 with
      | .ok f => f.level == 2 && f.ent == 0x91A00117 && f.loc == paLoc 0x6010
      | .error _ => false) = true ∧ ∀ f : Leaf, f.ent = 0x91A00117 → f.loc = paLoc 0x6010 → standsApart f 0x100000 := by
  refine ⟨by decide +kernel, fun f he hl b c hb hc => ?_⟩
  have h (x : Nat) : pageByte 0x91A00117 x b = 2 ^ 40 + (x + b) ∧ pageByte 0x91A00117 x c = 2 ^ 40 + (x + c) := by
    constructor <;> simp [pageByte, placeLoc, placeOf, stackLoc] <;> omega
  rw [he, hl, (h _).1, (h _).2, (h _).2, show paLoc 0x6010 = 2 ^ 40 + 10 * 2 ^ 36 + 0x10 by decide,
    show ((0x91A00117 : W64).extractLsb' 19 33).toNat * 2 ^ 19 = 0x91A00000 by decide]
  omega

/-- A miss that is not in its table yet; a reduction beside lines of its own and of another operation. -/
theorem witness_AccessesArrive_misses : let o := opAt (.ldq .d false) .waiting 0x4080123440;
    let s := accessing o 0x91A00007;
    (s.canTranslate o = true ∧ s.missed o false = [{ die := 0, asid := 0, level := 2, page := 0x4080123440 / 2 ^ 19 }] ∧ s.misses = [] ∧
      (s.missTable 0).length < 256) ∧
    ((List.replicate 256 ({ die := 0, asid := 9, level := 2, page := 1 } : Miss)).length = 256) := by decide +kernel
theorem witness_AccessesArrive_gathers :
    ∀ ls ∈ [[], [({ cluster := 0, line := (placeLoc 0 0 0 0x91A23440) / 64, op := .add, elems := [(0, 5)], contrib := 1, ops := [], stamp := 0, pa := 0 } : GLine)],
        [{ cluster := 0, line := (placeLoc 0 0 0 0x91A23440) / 64, op := .xor, elems := [(1, 5)], contrib := 1, ops := [], stamp := 0, pa := 0 }]],
      let o := opAt (.red .add) .waiting 0x4080123440;
      let s := { accessing o 0x91A00007 with
        misses := (accessing o 0x91A00007).missed o false
        glines := ls };
      s.op? 7 = some o ∧ s.canTranslate o = true ∧ (s.missed o false).all s.walking = true ∧ (s.translateOp o false).bad = none ∧
        (s.translateOp o false).cow = none ∧ queuedForm .redAdd = some (6, o.kind) ∧ (storeForm .redAdd).isSome = true ∧
        (s.translateOp o false).locs.headD 0 = placeLoc 0 0 0 0x91A23440 := by decide +kernel

/-- A home that holds 256 staged stores has no room for another. -/
theorem witness_AccessesArrive_full :
    let s := { accessing (opAt .stp .waiting (there 64)) 0 with staged := (List.range 256).map fun n => { stagedOne with
      loc := 2 ^ 20 + 4096 + 8 * n
      home := 1 } };
    (s.staged.filter fun g => g.home == 1).length = 256 ∧ ∀ g ∈ s.staged, g.loc ≠ 2 ^ 20 + 64 := by decide +kernel

/-- A fault after start. -/
def pendFault : PendFault :=
  { code := .transl, info := 2, f1 := 1, f2 := 2, word := 5, slot := 2, rank := 7, dbl := false, op := .mem (opAt .sts .faulted 64) }

theorem witness_AccessesComplete :
    (∀ st ∈ [none, some (Flt.amoApplied, 0)], let o := { opAt (.ldq .d false) .performed 64 with
        locs := [2 ^ 40]
        status := st.map fun p => (p.1, BitVec.ofNat 16 p.2) };
      let s := accessing o 0;
      s.op? 7 = some o ∧ o.st = .performed ∧ (∀ l ∈ o.backLinks, s.link l = .up) ∧ s.heldOn o.backLinks = false ∧
        s.takesFaults me (some 0) = true) ∧
    (let o := opAt (.fence 4) .waiting 0;
      (accessing o 0).op? 7 = some o ∧ (accessing o 0).fenced me (some 0) 7 4 false = true) ∧
    (∀ key ∈ [12, 10], let x := { Ctx.init with bank := { Bank.init with outst := [{ key := key, id := 7, res := none }, { key := key, id := 8, res := none }] } };
      x.shadow = none ∧ (∃ o ∈ x.bank.outst, o.key = key ∧ o.id = 7) ∧ (∀ q ∈ x.bank.outst, q.res = none) ∧
        x.bank.outst.filter (fun o => o.key == key) = x.bank.outst) ∧
    (let s := with' (running jobA) fun x => { x with block := [.drain] };
      .drain ∈ (s.ctx me).block ∧ s.drained me = true) ∧
    (let s := with' (running jobA) fun x => { x with faults := [pendFault] };
      (s.ctx me).shadow = none ∧ (s.ctx me).faults = [pendFault] ∧ (s.ctx me).exit = none ∧ (s.ctx me).dbgHalt = false ∧
        (s.ctx me).woken = false ∧ (s.ctx me).stall = 0 ∧ (s.ctx me).idle = 0 ∧ (s.ctx me).block = [] ∧ s.agenda = []) ∧
    (let o := { opAt (.ldq .d false) .performed (there 64) with locs := [2 ^ 20 + 64] };
      let s := { accessing o 0 with links := [(meshLink 1 0, .down)] };
      s.op? 7 = some o ∧ s.heldOn o.backLinks = false ∧ s.downOn o.backLinks = some (meshLink 1 0)) ∧
    (let s := { State.reset with pfFly := [(0, 2 ^ 32, true)] };
      (0, 2 ^ 32, true) ∈ s.pfFly ∧ (s.cache.get [] (cacheSet (2 ^ 32))).length < 16) ∧
    ∀ x ∈ [({ line := 2 ^ 32 - 1, up := true, down := false } : Stream), { line := 2 ^ 32 + 1, up := false, down := true }],
      let s := { State.reset with
        prefetch := [0]
        streams := [(2 ^ 32 / 16, x)] };
      (0, 2 ^ 32, true) ∉ s.pfFly ∧ 0 ∈ s.prefetch ∧ homeDie (256 * 2 ^ 32) = 0 ∧ 2 ^ 40 ≤ 256 * 2 ^ 32 ∧
        2 ^ 32 ∉ s.cache.get [] (cacheSet (2 ^ 32)) ∧ s.streams.get? (2 ^ 32 / 16) = some x ∧ State.reset.streams.get? (2 ^ 32 / 16) = none := by
  decide +kernel

/-- A gather message of cluster 0 for the line of DRAM at the start of stack 0. -/
def gm (k : GKind) : GMsg := { id := 7, cluster := 0, line := 2 ^ 34, pa := 0, kind := k }
def gline : GLine := { cluster := 0, line := 2 ^ 34, op := .add, elems := [(1, 5)], contrib := 1, ops := [], stamp := 0, pa := 0 }

theorem witness_GatherEvents :
    (∀ k ∈ [GKind.join, .accept, .refuse, .recall, .flush .add [(1, 5), (3, 6)] []], ∀ hs ∈ [[], [(⟨2 ^ 34, 0, 1, [], [], []⟩ : HLine)], [⟨2 ^ 34, 0, 3, [.op 9], [], []⟩, ⟨5, 0, 1, [], [], []⟩],
        [⟨2 ^ 34, 0, 3, [.op 9], [0], []⟩], [⟨2 ^ 34, 0, 1, [], [0], [{ gm (.flush .add [] []) with id := 6, cluster := 0 }]⟩]],
      let s := { State.reset with
        gmsgs := [gm k]
        glines := [gline]
        hlines := hs
        ops := [{ opAt (.ldq .d false) .held 0x4080123440 with
          id := 9
          locs := (List.range 8).map (2 ^ 40 + ·) }] };
      gatherGoes s (gm k) ∧ (k = .join ∨ k = .flush .add [(1, 5), (3, 6)] [] → s.gfirst (gm k) = true) ∧ (gm k).cluster < 72 ∧ s.memOk ∧
        s.gline? 0 (2 ^ 34) = some gline ∧ 2 ^ 40 ≤ 64 * (gm k).line) ∧
    (let s := { State.reset with gmsgs := [gm .join] };
      s.holders (2 ^ 34) = 0 ∧ s.pinRoom (2 ^ 34) = true ∧ s.gline? 0 (2 ^ 34) = none) ∧
    (let s := { State.reset with hlines := (List.range 12).map fun n => ⟨2 ^ 34 + 65536 * (n + 1), 0, 1, [], [], []⟩ };
      s.holders (2 ^ 34) = 0 ∧ s.pinRoom (2 ^ 34) = false) ∧
    (([(1, 5), (3, 6)] : Sparse W64).map fun e => e.1).Nodup ∧ queuedForm .redAdd = some (6, .red .add) ∧
      (storeForm .redAdd).isSome = true := by
  unfold gatherGoes State.memOk; decide +kernel

/-- A remote atomic, and its request. -/
def amoAt (id : Nat) (st : OpSt) (a : Nat) : MemOp := { opAt (.amo .add false false) st a with
  id := id
  locs := if st = .moving then [2 ^ 20 + 64] else [] }
def areq (id : Nat) (at' : Option Nat) (path : List Nat) : AReq :=
  { id := id, tag := 0, operand := 3, at' := at', since := 0, window := 1, path := path, seen := at'.toList }
def travelling (ops : List MemOp) (rs : List AReq) : State := { accessing (amoAt 7 .waiting (there 64)) 0 with
  ops := ops
  areqs := rs }

/-- All links are up; and every peer port is down. -/
theorem links_up (s : State) (h : s.links = []) (ls : List Nat) : s.downOn ls = none ∧ linksUp s ls := by
  have u : ∀ l, s.link l = .up := fun l => by rw [State.link, h]; rfl
  exact ⟨by rw [State.downOn, h]; rfl, fun l _ => u l⟩
def portsDown (s : State) : State := { s with links := (List.range 16).map fun p => (8 + p, .down) }
theorem ports_down (s : State) (d grp member : Nat) : ((portsDown s).downOn (peerLinks d (memberPort grp member))).isSome = true := by
  have hp : memberPort grp member < 16 := Nat.mod_lt _ (by decide)
  have hd : ∀ p < 16, (portsDown s).link (8 + p) = .down := by
    have : ∀ p < 16, Sparse.get ((List.range 16).map fun p => (8 + p, LinkSt.down)) .up (8 + p) = .down := by decide
    exact this
  exact List.find?_isSome.mpr ⟨8 + memberPort grp member, by simp [peerLinks], by rw [hd _ hp]; rfl⟩

theorem witness_AtomicsTravel :
    (let o := amoAt 7 .waiting (there 64);
      let s := travelling [o] [];
      s.op? 7 = some o ∧ s.canDepart o = true ∧ s.areqs = [] ∧ s.swIn = [] ∧ o.kind.cross o.o3 = false) ∧
    (let o := { amoAt 7 .waiting (there 64) with o3 := 0x100 };
      let s := travelling [o] [];
      s.op? 7 = some o ∧ s.canDepart o = true ∧ o.kind.cross o.o3 = true ∧ o.o3.toNat % 256 = (s.jobNo o.job).member ∧
        (o.kind.vas o.addr).all (s.jobNo o.job).mapped = true) ∧
    (let o := { amoAt 7 .waiting 0xFF0080000040 with o3 := 0x100 };
      let s := travelling [o] [];
      s.op? 7 = some o ∧ s.canDepart o = true ∧ o.kind.cross o.o3 = true ∧ o.o3.toNat % 256 = (s.jobNo o.job).member ∧
        (o.kind.vas o.addr).all (s.jobNo o.job).mapped = false) ∧
    (∀ sw : Option Nat, sw = none ∨ sw = some 0 → let o := amoAt 7 .moving (there 64);
      let r := areq 7 sw [1, 2];
      let s := travelling [o] [r];
      s.op? 7 = some o ∧ mayHop s r o 1) ∧
    (let o := amoAt 7 .moving (there 64);
      let r := areq 7 (some 0) [1, 2];
      let s := { travelling [o] [r] with links := [(meshLink 0 1, .down)] };
      s.op? 7 = some o ∧ s.headOf r o = true ∧ s.portFree r.at' 1 = true ∧ linkBetween 0 1 = some (meshLink 0 1) ∧ s.link (meshLink 0 1) = .down) ∧
    (let q := amoAt 7 .moving (there 64);
      let o := amoAt 8 .moving (there 64);
      let s := travelling [q, o] [areq 7 (some 1) [2], areq 8 (some 0) [1, 2]];
      s.op? 7 = some q ∧ s.op? 8 = some o ∧ q.locs ≠ [] ∧ o.locs ≠ [] ∧ mayHop s (areq 8 (some 0) [1, 2]) o 1 ∧
        s.canCombine 1 (areq 7 (some 1) [2]) q o = true) ∧
    (AmoOp.add ∉ [AmoOp.cas, .fadd, .faddLoose]) ∧
    (let o := amoAt 7 .moving (there 64);
      let r := areq 7 (some 0) [1];
      let s := travelling [o] [r];
      s.areq? 7 = some r ∧ s.op? 7 = some o ∧ s.hlines = [] ∧ homeClear s o.locs ∧ s.memOk ∧ o.kind.cross o.o3 = false ∧ mayHop s r o 1) ∧
    (let s := (travelling [] []).updTile 1 fun y => { y with owner := [(0, 1)] };
      s.ownedAway [2 ^ 20 + 64] = true) ∧
    (let s := { travelling [] [] with poison := [(2 ^ 20 + 64) / 8] };
      s.ownedAway [2 ^ 20 + 64] = false ∧ s.poisonAt [2 ^ 20 + 64] = true) := by
  unfold homeClear mayHop linksUp State.memOk
  refine ⟨by decide +kernel, by decide +kernel, by decide +kernel, ?_, by decide +kernel⟩
  rintro sw (rfl | rfl) <;> decide +kernel

theorem up_or_down (m : Sparse LinkSt) (h : ∀ e ∈ m, e.2 = .down) (l : Nat) : m.get .up l = .up ∨ m.get .up l = .down := by
  induction m with
  | nil => exact .inl rfl
  | cons e m ih =>
    obtain ⟨k, v⟩ := e
    by_cases hk : l = k
    · right
      rw [Sparse.get, Sparse.get?, if_pos hk]
      exact h _ (List.mem_cons_self ..)
    · have := ih fun e he => h e (List.mem_cons_of_mem _ he)
      rwa [Sparse.get, Sparse.get?, if_neg hk]
theorem ports_held (s : State) (ls : List Nat) : (portsDown s).heldOn ls = false := by
  rw [State.heldOn, Bool.and_eq_false_iff, List.any_eq_false]
  right
  intro l _
  have hd : ∀ e ∈ (portsDown s).links, e.2 = .down := by
    intro e he
    obtain ⟨p, _, rfl⟩ := List.mem_map.mp he
    rfl
  rcases up_or_down (portsDown s).links hd l with h | h <;> rw [State.link, h] <;> decide

/-- A cross-package atomic to another member leaves by a port that is up, or down; its answer comes back. -/
theorem witness_AtomicsTravel_abroad : let o := { amoAt 7 .waiting (there 64) with o3 := 0x101 };
    let s := travelling [o] [];
    let d := portsDown s;
    (s.op? 7 = some o ∧ s.canDepart o = true ∧ o.kind.cross o.o3 = true ∧ o.o3.toNat % 256 ≠ (s.jobNo o.job).member) ∧
    s.downOn (s.abroadLinks o) = none ∧ (d.canDepart o = true ∧ (d.downOn (d.abroadLinks o)).isSome = true) ∧
    (let p := { o with st := .moving };
      (travelling [p] []).op? 7 = some p ∧ (travelling [p] []).opAbroad p = true ∧ linksUp (travelling [p] []) ((travelling [p] []).abroadLinks p)) := by
  refine ⟨⟨by decide +kernel, ?_, by decide +kernel⟩, (links_up _ rfl _).1, ⟨?_, ports_down _ _ _ _⟩, by decide +kernel, by decide +kernel, (links_up _ rfl _).2⟩
  · have h : ∀ ls, (travelling [{ amoAt 7 .waiting (there 64) with o3 := 0x101 }] []).heldOn ls = false := fun _ => rfl
    unfold State.canDepart
    rw [h]
    decide +kernel
  · unfold State.canDepart
    rw [ports_held]
    decide +kernel

/-- A replay filter that holds nothing, the sequence number itself, a later one only, or one far ahead. -/
theorem witness_AtomicsTravel_filters :
    ∀ fs ∈ [[], [({ source := .peer 0 0 me, home := 1, seq := 0, value := 5 } : Applied)], [{ source := .peer 0 0 me, home := 1, seq := 1, value := 5 }],
        [{ source := .peer 0 0 me, home := 1, seq := 33, value := 5 }]],
      let o := { amoAt 7 .moving (there 64) with o3 := 0x100 };
      let r := areq 7 (some 0) [1];
      let s := { travelling [o] [r] with filters := fs };
      s.areq? 7 = some r ∧ s.op? 7 = some o ∧ o.kind.cross o.o3 = true ∧ mayHop s r o 1 ∧ homeClear s o.locs ∧ homeOf (o.locs.headD 0) = 1 ∧
        (s.jobNo o.job).id = 0 ∧ (s.jobNo o.job).member = 0 ∧ o.tag.toNat % 1024 = 0 := by
  unfold homeClear mayHop linksUp; decide +kernel
theorem witness_AtomicsTravel_older : tagOlder 0 1 ∧ tagOlder 0 32 ∧ ¬tagOlder 0 33 ∧ ¬tagOlder 1 0 :=
  ⟨⟨1, by decide, by decide, by decide⟩, ⟨32, by decide, by decide, by decide⟩, fun ⟨d, h1, h2, h3⟩ => by omega,
    fun ⟨d, h1, h2, h3⟩ => by omega⟩

/-- An atomic of another member of group 5 comes in. -/
theorem witness_AtomicsTravel_visit : let j := { jobA with
      group := 5
      gsize := 2 };
    let v : VisitAmo := { grp := 5, member := 0, source := 1, who := me, seq := 3, addr := BitVec.ofNat 64 (there 64), port := 21, x := 4, y := 0 };
    let s := running j;
    s.memberJob v.grp v.member = some j ∧ membOp v.port = some (.amoAdd false false) ∧
      ((storeForm (.amoAdd false false)).map fun x => (x.1, x.2.1)) = some (6, 8) ∧ s.memOk ∧
      (∀ a ∈ (List.range 8).map fun b => (vaOf v.addr + b) % 2 ^ 48, isTileVa a = true ∧ j.mapped a = true) ∧
      homeClear s ((List.range 8).map fun b => j.tileLoc ((vaOf v.addr + b) % 2 ^ 48)) ∧ s.filters = [] := by
  unfold homeClear State.memOk; decide +kernel

/-- A reply on its way: to its tile, over a link that is down, and to a switch that combined its request. -/
theorem witness_AtomicsTravel_replies : let r : AReply := { id := 7, value := 5, status := none, path := [1, 0] };
    let s := { travelling [amoAt 7 .moving (there 64)] [] with areplies := [r] };
    (s.areplies.find? (fun x => x.id == 7) = some r ∧ linksUp s (s.replyLinks r) ∧ (∀ sw ∈ r.path, s.bridle? sw r.id = none) ∧ r.value.toNat < 2 ^ 64) ∧
    (let d := { s with links := [(meshLink 1 0, .down)] };
      d.heldOn (d.replyLinks r) = false ∧ d.downOn (d.replyLinks r) = some (meshLink 1 0)) ∧
    (let b : Bridle := { switch := 1, early := 7, late := 8, earlyTag := 0, lateTag := 0, kept := 3, op := .add, w32 := false, path := [0] };
      ({ s with bridles := [b] }).bridle? 1 7 = some b) := by
  unfold linksUp; decide +kernel


/-! Links, packets, jobs and the host. -/

theorem witness_LinksAndErrors :
    (∀ l ∈ [0, 7, 23, 35], State.reset.link l = .up) ∧
    (let o := opAt (.ldq .d false) .translated 0x4080123440;
      let s := accessing o 0x91A00007;
      s.link 23 = .up ∧ s.op? o.id = some o ∧ s.inFlit o = true ∧ o.job = some jobA.id ∧ s.job? jobA.id = some jobA ∧ s.takesFaults me (some 0) = true) ∧
    (∀ n ∈ [0, 120000], let s := { running jobA with links := [(5, .retraining n)] };
      s.link 5 = .retraining n) := by decide +kernel

/-- A job that spans link 0, which has not come back in time. -/
def spanning : Job := { jobA with rects := [Rect.wholeDie 0, Rect.wholeDie 1] }
def linkLate (j : Job) : State := { running j with links := [(0, .retraining 0)] }

theorem witness_LinksAndErrors_down :
    (linkLate spanning).link 0 = .retraining 0 ∧ (linkLate spanning).job? spanning.id = some spanning ∧
      isPlaced (linkLate spanning) spanning ∧ spanning.spans 0 = true ∧ (linkLate spanning).jobs.length = 1 :=
  ⟨by decide +kernel, by decide +kernel, ⟨by decide, by decide, by decide, fun _ h => nomatch h⟩, by decide +kernel, by decide +kernel⟩

theorem witness_LinksAndErrors_check :
    (running jobA).job? jobA.id = some jobA ∧ isPlaced (running jobA) jobA ∧
      ∃ c ∈ jobA.whos, c.tile / 144 = 0 ∧ ((running jobA).ctx c).job = some jobA.id :=
  ⟨by decide +kernel, ⟨by decide, by decide, by decide, fun _ h => nomatch h⟩, me, by decide +kernel, by decide +kernel⟩

/-- An object with one role for the tile at 0, 0 and its right neighbour, and the job of a launch of it there. -/
def roleA : Role :=
  { role := 0, origin := 0, entry := 3, trapEntry := 4, rejoin := none, release := 0, gmin := 8, gkeep := 8, vmin := 0, vkeep := 0, fkeep := 0, akeep := 0, own := [], disc := [], words := [] }
def objA : Obj := { queue := 2, ref := 1, timing := 1, roles := [roleA], place := [(0, 0, 11, 0, 11, 0)], data := [], bytes := [] }

/-- A launch descriptor: object 1, PRIO 2, one die, DEBUG, one tile with contexts 0 and 1, SAVE at 0x200000, 16 swatches. -/
def descA (rect : Nat) : List W64 := (List.range 34).map fun i => BitVec.ofNat 64 (match i with
  | 0 => 1 * 2 ^ 48 + 5 * 2 ^ 32 + 2 * 2 ^ 30 + 2 ^ 23
  | 2 => rect
  | 6 => 0x200000
  | 7 => 16 * 2 ^ 48 + 0x1000 * 2 ^ 20 + 0x100
  | _ => 0)
def rectA : Nat := 3 * 2 ^ 34 + 16 * 2 ^ 27 + 32 * 2 ^ 17

/-- A packet of queue 2 with SEQ 7, and a message that brings it. -/
def packet (kind : Nat) (ws : List W64) : Packet :=
  { header := BitVec.ofNat 64 (kind * 2 ^ 56 + 2 * 2 ^ 50 + ws.length * 2 ^ 32 + 7), body := ws }
def hdr : MsgHdr := { session := 9, seq := 40, ack := 0, sack := 0 }

/-- A package with a session open, where packet 6 of queue 2 has launched a job. -/
def hosted (j : Job) : State := { ofJob State.reset { j with
    queue := 2
    pseq := 6 } with
  tether := { Tether.init with
    session := some 9
    rxNext := 40 }
  journal := [{ queue := 2, seq := 6, kind := 1, st := if j.st = .completed then 2 else 1, time := 0, reason := 0, w3 := 0 }]
  objs := [objA] }
def jobWordA : W64 := 2 * 2 ^ 32 + 6

/-- A packet, as its message brings it, is one that comes up. -/
def isUp (s : State) (p : Packet) : Prop := (∃ i, packetOf hdr p = some i) ∧ comesUp s hdr p

theorem up (s : State) (p : Packet) (h1 : (packetOf hdr p).isSome = true)
    (h2 : (s.power == .running && s.tether.session == some hdr.session && hdr.seq == s.tether.rxNext && s.journalRoom p.queue &&
      s.qnext.get? p.queue == none && s.qwait.isEmpty && s.qhold.isEmpty && (s.headerBad p).isNone) = true) : isUp s p := by
  simp only [Bool.and_eq_true, beq_iff_eq, List.isEmpty_iff, Option.isNone_iff_eq_none] at h2
  obtain ⟨⟨⟨⟨⟨⟨⟨a, b⟩, c⟩, d⟩, e⟩, f⟩, g⟩, h⟩ := h2
  exact ⟨Option.isSome_iff_exists.mp h1, a, b, c, d, .inl e, f, g, h⟩

theorem witness_PacketsStart_launch :
    isUp (hosted jobB) (packet 1 (descA rectA)) ∧ (hosted jobB).launchBad 2 (descA rectA) = none ∧
    isUp (hosted jobB) (packet 1 (descA 0)) ∧ (hosted jobB).launchBad 2 (descA 0) = some 2 :=
  ⟨up _ _ (by decide +kernel) (by decide +kernel), by decide +kernel, up _ _ (by decide +kernel) (by decide +kernel), by decide +kernel⟩

/-- Indexes 3, 4 and 5 of the dependence table: running, cancelled and done. -/
def graphed : State := { hosted jobB with
  deps :=
    [(3, { st := .running, preds := [], job := 0 }), (4, { st := .cancelled, preds := [], job := 90 }), (5, { st := .done, preds := [], job := 91 })] }
def graph (i : Nat) (preds : List Nat) : List W64 := BitVec.ofNat 64 (256 * preds.length + i) :: preds.map (BitVec.ofNat 64) ++ descA rectA

theorem witness_PacketsStart_graph :
    (isUp graphed (packet 2 (graph 3 [])) ∧ graphed.depInUse 3 = true) ∧
    (isUp graphed (packet 2 (graph 6 [5])) ∧ isUp graphed (packet 2 (graph 6 [3, 5])) ∧ isUp graphed (packet 2 (graph 6 [4]))) ∧
    graphed.depInUse 6 = false ∧ descReserved (descA rectA) = false ∧ (graphed.obj? 2 (descObj (descA rectA))).isSome = true :=
  ⟨⟨up _ _ (by decide +kernel) (by decide +kernel), by decide +kernel⟩, ⟨up _ _ (by decide +kernel) (by decide +kernel),
    up _ _ (by decide +kernel) (by decide +kernel), up _ _ (by decide +kernel) (by decide +kernel)⟩, by decide +kernel⟩

theorem witness_PacketsStart_barrier :
    (isUp (hosted jobB) (packet 3 []) ∧ openIn (hosted jobB) 2 ≠ [] ∧ ∀ e ∈ openIn (hosted jobB) 2, e.seq ≠ 7) ∧
    (isUp (hosted { jobB with st := .completed }) (packet 3 []) ∧ openIn (hosted { jobB with st := .completed }) 2 = []) :=
  ⟨⟨up _ _ (by decide +kernel) (by decide +kernel), by decide +kernel⟩, up _ _ (by decide +kernel) (by decide +kernel), by decide +kernel⟩

/-- Loading: where nothing is stored, check 1 fails; an operand out of range is refused. -/
theorem witness_PacketsStart_load :
    (isUp (hosted jobB) (packet 4 [65535, 0x1000]) ∧ (hosted jobB).loadError 2 65535 ((hosted jobB).objectBytes 0x1000) = some (1, noSection)) ∧
    (isUp (hosted jobB) (packet 4 [65536, 0x1000]) ∧ isUp (hosted jobB) (packet 4 [1, 0x1001])) :=
  ⟨⟨up _ _ (by decide +kernel) (by decide +kernel), by decide +kernel⟩, up _ _ (by decide +kernel) (by decide +kernel),
    up _ _ (by decide +kernel) (by decide +kernel)⟩

/-- The signed object stands in DRAM, and its key is enrolled. -/
def withObject : State := { hosted jobB with
  keys := [(7, keyB)]
  mem := Memory.writeBytes [] (paLoc 0x1000) objectB }

theorem witness_PacketsStart_loaded : isUp withObject (packet 4 [5, 0x1000]) ∧
    withObject.loadError 2 5 (withObject.objectBytes 0x1000) = none :=
  ⟨up _ _ (by decide +kernel) (by decide +kernel), by decide +kernel⟩

theorem witness_PacketsStart_unload : let s := hosted { jobB with st := .completed };
    (isUp s (packet 5 [1]) ∧ (s.obj? 2 1).isSome = true) ∧ (isUp s (packet 5 [65535]) ∧ s.obj? 2 65535 = none) ∧ openIn s 2 = [] :=
  ⟨⟨up _ _ (by decide +kernel) (by decide +kernel), by decide +kernel⟩, ⟨up _ _ (by decide +kernel) (by decide +kernel), by decide +kernel⟩,
    by decide +kernel⟩

theorem witness_PacketsStart_due : let s := hosted jobB;
    isUp s (packet 6 [jobWordA, 1]) ∧ isUp s (packet 7 [jobWordA, 0x10000, 0x200000]) ∧
      namesJob s jobWordA { jobB with queue := 2, pseq := 6 } ∧ (s.obj? 2 1).isSome = true ∧ jobB.st = .running :=
  ⟨up _ _ (by decide +kernel) (by decide +kernel), up _ _ (by decide +kernel) (by decide +kernel), by unfold namesJob; decide +kernel, by decide +kernel⟩

/-- A snapshot of packet 3 of queue 2, of a job on two contexts of one tile. -/
def snapped : State := { hosted jobB with
  snaps := [{ queue := 2, seq := 3, asid := 5, area := 0x400000, job := { descJob 0 2 3 (descA rectA) objA with phase := 12 } }] }
def snapWord : W64 := 2 * 2 ^ 32 + 3

theorem witness_PacketsStart_restore :
    isUp snapped (packet 8 (snapWord :: descA rectA)) ∧ snapWord.extractLsb' 38 26 = 0 ∧
    (snapped.snaps.find? fun q => q.queue == (snapWord.extractLsb' 32 6).toNat && q.seq == snapWord.extractLsb' 0 32).isSome = true ∧
    snapped.launchBad 2 (descA rectA) = none ∧
      ∀ q ∈ snapped.snaps, (snapped.newJob 2 7 (descA rectA)).2.restores q.job = true :=
  ⟨up _ _ (by decide +kernel) (by decide +kernel), by decide +kernel⟩

/-- A read of the entry of packet 6 and of the one before it, which is not held. -/
theorem witness_PacketsStart_journal : let w : W64 := 2 * 2 ^ 40 + 2 * 2 ^ 32 + 5;
    isUp (hosted jobB) (packet 9 [w]) ∧ w.extractLsb' 48 16 = 0 ∧ w.extractLsb' 38 2 = 0 ∧ (w.extractLsb' 40 8).toNat = 2 ∧
      (hosted jobB).journal.length < 1024 ∧ ((hosted jobB).journalGet 2 5).isSome = false ∧ ((hosted jobB).journalGet 2 6).isSome = true :=
  ⟨up _ _ (by decide +kernel) (by decide +kernel), by decide +kernel⟩

theorem witness_PacketsStart_moves :
    (∀ st ∈ [JobSt.running, .preempting, .preempted, .resuming], let j := { jobB with st := st };
      namesJob (hosted j) jobWordA { j with queue := 2, pseq := 6 }) ∧
    isUp (hosted jobB) (packet 10 [jobWordA]) ∧ isUp (hosted { jobB with st := .preempted }) (packet 10 [jobWordA]) ∧
    isUp (hosted jobB) (packet 11 [jobWordA]) ∧ isUp (hosted { jobB with st := .preempted }) (packet 11 [jobWordA]) :=
  ⟨by unfold namesJob; decide +kernel, up _ _ (by decide +kernel) (by decide +kernel), up _ _ (by decide +kernel) (by decide +kernel),
    up _ _ (by decide +kernel) (by decide +kernel), up _ _ (by decide +kernel) (by decide +kernel)⟩

/-- A debug packet of a word for the job's first tile. -/
def dbPacket (v : Nat) (more : List W64) : Packet := packet 12 (jobWordA :: BitVec.ofNat 64 v :: more)
def jobD (dbg : Bool) : Job := { jobB with
  debug := dbg
  swcnt := 16
  save := 0x200000 }
def haltedD (h : Bool) : State := with' (hosted (jobD true)) fun x => { x with dbgHalt := h }

theorem witness_DebugPackets :
    (∀ v ∈ [0x11, 0x12, 0x13, 0x010010F800000014, 0x010010F800000015, 0x4000100000000014], debugBad (BitVec.ofNat 64 v) = false ∧
      (jobD true).phys ((BitVec.ofNat 64 v).extractLsb' 8 2).toNat ((BitVec.ofNat 64 v).extractLsb' 10 4).toNat
        ((BitVec.ofNat 64 v).extractLsb' 14 4).toNat = some 0) ∧
    (∀ v ∈ [0x11, 0x12, 0x13, 0x010010F800000014], isUp (haltedD true) (dbPacket v []) ∧ isUp (hosted (jobD false)) (dbPacket v [])) ∧
    isUp (haltedD true) (dbPacket 0x010010F800000015 [5]) ∧
    (∀ d : Bool, let j := { jobD d with
        queue := 2
        pseq := 6 };
      namesJob (hosted (jobD d)) jobWordA j ∧ j.debug = d ∧ stands j) := by
  refine ⟨by decide +kernel, ?_, up _ _ (by decide +kernel) (by decide +kernel), by unfold namesJob stands; decide +kernel⟩
  intro v hv
  simp only [List.mem_cons, List.not_mem_nil, or_false] at hv
  rcases hv with rfl | rfl | rfl | rfl <;>
    exact ⟨up _ _ (by decide +kernel) (by decide +kernel), up _ _ (by decide +kernel) (by decide +kernel)⟩

/-- A range of a context's state may be accessed while it is halted; one past the job's swatches may not; and the first and the last
doubleword of its window may. -/
theorem witness_DebugPackets_range : let j := { jobD true with
      queue := 2
      pseq := 6 };
    (haltedD true).rangeOk j 0 0x1000 64 = true ∧ (haltedD false).rangeOk j 0 0x1000 64 = false ∧
    (haltedD true).rangeOk j 0 0x110000 1 = false ∧ (haltedD true).rangeOk j 0 0x100000 1 = true ∧ (haltedD true).rangeOk j 0 0x10FFF8 1 = true ∧
    (haltedD true).memOk ∧ j.save % 4096 = 0 ∧ (j.ctxsOn 0).contains 0 = true ∧ ((haltedD true).ctx ⟨0, 0⟩).exit = none := by
  unfold State.memOk; decide +kernel

/-- The job of the descriptor, waiting for its place, beside another of the given PRIO on the same tile, or alone. -/
def jobC : Job := { descJob 0 2 6 (descA rectA) objA with admitted := true }
def besides (j : Job) (prio : Option (BitVec 2)) : State := { hosted jobB with
  jobs := j :: (prio.map fun p => { jobC with
    id := 1
    st := .running
    prio := p }).toList }

/-- It is refused where its stack lies past its window; it displaces a job of lower PRIO, waits for one of its own, and has its place where it
is alone, by its own start or by an image. -/
theorem witness_JobEvents_place :
    (∀ a : Bool, let j := { jobC with
        admitted := a
        stop := 0xFFFFF };
      (besides j none).job? j.id = some j ∧ (besides j none).waitsPlace j = true ∧ j.refused = true) ∧
    jobC.refused = false ∧
    (∀ p ∈ [none, some 1, some 2], (besides jobC p).job? jobC.id = some jobC ∧ (besides jobC p).waitsPlace jobC = true ∧ jobC.admitted = true) ∧
    (besides jobC (some 2)).plan jobC = .wait ∧ (besides jobC (some 1)).plan jobC = .displace [1] ∧ (besides jobC none).plan jobC = .place ∧
    jobC.images = [] ∧ jobC.tiles.Nodup ∧ (∀ r ∈ jobC.rects, ∀ tile ∈ r.tiles, jobC.roleAt tile = some roleA ∧ r.whos tile = [⟨0, 0⟩, ⟨0, 1⟩]) ∧
    (let im : Image := { tile := Tile.init, sram := [], poison := [], msgs := [], restarts := [], ops := [], valid := [] };
      let j := { jobC with
        st := .resuming
        images := [(0, im)] };
      (besides j none).job? j.id = some j ∧ (besides j none).waitsPlace j = true ∧ (besides j none).plan j = .place ∧ j.area = none ∧
        (besides j none).memOk ∧ j.swbase + j.swcnt ≤ 256 ∧ j.save % 4096 = 0 ∧ ((j.roleAt (j.tiles.getD 0 0)).map (·.disc)).getD [] = []) := by
  unfold State.memOk; decide +kernel

theorem witness_JobEvents_save : let j := { jobD true with
      queue := 2
      pseq := 6
      st := .preempting };
    let s := hosted j;
    s.job? j.id = some j ∧ s.canSave j = true ∧ me ∈ j.whos ∧ (s.ctx me).job = some j.id ∧
      s.memOk ∧ j.images = [] ∧ j.save % 4096 = 0 ∧ j.save + 0x200000 * j.tiles.length ≤ 768 * 2 ^ 30 ∧ j.swbase + j.swcnt ≤ 256 ∧
      j.tiles.Nodup ∧ (∀ c ∈ j.whos, (s.ctx c).gcount ≤ 64 ∧ (s.ctx c).vcount ≤ 768) ∧ j.tiles[0]? = some 0 := by
  unfold State.memOk; decide +kernel

/-- Its strand has halted, with status 0 or with another, and entry 4 waits for its entry 3. -/
theorem witness_JobEvents_complete : ∀ e ∈ [0, 5], let j := { jobB with
      queue := 2
      pseq := 6
      entry := some 3 };
    let s := { with' (hosted j) fun x => { x with exit := some (BitVec.ofNat 16 e) } with
      deps := [(3, { st := .running, preds := [], job := 0 }), (4, { st := .waiting 1, preds := [3], job := 90 })] };
    s.job? j.id = some j ∧ s.canComplete j = true ∧ s.hlines = [] ∧ ((∀ c ∈ j.whos, s.exitOf j c = some 0) ↔ e = 0) := by decide +kernel

/-- A session open, with a reply that the host has not acknowledged and that answers message 39. -/
def talking : State := { State.reset with
  tether := { Tether.init with
    session := some 9
    rxNext := 40
    txNext := 5
    unacked := [reply4]
    stored := [(38, none), (39, some reply4)] } }
where
  reply4 : Reply :=
    { kind := 6, session := 9, seq := 4, ack := 40, sack := 0, sent := 0, re := 39, status := 0, words := [], bytes := [] }

theorem witness_HostMessages :
    talking.power = .running ∧ onTurn talking hdr ∧ talking.hlines = [] ∧ fullMode talking ∧ State.reset.tether.session ≠ some hdr.session ∧
    (∀ c : Fin 2, let s := { talking with cycle := BitVec.ofNat 64 c.val };
      s.tether.unacked.find? (fun r => r.seq == 4 && decide (s.tether.rto < (s.cycle - r.sent).toNat)) = if c = 1 then some talking.reply4 else none) ∧
    (∀ n ∈ [37, 38, 39], let h := { hdr with seq := n };
      talking.tether.session = some h.session ∧ 2 ^ 31 ≤ (h.seq + (2 ^ 32 - talking.tether.rxNext % 2 ^ 32)) % 2 ^ 32 ∧ h.seq ≠ talking.tether.rxNext ∧
        talking.tether.stored.find? (fun e => e.1 == h.seq) =
          if n = 37 then none else some (n, if n = 39 then some talking.reply4 else none)) ∧
    (let h := { hdr with seq := 41 };
      ¬2 ^ 31 ≤ (h.seq + (2 ^ 32 - talking.tether.rxNext % 2 ^ 32)) % 2 ^ 32 ∧ h.seq ≠ talking.tether.rxNext ∧ ∀ e ∈ talking.tether.rxBuf, e.1 ≠ h.seq) ∧
    (let s := { talking with bootcause := 1 };
      onTurn s hdr ∧ ¬fullMode s) := by
  unfold onTurn fullMode; decide +kernel
theorem witness_HostMessages_bears : bears hdr (.readTelemetry hdr) ∧ bears hdr (.setPowerLimit hdr 1400) ∧ notInMinimal hdr (.attestation hdr []) :=
  ⟨.inr (.inr (.inr (.inr rfl))), .inr (.inl ⟨_, rfl⟩),
    .inr (.inr (.inr (.inr (.inr (.inr (.inr (.inr (.inr (.inr ⟨_, rfl⟩)))))))))⟩

/-- A window over the last bytes of a tile and of DRAM; poisoned or not; and an atomic. -/
theorem witness_HostMessages_windows :
    (winLocs (.tile 3 11 11 (2 ^ 20 - 8)) 8).isSome = true ∧ (winLocs (.dram (768 * 2 ^ 30 - 8) none) 8).isSome = true ∧
    winLocs (.tile 0 0 0 8) 8 = some (List.range' 8 8) ∧ (List.range' 8 8).Nodup ∧ talking.trail = [] ∧ talking.memOk ∧
    talking.poisonAt (List.range' 8 8) = false ∧ ({ talking with poison := [1] } : State).poisonAt (List.range' 8 8) = true ∧
    membOp 21 = some (.amoAdd false false) ∧ ((storeForm (.amoAdd false false)).map fun x => (x.1, x.2.1)) = some (6, 8) ∧
      (atomicOut (.amoAdd false false) 0).isSome = true ∧ (List.range' 8 8).headD 0 % 8 = 0 := by
  unfold State.memOk; decide +kernel

/-- The ways to the homes are up; a home's filter that holds the message's number, or a later one only, or is empty; a misaligned place; and
windows out of range. -/
theorem witness_HostMessages_filters (hs : List Nat) : (∀ l ∈ talking.windowLinks hdr hs, talking.link l = .up) ∧
    (∀ u ∈ hs, talking.portOpen (ioPort (talking.windowIo hdr) u) u = true) ∧
    (∀ p ∈ [(([] : List Nat), 0), ([40], 1), ([41, 5], 2), ([41, 40 + 2 ^ 31], 3)],
      let mine := (p.1.map fun n => ({ source := .host, home := 0, seq := n, value := 5 } : Applied)).filter
        fun f => decide (f.source = .host) && f.home == homeOf ((List.range' 8 8).headD 0);
      let older (f : Applied) : Prop := let d := (f.seq + (2 ^ 32 - hdr.seq % 2 ^ 32)) % 2 ^ 32; 0 < d ∧ d ≤ 2 ^ 31;
      ((mine.find? fun f => f.seq == hdr.seq).isSome = (p.2 == 1)) ∧
        (p.2 = 2 → (∀ f ∈ mine, f.seq ≠ hdr.seq) ∧ ∃ f ∈ mine, ¬older f) ∧ (p.2 = 3 → mine ≠ [] ∧ ∀ f ∈ mine, older f)) ∧
    winLocs (.tile 0 0 0 9) 8 = some (List.range' 9 8) ∧ (List.range' 9 8).headD 0 % 8 ≠ 0 ∧ winLocs (.tile 4 0 0 0) 8 = none :=
  ⟨fun _ _ => rfl, fun _ _ => rfl, by decide +kernel⟩

/-- A late atomic, whose reply is no longer kept and whose home's filter holds its number; a window over a line whose checksum stands, and
over one whose checksum is broken; and the links of LINK_ENABLE. -/
theorem witness_HostMessages_lines :
    (let h := { hdr with seq := 37 };
      let s := { talking with filters := [{ source := .host, home := 0, seq := 37, value := 5 }] };
      s.tether.session = some h.session ∧ 2 ^ 31 ≤ (h.seq + (2 ^ 32 - s.tether.rxNext % 2 ^ 32)) % 2 ^ 32 ∧ (∀ m ∈ s.tether.stored, m.1 ≠ h.seq) ∧
        (s.filters.find? fun f => decide (f.source = .host) && f.seq == h.seq).isSome = true) ∧
    winLocs (.tile 0 0 0 0) 64 = some (List.range' 0 64) ∧ winHomes (.tile 0 0 0 0) 64 = [0] ∧ (∀ k, k < 64 → 64 * 0 + k ∈ List.range' 0 64) ∧
    (∀ bad : Bool, let c := crc16 (Memory.readBytes [] 0 64) ^^^ (if bad then 1 else 0);
      let s := { talking with trail := [(0, c)] };
      s.trail.get? 0 = some c ∧ (crc16 (Memory.readBytes s.mem (64 * 0) 64) ≠ c ↔ bad = true)) ∧
    (∀ l ∈ [0, 23, 64, 1215], l < 24 ∨ (64 ≤ l ∧ l < 1216)) ∧ ∀ l ∈ [24, 63, 1216], (24 ≤ l ∧ l < 64) ∨ 1216 ≤ l := by decide +kernel

/-- The operands of management operations, in range and out of it. -/
theorem witness_HostMessages_management :
    ((65535 : Nat) < 65536 ∧ (768 * 2 ^ 30 - 8192 : Nat) % 8192 = 0) ∧ (∀ p ∈ [0, 768 * 2 ^ 30 - 2 ^ 19], p % 2 ^ 19 = 0 ∧ p + 2 ^ 19 ≤ 768 * 2 ^ 30) ∧
    (List.replicate 97 (0 : Byte)).length = 97 ∧ talking.keys.length < 16 ∧ (∀ mask ∈ [0, 1, 2, 3, 4, 5], mask < 8 ∧ mask / 2 ≠ 3) ∧
    (1400 ≤ (1400 : Nat) ∧ (2800 : Nat) ≤ 2800) ∧ (List.replicate 8000 (0 : Byte)).length ≤ 8000 ∧ 2 ^ 24 - 8000 + 8000 ≤ 2 ^ 24 := by decide +kernel

/-- An image too short to hold a signature is not signed, whatever the fused key is. -/
theorem witness_HostMessages_unsigned : (0 < 1 ∧ 1 ≤ 2 ^ 24) ∧ imageSigned ((List.range 1).map fun k => talking.staging.get 0 k) = false := by
  refine ⟨by decide, ?_⟩
  simp [imageSigned, ecdsaVerify]

theorem witness_StartsAndPower :
    (∀ n, ({ State.reset with power := .starting n } : State).power = .starting n) ∧ State.reset.power = .running ∧
    ({ State.reset with power := .off } : State).power ≠ .running ∧ 3 ≤ ({ State.reset with fails := 3 } : State).fails ∧ ¬3 ≤ State.reset.fails ∧
    (∀ c ∈ [1, 3, 6], (BitVec.ofNat 4 c ≠ 0 ∧ BitVec.ofNat 4 c ≠ 2 ∧ BitVec.ofNat 4 c ≤ 6)) ∧ (∀ c ∈ [3, 5], (3 ≤ BitVec.ofNat 4 c ∧ BitVec.ofNat 4 c ≤ 5)) ∧
    (let s := { State.reset with power := .failed };
      s.agenda = [] ∧ s.worked = false ∧ s.sched = [] ∧ s.held = false) :=
  ⟨fun _ => rfl, by decide +kernel⟩
/-- Firmware too short to hold a signature does not boot. -/
theorem witness_StartsAndPower_unsigned : ¬(3 ≤ ({ State.reset with nextFw := [] } : State).fails ∨
    imageSigned ({ State.reset with nextFw := [] } : State).nextFw = true) := by
  have h : imageSigned [] = false := by simp [imageSigned, ecdsaVerify]
  rintro (h3 | h4)
  · exact absurd h3 (by decide)
  · exact absurd (h.symm.trans h4) (by decide)

/-- A state with a byte in memory, whose next step runs an event. -/
theorem witness_MemoryCanonicalKept : let s := { State.reset with
      mem := [(5, 1)]
      sched := [(0, .droppedFrame)] };
    s.memOk ∧ after (step s) (fun t => t.mem == [(5, 1)]) = true := by
  unfold State.memOk; decide +kernel

/-! Further clauses of the statements: the cases that the witnesses above leave out. -/

/-- A divide whose result has not come to its count, and has none of its unit and word before it. -/
theorem witness_ResultsLand_early : let r := { flying true with left := 5 };
    let s := State.reset.updCtx me fun x => { x with bank := { x.bank with fly := [r] } };
    (s.ctx me).bank.fly.find? (fun y => y.id == r.id) = some r ∧ r.div = true ∧
      ∀ q ∈ (s.ctx me).bank.fly, q.unit = r.unit → q.cyc = r.cyc → r.id ≤ q.id := by decide +kernel

/-- A context of a placed job whose trap shadow is occupied. -/
theorem witness_TrapEntry_placed : let s := with' (running jobA) fun x => { x with shadow := some (shadowOf .decode) };
    noneLate s = true ∧ s.self.shadow ≠ none ∧ s.self.job = some 0 := by decide +kernel

/-- A slot that no rel has freed may be filled; one that rel 100 has freed waits for the load triggered before it. -/
theorem witness_CopyEvents_fill : let o := copyReq .offered;
    let r := { reelOf 1 0 with rels := [(0, me, some 0, 100)] };
    let s := { (copying o).updTile 0 fun y => { y with reels := [(0, r)] } with ops := [opAt (.ldq .d false) .waiting 0x4080123440] };
    mayFill (copying o) 0 o ∧ ¬mayFill s 0 o ∧ s.copyReq? 7 = some (0, o) ∧ (copying o).copyWaits o = false := by
  refine ⟨fun c job id h => ?_, fun h => ?_, by decide +kernel, by decide +kernel⟩
  · have hr : (((copying (copyReq .offered)).tile 0).reel 0).rels.get? 0 = none := by decide +kernel
    exact absurd (hr.symm.trans h) nofun
  · have hr : ((((copying (copyReq .offered)).updTile 0 fun y => { y with reels := [(0, { reelOf 1 0 with rels := [(0, me, some 0, 100)] })] }).tile 0).reel
        0).rels.get? 0 = some (me, some 0, 100) := by decide +kernel
    have := h me (some 0) 100 hr (opAt (.ldq .d false) .waiting 0x4080123440) (by simp) rfl rfl (by decide)
    exact absurd this.1 (by decide +kernel)

/-- msave finds an operation with a chunk left, one past its last chunk, or none. -/
theorem witness_MatrixForms_save :
    (∀ k ∈ [MxKind.mma, .mmz, .mrun, .mresume false, .mresume true], ∀ k0 ∈ [0, 4], let o := mxOp k k0;
      let s := matrixOf (matAt 0 0) [o] [(0, .busy 7 none)] [];
      accCheck s .msave = none ∧ (s.tile 0).acc 0 = .busy o.id none ∧ (s.tile 0).mxq.find? (fun x => x.id == o.id) = some o ∧
        (o.k0 < kIn o.shape ↔ k0 = 0)) ∧
    ((matrixOf (matAt 0 0) [] [] []).tile 0).acc 0 = .idle := by decide +kernel

/-- A send to another member, whose way stands; and a member that the group does not have. -/
theorem witness_NetForms_far : let j := { jobA with
      group := 5
      gsize := 2 };
    let s := ofJob (startAt 13 0x1010000 9 0 0) j;
    (∀ ls : List Nat, ∀ l ∈ ls, s.link l ≠ .down) ∧ s.opT64.getLsbD 24 = true ∧ (s.opT64.extractLsb' 16 8).toNat ≠ (s.jobFor me).member ∧
      sendCheck s = none ∧ sendCheck (ofJob (startAt 13 0x1020000 9 0 0) j) = some (0xB, 0, 0x1020000) ∧
      namesAbroad (s.jobFor me) s.opT64 = true ∧ behindWaiting s s.opT64 = false ∧
      (let m := { msgOf true .waiting with
          id := 5
          t := 0x81010000 };
        let s := { s with msgs := [m] };
        behindWaiting s s.opT64 = true ∧ m.rls = true ∧ m.id ≠ s.fresh) :=
  ⟨fun ls l hl => by rw [(links_up _ rfl ls).2 l hl]; decide, by decide +kernel⟩

/-- Messages in the package, over links that stand or are down; and to another member, by a port that is up or down. -/
theorem witness_MessagesAndRounds_ways : let m := msgOf false .moving;
    let s := sending m RQueue.init;
    let d := { s with links := [(meshLink 0 1, .down)] };
    (s.heldOn (s.msgLinks m) = false ∧ s.downOn (s.msgLinks m) = none ∧ m.tile = some 1) ∧
    (d.msgs.find? (fun x => x.id == 7) = some m ∧ d.msgFirst m = true ∧ (d.jobNo m.job).sendsHere m.t = true ∧
      d.heldOn (d.msgLinks m) = false ∧ d.downOn (d.msgLinks m) = some (meshLink 0 1) ∧ d.takesFaults m.who m.job = true) := by decide +kernel
theorem witness_MessagesAndRounds_abroad : let m := { msgOf false .moving with t := 0x1010011 };
    let s := sending m RQueue.init;
    let d := portsDown s;
    (s.msgs.find? (fun x => x.id == m.id) = some m ∧ m.st ≠ .waiting ∧ s.msgFirst m = true ∧ (s.jobNo m.job).sendsHere m.t = false ∧
      s.takesFaults m.who m.job = true) ∧
    s.heldOn (s.msgLinks m) = false ∧ s.downOn (s.msgLinks m) = none ∧
      d.msgs.find? (fun x => x.id == m.id) = some m ∧ d.msgFirst m = true ∧ d.heldOn (d.msgLinks m) = false ∧
      (d.downOn (d.msgLinks m)).isSome = true := by
  have hs : ∀ ls, (sending { msgOf false .moving with t := 0x1010011 } RQueue.init).heldOn ls = false := fun _ => rfl
  have hd : (portsDown (sending { msgOf false .moving with t := 0x1010011 } RQueue.init)).msgLinks { msgOf false .moving with t := 0x1010011 } =
      peerLinks 0 (memberPort 0 1) := by rfl
  exact ⟨by decide +kernel, hs _, (links_up _ rfl _).1, by decide +kernel, by decide +kernel, ports_held _ _, hd ▸ ports_down _ _ _ _⟩

/-- A message of another member of group 5, to a queue with room or a full one. -/
theorem witness_MessagesAndRounds_visit : let j := { jobA with
      group := 5
      gsize := 2 };
    let v : VisitMsg := { grp := 5, member := 0, t := 0x1000011, header := 3, value := 9 };
    ∀ q ∈ [RQueue.init, { RQueue.init with entries := List.replicate 16 (0, 0) }],
      let s := (running j).updTile 1 fun y => { y with rqs := [(1, q)] };
      s.memberJob v.grp v.member = some j ∧ j ∈ s.jobs ∧
        j.phys (v.t.extractLsb' 12 2).toNat (v.t.extractLsb' 8 4).toNat (v.t.extractLsb' 4 4).toNat = some 1 ∧
        (v.t.extractLsb' 0 2).toNat = 1 ∧ j.qx.getLsbD 1 = false ∧ s.inbound = [] ∧ (s.tile 1).rq 1 = q ∧ q.opened = true := by decide +kernel

/-- A token that waits behind no comparator and no full queue. -/
theorem witness_EventForms_tokens : let s := (eventAt 0 Line.init).updTile 0 fun y => { y with wakeq := [0x700005] };
    (s.tile 0).wakeLate = [] ∧ (∀ e ∈ (s.tile 0).cmps, e.2.pending = none) ∧ (s.tile 0).wpops = [] := by decide +kernel

/-- A message between lines of die 0 and die 1, whose way stands or is down; requests of tile 0 at a line of another cluster, whose way
stands, retrains or is down; and one for a line that its job does not hold. -/
def linkState (st : LinkSt) (s : State) : State := { s with links := [(meshLink 0 1, st), (meshLink 0 12, st)] }
theorem way_out (st : LinkSt) (h : st = .down ∨ st = .retraining 5) (n : Nat) (hn : n < 8) :
    ((linkState st State.reset).heldOn (routeLinks 0 (ringTile 17 n)) = (st != .down)) ∧
      (st = .down → ((linkState st State.reset).downOn (routeLinks 0 (ringTile 17 n))).isSome = true) := by
  rcases h with rfl | rfl <;> revert n <;> decide +kernel
theorem witness_LineEvents_ways : let s := fun rel : Bool => ({ asked .arrive (lineOf 1) with
      lines := [(3, lineOf 1), (2304, lineOf 1)]
      lmsgs := [{ id := 7, lower := 3, upper := 2304, release := rel }] } : State);
    let r := { reqOf .lock with line := 32 * 17 + 3 };
    let q := { asked .lock (lineOf 2) with
      lines := [(32 * 17 + 3, lineOf 2)]
      evreqs := [r] };
    (∀ rel : Bool, ∀ ls, (s rel).heldOn ls = false ∧ (s rel).downOn ls = none) ∧ (q.canReach r = true ∧ ∀ ls, q.downOn ls = none) ∧
    (linkState (.retraining 5) q).canReach r = false ∧
    ((linkState .down q).canReach r = true ∧ ((linkState .down q).downOn r.links).isSome = true ∧ q.takesFaults r.who r.job = true) ∧
    (asked .lock { lineOf 2 with job := some 5 }).downOn (reqOf .lock).links = none ∧
      ((asked .lock { lineOf 2 with job := some 5 }).line 3).job ≠ (reqOf .lock).job := by
  have hn : Config.lineTile (32 * 17 + 3) % 8 < 8 := Nat.mod_lt _ (by decide)
  have hr : lineRouter (32 * 17 + 3) = ringTile 17 (Config.lineTile (32 * 17 + 3) % 8) := by rfl
  refine ⟨fun rel ls => ⟨rfl, rfl⟩, ⟨by decide +kernel, fun ls => rfl⟩, ?_, ⟨?_, ?_, by decide +kernel⟩, by decide +kernel⟩
  · have := (way_out (.retraining 5) (.inr rfl) _ hn).1
    simp only [State.canReach, EvReq.links, Bool.and_eq_false_iff]
    right
    rw [hr]
    exact (Bool.not_eq_false' _).mpr this
  · have := (way_out .down (.inl rfl) _ hn).1
    simp only [State.canReach, EvReq.links, Bool.and_eq_true]
    refine ⟨by decide +kernel, ?_⟩
    rw [hr]
    exact (Bool.not_eq_true' _).mpr this
  · show ((linkState .down State.reset).downOn (routeLinks 0 (lineRouter (32 * 17 + 3)))).isSome = true
    rw [hr]
    exact (way_out .down (.inl rfl) _ hn).2 rfl

/-- A message between lines of die 0 and die 1 over a link that is down. -/
theorem way_over (a b : Nat) (ha : a < 8) (hb : b < 8) : let s : State := { State.reset with links := [(0, .down)] };
    ∀ ls ∈ [routeLinks (ringTile 0 a) (ringTile 18 b), routeLinks (ringTile 18 b) (ringTile 0 a)], s.heldOn ls = false ∧ s.downOn ls = some 0 := by
  have : ∀ a, a < 8 → ∀ b, b < 8 → ∀ ls ∈ [routeLinks (ringTile 0 a) (ringTile 18 b), routeLinks (ringTile 18 b) (ringTile 0 a)],
      ({ State.reset with links := [(0, .down)] } : State).heldOn ls = false ∧
        ({ State.reset with links := [(0, .down)] } : State).downOn ls = some 0 := by decide +kernel
  exact this a ha b hb
theorem witness_LineEvents_over : ∀ rel : Bool, let m : LineMsg := { id := 7, lower := 3, upper := 592, release := rel };
    let d := { asked .arrive (lineOf 1) with
      lines := [(3, lineOf 1), (592, lineOf 1)]
      lmsgs := [m]
      links := [(0, .down)] };
    (d.lmsgs.find? (fun x => x.id == 7) = some m ∧ (d.line 3).job ≠ none ∧ (d.line 3).job = (d.line 592).job) ∧
      d.heldOn m.links = false ∧ d.downOn m.links = some 0 := by
  have h := way_over (Config.lineTile 3 % 8) (Config.lineTile 592 % 8) (Nat.mod_lt _ (by decide)) (Nat.mod_lt _ (by decide))
  intro rel
  refine ⟨by cases rel <;> decide +kernel, ?_⟩
  cases rel
  · exact h _ (by simp [LineMsg.links, lineRouter])
  · exact h _ (by simp [LineMsg.links, lineRouter])

/-- How a request of another member gets to tile 1: it comes, it waits at a port that is down, or it ends before a link of the package. -/
def doorsDown (s : State) : State := { s with links := (List.range 4).map fun d => (4 + d, .down) }
theorem witness_visits (s : State) (g m : Nat) (hl : s.links = []) (hs : s.swIn = []) :
    s.visit g m 1 = .comes ∧ (portsDown s).visit g m 1 = .wait ∧ ∃ info, (doorsDown s).visit g m 1 = .ended info := by
  have hp : memberPort g m < 16 := Nat.mod_lt _ (by decide)
  have open1 : ∀ n, s.portOpen n 1 = true := fun n => by rw [State.portOpen, hs]; rfl
  have up : ∀ l, s.link l = .up := fun l => by rw [State.link, hl]; rfl
  have e0 : s.heldOn (ioLinks (peerIo (memberPort g m)) 1) = false := by rw [State.heldOn, hl]; rfl
  refine ⟨?_, ?_, ?_⟩
  · rw [State.visit, up, e0, open1, (links_up s hl _).1]
    rfl
  · have h : ∀ p < 16, Sparse.get ((List.range 16).map fun p => (8 + p, LinkSt.down)) .up (8 + p) = .down := by decide
    have h := h _ hp
    rw [State.visit, if_pos]
    rw [State.link, portsDown, h]
    rfl
  · have h : ∀ p < 16, Sparse.get ((List.range 4).map fun d => (4 + d, LinkSt.down)) .up (8 + p) = .up := by decide
    have h := h _ hp
    have d : ∃ l, (doorsDown s).downOn (ioLinks (peerIo (memberPort g m)) 1) = some l := by
      cases peerIo (memberPort g m) <;> exact ⟨_, rfl⟩
    have e : (doorsDown s).heldOn (ioLinks (peerIo (memberPort g m)) 1) = false := by
      cases peerIo (memberPort g m) <;> rfl
    have o : (doorsDown s).portOpen (ioPort (peerIo (memberPort g m)) 1) 1 = true := open1 _
    obtain ⟨l, d⟩ := d
    refine ⟨downInfo l, ?_⟩
    rw [State.visit, e, o, d, State.link, doorsDown, h]
    rfl

/-- A FLUSH whose cluster has its bit, or has none and finds an access held; one that clears the last bit, with an access held. -/
theorem witness_GatherEvents_flush : ∀ mask ∈ [1, 2, 3], ∀ held ∈ [[], [Holder.op 9]], let m := gm (.flush .add [(1, 5), (3, 6)] []);
    let h : HLine := { line := 2 ^ 34, pa := 0, mask := BitVec.ofNat 72 mask, held := held, refused := [], late := [] };
    let o := { opAt (.ldq .d false) .held 0x4080123440 with
      id := 9
      locs := (List.range 8).map (2 ^ 40 + ·) };
    let s := { State.reset with
      gmsgs := [m]
      hlines := [h]
      ops := [o] };
    s.hlines = [h] ∧ h.line = m.line ∧ 2 ^ 40 ≤ 64 * m.line ∧ (s.lineHolds m.line = true ↔ held = [.op 9]) ∧
      (h.mask.getLsbD m.cluster = false ↔ mask = 2) ∧ ((h.mask &&& ~~~(1#72 <<< m.cluster)) = 0 ↔ mask = 1) ∧
      (held = [.op 9] → s.op? o.id = some o ∧ o.st = .held ∧ (∀ l ∈ o.locs, 2 ^ 40 ≤ l) ∧ s.poison = [] ∧ (deliveredOf o 5).isSome = true) := by
  decide +kernel

/-- Links that replay for the first and the sixteenth time; and an event request on a link. -/
theorem witness_LinksAndErrors_replays :
    (∀ l ∈ [0, 23, 64, 1215], ∀ n ∈ [0, 14, 15], let s := { State.reset with replays := [(l, n)] };
      s.link l = .up ∧ (l < 24 ∨ (64 ≤ l ∧ l < 1216)) ∧ s.replays.get 0 l = n) ∧
    (let r := reqOf .wait;
      let s := asked .wait (lineOf 1);
      s.link 23 = .up ∧ s.evreqs.find? (fun x => x.id == r.id) = some r ∧ s.takesFaults r.who r.job = true) := by decide +kernel

/-- A graph entry whose descriptor has a reserved bit set; and one that is cancelled while an entry that names its index waits. -/
def reserving : List W64 := (descA rectA).set 2 (BitVec.ofNat 64 (2 ^ 63 + rectA))
def graphedOn : State := { graphed with deps := graphed.deps ++ [(7, { st := .waiting 1, preds := [6], job := 92 })] }
theorem witness_PacketsStart_reserved :
    isUp graphed (packet 2 ((6 : W64) :: reserving)) ∧ descReserved reserving = true ∧
    isUp graphedOn (packet 2 (graph 6 [4])) ∧ graphedOn.depInUse 6 = false ∧ graphedOn.depGone 4 = true ∧
      (7, ({ st := .waiting 1, preds := [6], job := 92 } : Dep)) ∈ graphedOn.deps ∧
      (graphedOn.obj? 2 (descObj (descA rectA))).isSome = true :=
  ⟨up _ _ (by decide +kernel) (by decide +kernel), by decide +kernel, up _ _ (by decide +kernel) (by decide +kernel), by decide +kernel⟩

/-- Reads and writes of one doubleword of a context's state: g0, g63, the flags, a0 and a15 of context 0. -/
theorem witness_DebugPackets_state : let j := { jobD true with
      queue := 2
      pseq := 6 };
    let s := with' (haltedD true) fun x => { x with
      gcount := 64
      vcount := 768 };
    (∀ off ∈ [0x1000, 0x11F8, 0x1200, 0x1208, 0x1280], s.rangeOk j 0 off 1 = true) ∧
    (s.tile 0).ctxs.map (·.1) = [0] ∧ (∀ n ∈ j.ctxsOn 0, (s.ctx ⟨0, n⟩).gcount ≤ 64 ∧ (s.ctx ⟨0, n⟩).vcount ≤ 768) ∧
    (s.ctx ⟨0, 0⟩).gcount = 64 ∧
    (∀ off ∈ [0x1000, 0x1200, 0x1280], let v := 2 ^ 56 + off * 2 ^ 32 + 0x15;
      debugBad (BitVec.ofNat 64 v) = false ∧ ((BitVec.ofNat 64 v).extractLsb' 32 21).toNat = off ∧ ((BitVec.ofNat 64 v).extractLsb' 56 7).toNat = 1 ∧
        (packetOf hdr (dbPacket v [5])).isSome = true) := by decide +kernel

/-- The rectangles of the jobs lie on the dies; no line is held; and the map of an image's slot says that its window is there. -/
theorem witness_JobEvents_fits :
    (∀ p ∈ [none, some 1, some 2], inGrid jobC ∧ (∀ k ∈ (besides jobC p).jobs, inGrid k) ∧ linesOpen (besides jobC p) jobC) ∧
    (let s := { besides jobC none with mem := Memory.writeLe (Memory.writeLe [] (slotLoc jobC.save 0 72) 8 0xFFFF) (slotLoc jobC.save 0 80) 8 0 };
      ∀ k, k < jobC.swcnt → (Memory.read s.mem (slotLoc jobC.save 0 (64 + (64 + k) / 8))).getLsbD ((64 + k) % 8) = true) := by
  refine ⟨fun p hp => ⟨?_, ?_, fun e he => ?_⟩, by decide +kernel⟩
  · unfold inGrid; decide +kernel
  · revert p; unfold inGrid; decide +kernel
  · exact absurd he (by rw [show jobC.events = [] by decide +kernel]; nofun)

/-- A job whose next advance has one packet due: a replacement by an object that is not loaded, that differs in its timing, that has no
rejoin entry, or that replaces; and a snapshot to a bad area, to a good one, and of a job whose top table lies at 0. -/
def rejoining (timing : Nat) (e : Option Nat) : Obj :=
  { objA with ref := 9, timing := timing, roles := [{ roleA with rejoin := e }] }
def dueOf (kind : Nat) (ws : List W64) : Job := { jobB with obj := objA, due := [(2, packet kind ws)] }
def replacing (timing : Nat) (e : Option Nat) : State := { arrivedIn (dueOf 6 [jobWordA, 9]) with objs := [rejoining timing e] }
theorem witness_PhaseEvents_due :
    (∀ s ∈ [replacing 2 none, replacing 1 none, replacing 1 (some 8), { replacing 1 none with objs := [] }], let j := dueOf 6 [jobWordA, 9];
      s.job? j.id = some j ∧ s.canAdvance j = true ∧ j.st = .running ∧ j.due = [(2, packet 6 [jobWordA, 9])] ∧ (packet 6 [jobWordA, 9]).kind ≠ 7 ∧
      s.hlines = [] ∧ s.memOk ∧ (s.ctx me).exit = none ∧ (s.ctx me).block = [.phase 9 0]) ∧
    ({ replacing 1 none with objs := [] } : State).obj? 2 9 = none ∧ (replacing 2 none).obj? 2 9 = some (rejoining 2 none) ∧
    (rejoining 2 none).replaces objA = false ∧ (rejoining 1 none).replaces objA = true ∧
    ((((replacing 1 none).endStaged (dueOf 6 [jobWordA, 9])).updJob 0 Job.advance).canReplace (dueOf 6 [jobWordA, 9]) (rejoining 1 none) = false) ∧
    ((((replacing 1 (some 8)).endStaged (dueOf 6 [jobWordA, 9])).updJob 0 Job.advance).canReplace (dueOf 6 [jobWordA, 9]) (rejoining 1 (some 8)) = true) ∧
    ({ dueOf 6 [jobWordA, 9] with obj := rejoining 1 (some 8) } : Job).roleAt 0 = some { roleA with rejoin := some 8 } := by
  unfold State.memOk; decide +kernel
theorem witness_PhaseEvents_snapshot :
    (∀ area ∈ [0x200001, 0x200000], let j := dueOf 7 [jobWordA, 4, BitVec.ofNat 64 area];
      let s := arrivedIn j;
      s.job? j.id = some j ∧ s.canAdvance j = true ∧ j.st = .running ∧ j.due = [(2, packet 7 [jobWordA, 4, BitVec.ofNat 64 area])] ∧
      s.hlines = [] ∧ s.memOk ∧ (((s.endStaged j).updJob j.id Job.advance).snapTables j.asid.toNat 4).isSome = true) ∧
    (let j := dueOf 7 [jobWordA, 4, 0x200000];
      j.swbase + j.swcnt ≤ 256 ∧ j.tiles.Nodup ∧ (∀ c ∈ j.whos, ((arrivedIn j).ctx c).gcount ≤ 64 ∧ ((arrivedIn j).ctx c).vcount ≤ 768)) ∧
    (let j := dueOf 7 [jobWordA, 4, 0x200000];
      let s := { arrivedIn j with
        roots := [(j.asid.toNat, 0x300000)]
        pool := [] };
      s.job? j.id = some j ∧ s.canAdvance j = true ∧ ((s.endStaged j).updJob j.id Job.advance).snapTables j.asid.toNat 4 = none) := by
  unfold State.memOk; decide +kernel

/-- Members of group 5: a job here that goes on, none, and a journal entry for it. -/
theorem witness_PhaseEvents_group : let j := { jobB with
      group := 5
      member := 0
      gsize := 2 };
    (∃ k ∈ (arrivedIn j).jobs, goesOnIn k 5 ∧ k.member ≠ 1 ∧ 1 < k.gsize) ∧ (∀ k ∈ (arrivedIn j).jobs, ¬goesOnIn k 6) ∧
    (arrivedIn j).job? j.id = some j ∧ goesOnIn j 5 ∧ (∀ i ∈ (arrivedIn j).jobs, i.group = 5 → i.id = j.id) ∧
    ∀ e ∈ (arrivedIn j).journal, e.queue = j.queue ∧ e.seq = j.pseq ∧ e.st = 1 := by
  unfold goesOnIn; decide +kernel

/-- A FLUSH of a refused cluster waits while the line holds an access, or while an earlier one waits; and one for a line without entry. -/
theorem witness_GatherEvents_waits : let m := gm (.flush .add [(1, 5), (3, 6)] []);
    let h : HLine := { line := 2 ^ 34, pa := 0, mask := 0, held := [], refused := [0], late := [] };
    let o := { opAt (.ldq .d false) .held 0x4080123440 with
      id := 9
      locs := (List.range 8).map (2 ^ 40 + ·) };
    let s (h : HLine) := { State.reset with
      gmsgs := [m]
      hlines := [{ h with line := 5, held := [] }, h]
      ops := [o] };
    (∀ h' ∈ [{ h with held := [.op 9] }, { h with late := [{ m with id := 6 }] }],
      gatherGoes (s h') m ∧ (s h').gfirst m = true ∧ ((s h').hlines.map (·.line)).Nodup ∧ entryOf (s h') m.line = h' ∧
        m.cluster ∈ h'.refused ∧ ((s h').lineHolds m.line = true ∨ h'.late ≠ [])) ∧
    (let s := { State.reset with gmsgs := [m] };
      gatherGoes s m ∧ s.gfirst m = true ∧ s.memOk ∧ (s.hlines.map (·.line)).Nodup ∧ (entryOf s m.line).held = [] ∧
        m.cluster ∉ (entryOf s m.line).refused) ∧
    (let s := s { h with
        mask := 1
        held := [.op 9]
        refused := [] };
      gatherGoes s m ∧ s.op? 9 = some o ∧ (∀ l ∈ o.locs, 2 ^ 40 ≤ l ∧ (l / 64 = m.line ∨ s.holders (l / 64) = 0))) := by
  unfold gatherGoes State.memOk; decide +kernel

theorem noEvents (r : Nat) : (descA r).drop 34 = [] := rfl
theorem legal_words : ∀ r ∈ [0, rectA], ¬wordsReserved (descA r) := by
  have h : ∀ r ∈ [0, rectA], let w (i : Nat) : W64 := (descA r).getD i 0
      ¬((descA r).length ≠ 34 + bitsIn (w 33) 0 16 ∨ bitsIn (w 0) 0 22 ≠ 0 ∨
    (∃ d, d < 4 ∧ (d < bitsIn (w 0) 24 2 + 1 → bitsIn (w (2 + d)) 56 8 ≠ 0 ∨ bitsIn (w (2 + d)) 0 15 ≠ 0) ∧ (bitsIn (w 0) 24 2 + 1 ≤ d → w (2 + d) ≠ 0)) ∨
    bitsIn (w 6) 52 12 ≠ 0 ∨ bitsIn (w 6) 0 12 ≠ 0 ∨ bitsIn (w 8) 0 4 ≠ 0 ∨ (∃ i, i < 16 ∧ bitsIn (w (17 + i)) 23 41 ≠ 0) ∨
    bitsIn (w 33) 16 48 ≠ 0) := by decide +kernel
  intro r hr hw
  apply h r hr
  rcases hw with hw | hw | hw | hw | hw | hw | hw | hw | ⟨e, he, -⟩
  · exact .inl hw
  · exact .inr (.inl hw)
  · exact .inr (.inr (.inl hw))
  · exact .inr (.inr (.inr (.inl hw)))
  · exact .inr (.inr (.inr (.inr (.inl hw))))
  · exact .inr (.inr (.inr (.inr (.inr (.inl hw)))))
  · exact .inr (.inr (.inr (.inr (.inr (.inr (.inl hw))))))
  · exact .inr (.inr (.inr (.inr (.inr (.inr (.inr hw))))))
  · rw [noEvents] at he
    exact nomatch he
/-- Launches: a reserved bit, an object that is not loaded, a placement without contexts, and a legal one. -/
theorem witness_PacketsStart_verdicts : wordsReserved reserving ∧ State.reset.obj? 2 1 = none ∧
    ((hosted jobB).obj? 2 1 = some objA ∧ (∀ r ∈ [0, rectA], bitsIn ((descA r).getD 0 0) 48 16 = 1) ∧ launchIllegal objA (descA 0)) ∧
    ¬launchIllegal objA (descA rectA) := by
  have hr : (List.range (bitsIn ((descA rectA).getD 0 0) 24 2 + 1)).map (fun d => (descA rectA).getD (2 + d) 0) = [BitVec.ofNat 64 rectA] := by
    decide +kernel
  have hr0 : (List.range (bitsIn ((descA 0).getD 0 0) 24 2 + 1)).map (fun d => (descA 0).getD (2 + d) 0) = [0] := by decide +kernel
  refine ⟨by unfold wordsReserved; decide +kernel, by decide +kernel,
    ⟨by decide +kernel, by decide +kernel, .inl ⟨0, by rw [hr0]; simp, by decide +kernel⟩⟩, ?_⟩
  dsimp only [launchIllegal]
  rw [hr, noEvents]
  rintro (⟨r, hm, h⟩ | ⟨d, e, h, h2, -⟩ | h | ⟨e, h, -⟩ | ⟨a, b, -, h, -⟩ | h | h | h | h | h | h | ⟨d, y, x, tile, h, hy, hr⟩)
  · obtain rfl := List.mem_singleton.mp hm
    revert h; decide +kernel
  · have : e < 1 := h2
    omega
  · revert h; decide +kernel
  · exact nomatch h
  · exact absurd h (Nat.not_lt_zero _)
  · revert h; decide +kernel
  · revert h; decide +kernel
  · revert h; decide +kernel
  · revert h; decide +kernel
  · revert h; decide +kernel
  · revert h; decide +kernel
  · have hd : d < 1 := h
    obtain rfl : d = 0 := by omega
    have h1 : bitsIn (BitVec.ofNat 64 rectA) 42 4 = 0 ∧ bitsIn (BitVec.ofNat 64 rectA) 38 4 = 0 := by decide +kernel
    rw [List.getD_cons_zero] at hy hr
    obtain ⟨ly, lx, -⟩ := hy
    rw [h1.1] at ly
    rw [h1.2] at lx
    obtain rfl : y = 0 := by omega
    obtain rfl : x = 0 := by omega
    have := hr 0 roleA (by decide +kernel) (by decide +kernel)
    revert this; decide +kernel

/-- Objects: an empty one; one whose signature has another type; one with a reserved byte of section 0 set; and the good one. -/
def breaks1 (bs : List Byte) : Bool :=
  num bs 0 4 != 0x4F434B5A || num bs 4 2 != 1 || decide (num bs 6 2 < 5) || decide (64 < num bs 6 2) || decide (2 ^ 26 < num bs 8 8) ||
    decide (num bs 8 8 < 0x40 + 16 * num bs 6 2) || num bs 0x30 16 != 0 ||
    (List.range 32).any fun i => decide (128 ≤ num bs (0x10 + i) 1) || (num bs (0x10 + i) 1 == 0 &&
      (List.range 32).any fun k => decide (i < k) && num bs (0x10 + k) 1 != 0)
theorem head_whole (bs : List Byte) (h : breaks1 bs = false) : ¬headBreaks bs := by
  simp only [breaks1, Bool.or_eq_false_iff, bne_eq_false_iff_eq, decide_eq_false_iff_not, List.any_eq_false, List.mem_range, Bool.or_eq_true,
    Bool.and_eq_true, decide_eq_true_eq, beq_iff_eq, List.any_eq_true, bne_iff_ne] at h
  obtain ⟨⟨⟨⟨⟨⟨⟨a, b⟩, c⟩, d⟩, e⟩, f⟩, g⟩, i⟩ := h
  rintro (h | h | h | h | h | h | h | ⟨n, hn, h⟩)
  · exact h a
  · exact h b
  · exact c h
  · exact d h
  · exact e h
  · exact f h
  · exact h g
  · refine i n hn (h.imp_right fun ⟨z, k, h1, h2, h3⟩ => ⟨z, k, h2, h1, h3⟩)
theorem good_head : ¬headBreaks objectB ∧ ¬countBreaks objectB := ⟨head_whole _ (by decide +kernel), by unfold countBreaks; decide +kernel⟩
theorem bad_heads : headBreaks [] ∧ ¬headBreaks (objectB.set 0x80 7) ∧ countBreaks (objectB.set 0x80 7) ∧
    (∀ i, i < 5 → secType (objectB.set 0x80 7) i ∈ [1, 2, 3, 4, 5, 6, 7, 15]) ∧
    ¬headBreaks (objectB.set 0x42 1) ∧ ¬countBreaks (objectB.set 0x42 1) ∧ secBreaks (objectB.set 0x42 1) 0 :=
  ⟨.inl (by decide +kernel), head_whole _ (by decide +kernel), by unfold countBreaks; decide +kernel, by decide +kernel,
    head_whole _ (by decide +kernel), by unfold countBreaks; decide +kernel, .inl (by decide +kernel)⟩
theorem good_sections : ∀ i, i < 5 → ¬secBreaks objectB i := by
  have h : ∀ i, i < 5 → ¬(num objectB (0x42 + 16 * i) 6 ≠ 0 ∨ secOff objectB i % 8 ≠ 0 ∨ num objectB 8 8 < secOff objectB i + secSize objectB i) := by
    decide +kernel
  have apart : ∀ i, i < 5 → ∀ k, k < i → ¬(secOff objectB k < secOff objectB i + secSize objectB i ∧
    secOff objectB i < secOff objectB k + secSize objectB k) := by decide +kernel
  rintro i hi (hb | hb | hb | ⟨k, hk, hb⟩ | hb)
  · exact h i hi (.inl hb)
  · exact h i hi (.inr (.inl hb))
  · exact h i hi (.inr (.inr hb))
  · exact apart i hi k hk hb
  · match i, hi with
    | 0, _ =>
      rw [show secType objectB 0 = 1 by decide +kernel] at hb
      rcases hb with hb | hb | hb | hb | ⟨e, he, -⟩
      · revert hb; decide +kernel
      · revert hb; decide +kernel
      · revert hb; decide +kernel
      · revert hb; decide +kernel
      · revert he; rw [show num (secBytes objectB 0) 6 2 = 0 by decide +kernel]; exact Nat.not_lt_zero _
    | 1, _ =>
      rw [show secType objectB 1 = 2 by decide +kernel] at hb
      rcases hb with hb | hb | hb | hb | hb | hb | hb | hb | hb | hb | hb | hb | hb | hb | hb | hb | ⟨k, hk, ht, -⟩
      iterate 16 (revert hb; decide +kernel)
      obtain rfl : k = 0 := by omega
      revert ht; decide +kernel
    | 2, _ =>
      rw [show secType objectB 2 = 3 by decide +kernel] at hb
      rcases hb with hb | hb | hb | hb | ⟨e, he, hb⟩
      · revert hb; decide +kernel
      · revert hb; decide +kernel
      · revert hb; decide +kernel
      · revert hb; decide +kernel
      · revert he; rw [show num (secBytes objectB 2) 0 2 = 1 by decide +kernel]
        intro he
        obtain rfl : e = 0 := by omega
        rcases hb with hb | hb | hb | hb | hb | hb | hb
        iterate 6 (revert hb; decide +kernel)
        exact hb 1 (by decide +kernel) (by decide +kernel) (by decide +kernel)
    | 3, _ =>
      rw [show secType objectB 3 = 4 by decide +kernel] at hb
      rcases hb with hb | hb <;> revert hb <;> decide +kernel
    | 4, _ =>
      rw [show secType objectB 4 = 15 by decide +kernel] at hb
      rcases hb with hb | hb <;> revert hb <;> decide +kernel
theorem good_note : num objectB 6 2 = 5 ∧ secType objectB 0 = 1 := by decide +kernel

/-- The tiles of the job that is placed have no wpop of its contexts; its sections of data lie apart in its window. -/
theorem witness_JobEvents_premises : let s := besides jobC none;
    inGrid jobC ∧ (∀ tile ∈ jobC.tiles, ∀ p ∈ (s.tile tile).wpops, p.1 ∉ jobC.whos) ∧ jobC.logical 0 = some (0, 0, 0) ∧
    (let j := { jobC with obj := { objA with data := [(0, 16, [1, 2]), (0, 18, [3]), (1, 16, [4])] } };
      let s := besides j none;
      s.job? j.id = some j ∧ s.waitsPlace j = true ∧ s.plan j = .place ∧ j.images = [] ∧ s.memOk ∧ j.swbase + j.swcnt ≤ 256 ∧
      (∀ e ∈ j.obj.data, e.2.1 + e.2.2.length ≤ 4096 * j.swcnt) ∧ j.roleAt 0 = some roleA ∧
      j.obj.data.Pairwise fun d e => d.1 ≠ e.1 ∨ d.2.1 + d.2.2.length ≤ e.2.1 ∨ e.2.1 + e.2.2.length ≤ d.2.1) := by
  unfold inGrid State.memOk; decide +kernel

/-- Requests of other members come in, wait at their port, or end before a link. -/
theorem witness_visits_kinds :
    (let s := (running { jobA with
        group := 5
        gsize := 2 }).updTile 1 fun y => { y with rqs := [(1, RQueue.init)] };
      s.visit 5 0 1 = .comes ∧ (portsDown s).visit 5 0 1 = .wait ∧ (∃ info, (doorsDown s).visit 5 0 1 = .ended info) ∧
        (portsDown s).memberJob 5 0 = s.memberJob 5 0 ∧ (doorsDown s).memberJob 5 0 = s.memberJob 5 0) ∧
    (let j := { jobA with
        group := 5
        gsize := 2 };
      let s := running j;
      homeOf (j.tileLoc (there 64)) = 1 ∧ s.visit 5 1 1 = .comes ∧ (portsDown s).visit 5 1 1 = .wait ∧
        (∃ info, (doorsDown s).visit 5 1 1 = .ended info) ∧ (portsDown s).memberJob 5 0 = some j ∧ (doorsDown s).memberJob 5 0 = some j) := by
  obtain ⟨a, b, c⟩ := witness_visits ((running { jobA with group := 5, gsize := 2 }).updTile 1 fun y => { y with rqs := [(1, RQueue.init)] })
    5 0 rfl rfl
  obtain ⟨d, e, f⟩ := witness_visits (running { jobA with group := 5, gsize := 2 }) 5 1 rfl rfl
  exact ⟨⟨a, b, c, rfl, rfl⟩, by decide +kernel, d, e, f, by decide +kernel, by decide +kernel⟩

end Sys2Proof.Tests
end

section
/-! SUPPORT. What the decoder of move words accepts (R22 to R33): one lemma for each of its functions. -/

namespace Sys2Proof

/-! ### Accepted words -/

theorem lowest_eq_none_iff {l : List Nat} : lowest l = none ↔ l = [] := by
  cases l with
  | nil => simp [lowest]
  | cons i rest => cases h : lowest rest <;> simp [lowest, h]

theorem illegalSlot_eq_none_iff {vs : List SlotView} :
    illegalSlot vs = none ↔ literalFaults 0 0 vs = [] ∧ moveFaults 0 vs = [] := by
  rw [illegalSlot, lowest_eq_none_iff, List.append_eq_nil_iff]

theorem decodeMoves_eq_ok_iff {w : W256} {m : MoveWord} : decodeMoves w = .ok m ↔
    illegalSlot (views w) = none ∧ w.toNat / 2 ^ 232 % 2 ^ 8 = 0 ∧ wordOf w = m := by
  cases h : illegalSlot (views w) with
  | some i => simp [decodeMoves, h]
  | none =>
    simp only [decodeMoves, h]
    split
    · next hx => exact ⟨nofun, fun ⟨_, hz, _⟩ => absurd hz hx⟩
    · next hx => exact ⟨fun e => ⟨trivial, not_not.mp hx, Except.ok.inj e⟩, fun ⟨_, _, e⟩ => congrArg _ e⟩

theorem decodeWord_eq_ok_iff {w : W256} {m : MoveWord} : decodeWord w = .ok m ↔
    decodeMoves w = .ok m ∧ unassignedFrom 0 (m.slots.map Slot.view) = none := by
  cases h : decodeMoves w with
  | error e => simp [decodeWord, h]
  | ok m' =>
    cases hu : unassignedFrom 0 (m'.slots.map Slot.view) with
    | none =>
      simp only [decodeWord, h, hu, Except.ok.injEq]
      exact ⟨fun e => ⟨e, e ▸ hu⟩, And.left⟩
    | some i =>
      simp only [decodeWord, h, hu, Except.ok.injEq, reduceCtorEq, false_iff]
      rintro ⟨rfl, hnone⟩
      simp [hu] at hnone

/-! ### Slots with all their fields -/

theorem SlotView.slot_eq_move_iff {v : SlotView} {gd : Guard} {src : Source} {dst : Dest} :
    v.slot = .move gd src dst ↔ v = .move gd (some src) (some dst) := by
  cases v with
  | empty => simp [slot]
  | lit x => simp [slot]
  | move g a b => cases a <;> cases b <;> simp [slot]

/-- (R29 to R31) A list of slots gives no fault when its first slot has no reserved field and no clash with a later one, and
the others give none. -/
theorem moveFaults_cons_eq_nil_iff {i : Nat} {v : SlotView} {rest : List SlotView} : moveFaults i (v :: rest) = [] ↔
    v.slot.view = v ∧ (∀ gd src d, v = .move gd src (some d) → clashesLater gd d rest = false) ∧
      moveFaults (i + 1) rest = [] := by
  cases v with
  | empty => simp [moveFaults, SlotView.slot, Slot.view]
  | lit x => simp [moveFaults, SlotView.slot, Slot.view]
  | move gd src dst =>
    cases src <;> cases dst <;> simp [moveFaults, SlotView.slot, Slot.view]

theorem map_view_slot_of_moveFaults_eq_nil {vs : List SlotView} {i : Nat} (h : moveFaults i vs = []) :
    (vs.map SlotView.slot).map Slot.view = vs := by
  induction vs generalizing i with
  | nil => rfl
  | cons v rest ih =>
    obtain ⟨hv, -, hrest⟩ := moveFaults_cons_eq_nil_iff.mp h
    rw [List.map_cons, List.map_cons, hv, ih hrest]

/-! ### Clashes -/

@[simp] theorem Dest.clashes_self (d : Dest) : d.clashes d = true := by simp [clashes]

theorem Guard.excludes_iff {g h : Guard} : g.excludes h = true ↔ g.flag = h.flag ∧ g.inv ≠ h.inv := by
  simp [excludes]

theorem excludes_of_clashesLater_eq_false {vs : List SlotView} {g h : Guard} {b : Option Source} {d e : Dest}
    (hvs : clashesLater g d vs = false) (hmem : .move h b (some e) ∈ vs) (hde : d.clashes e = true) :
    g.excludes h = true := by
  induction vs with
  | nil => simp at hmem
  | cons v rest ih =>
    obtain rfl | hmem := List.mem_cons.mp hmem
    · rw [clashesLater, hde, Bool.true_and, Bool.or_eq_false_iff, Bool.not_eq_false'] at hvs
      exact hvs.1
    · refine ih ?_ hmem
      cases v with
      | empty => exact hvs
      | lit x => exact hvs
      | move gd src dst =>
        cases dst with
        | none => exact hvs
        | some d' => exact (Bool.or_eq_false_iff.mp hvs).2

/-- (R31) In slots without a fault, two moves whose destinations clash have guards of which one only can be 1. -/
theorem excludes_of_moveFaults_eq_nil {vs : List SlotView} {k i j : Nat} {g h : Guard} {a b : Option Source} {d e : Dest}
    (hvs : moveFaults k vs = []) (hij : i < j) (hi : vs[i]? = some (.move g a (some d)))
    (hj : vs[j]? = some (.move h b (some e))) (hde : d.clashes e = true) : g.excludes h = true := by
  induction vs generalizing k i j with
  | nil => simp at hi
  | cons v rest ih =>
    obtain ⟨-, hclash, hrest⟩ := moveFaults_cons_eq_nil_iff.mp hvs
    obtain ⟨j, rfl⟩ : ∃ n, j = n + 1 := ⟨j - 1, by omega⟩
    rw [List.getElem?_cons_succ] at hj
    cases i with
    | zero => exact excludes_of_clashesLater_eq_false (hclash g a d (by simpa using hi)) (List.mem_of_getElem? hj) hde
    | succ i => exact ih hrest (Nat.lt_of_succ_lt_succ hij) (by simpa using hi) hj

/-! ### Fields of a slot -/

theorem lt_of_sourceOf_eq_v {n : Nat} {r : BitVec 10} (h : sourceOf n = some (.v r)) : r.toNat < 768 := by
  unfold sourceOf at h
  split_ifs at h <;> simp only [Option.some.injEq, reduceCtorEq, Source.v.injEq] at h
  rw [← h, BitVec.toNat_ofNat]
  omega

theorem ne_of_sourceOf_eq_imm {n : Nat} {c : BitVec 11} (h : sourceOf n = some (.imm c)) : c.toNat ≠ 0x7FF := by
  unfold sourceOf at h
  split_ifs at h <;> simp only [Option.some.injEq, reduceCtorEq, Source.imm.injEq] at h
  rw [← h, BitVec.toNat_ofNat]
  omega

theorem lt_of_destOf_eq_v {n : Nat} {r : BitVec 10} (h : destOf n = some (.v r)) : r.toNat < 768 := by
  unfold destOf at h
  split_ifs at h <;> simp only [Option.some.injEq, reduceCtorEq, Dest.v.injEq] at h
  rw [← h, BitVec.toNat_ofNat]
  omega

/-- (R23, R24) A slot that decode takes for a move holds the guard, source and destination of its bits, and its GUARD is not
that of an empty slot. -/
theorem slot_viewOf_eq_move {isLit : Bool} {x : Nat} {gd : Guard} {src : Source} {dst : Dest}
    (h : (viewOf isLit x).slot = .move gd src dst) : x / 2 ^ 24 % 32 ≠ 16 ∧
      gd = { inv := x / 2 ^ 28 % 2 == 1, flag := BitVec.ofNat 4 (x / 2 ^ 24) } ∧
      sourceOf (x / 2 ^ 12 % 2 ^ 12) = some src ∧ destOf (x % 2 ^ 12) = some dst := by
  rw [SlotView.slot_eq_move_iff, viewOf] at h
  split at h
  · cases h
  · split at h
    · cases h
    · next hne =>
      injection h with hgd hsrc hdst
      exact ⟨hne, hgd.symm, hsrc, hdst⟩

theorem guardOk_slot_viewOf (isLit : Bool) (x : Nat) : (viewOf isLit x).slot.guardOk = true := by
  cases h : (viewOf isLit x).slot with
  | empty => rfl
  | lit y => rfl
  | move gd src dst =>
    obtain ⟨hne, rfl, -, -⟩ := slot_viewOf_eq_move h
    have hguard : x / 2 ^ 28 % 2 = 0 ∨ x / 2 ^ 24 % 2 ^ 4 ≠ 0 := by omega
    simpa [Slot.guardOk, BitVec.toNat_eq] using hguard

theorem sourceOk_slot_viewOf (isLit : Bool) (x : Nat) : (viewOf isLit x).slot.sourceOk = true := by
  cases h : (viewOf isLit x).slot with
  | empty => rfl
  | lit y => rfl
  | move gd src dst =>
    obtain ⟨-, -, hsrc, -⟩ := slot_viewOf_eq_move h
    cases src with
    | v r => simpa [Slot.sourceOk] using lt_of_sourceOf_eq_v hsrc
    | imm c => simpa [Slot.sourceOk] using ne_of_sourceOf_eq_imm hsrc
    | _ => rfl

theorem destOk_slot_viewOf (isLit : Bool) (x : Nat) : (viewOf isLit x).slot.destOk = true := by
  cases h : (viewOf isLit x).slot with
  | empty => rfl
  | lit y => rfl
  | move gd src dst =>
    obtain ⟨-, -, -, hdst⟩ := slot_viewOf_eq_move h
    cases dst with
    | v r => simpa [Slot.destOk] using lt_of_destOf_eq_v hdst
    | _ => rfl

/-! ### The slots and the header of a word -/

@[simp] theorem length_viewsFrom (k x lits : Nat) : (viewsFrom k x lits).length = k := by
  induction k generalizing x lits with
  | zero => rfl
  | succ k ih => rw [viewsFrom, List.length_cons, ih]

theorem exists_viewOf_of_mem_viewsFrom {k x lits : Nat} {v : SlotView} (h : v ∈ viewsFrom k x lits) :
    ∃ isLit y, v = viewOf isLit y := by
  induction k generalizing x lits with
  | zero => simp [viewsFrom] at h
  | succ k ih =>
    obtain rfl | h := List.mem_cons.mp h
    · exact ⟨_, _, rfl⟩
    · exact ih h

theorem all_slots_wordOf (w : W256) {ok : Slot → Bool} (h : ∀ isLit x, ok (viewOf isLit x).slot = true) :
    (wordOf w).slots.all ok = true := by
  simp only [wordOf, List.all_map, List.all_eq_true]
  intro v hv
  obtain ⟨isLit, x, rfl⟩ := exists_viewOf_of_mem_viewsFrom hv
  exact h isLit x

theorem slotsOk_wordOf (w : W256) : (wordOf w).slotsOk = true := by
  simp [MoveWord.slotsOk, wordOf, views]

theorem sc_wordOf (w : W256) : (wordOf w).sc = w.extractLsb' 252 4 := by
  simp [wordOf, BitVec.extractLsb', Nat.shiftRight_eq_div_pow]

theorem keep_wordOf (w : W256) : (wordOf w).keep = w.getLsbD 243 := by
  simp [wordOf, BitVec.getLsbD, Nat.testBit_eq_decide_div_mod_eq, beq_eq_decide]

theorem bank_wordOf (w : W256) : (wordOf w).bank = w.extractLsb' 240 3 := by
  simp [wordOf, BitVec.extractLsb', Nat.shiftRight_eq_div_pow]

/-- (R22, R26) XH and KIND are the bits that decode tests together. -/
theorem extension_eq_zero {w : W256} (h : w.toNat / 2 ^ 232 % 2 ^ 8 = 0) :
    w.extractLsb' 236 4 = 0 ∧ w.extractLsb' 232 4 = 0 := by
  have hxh : w.toNat / 2 ^ 236 % 2 ^ 4 = 0 := by omega
  have hkind : w.toNat / 2 ^ 232 % 2 ^ 4 = 0 := by omega
  constructor
  · simpa [BitVec.toNat_eq, Nat.shiftRight_eq_div_pow] using hxh
  · simpa [BitVec.toNat_eq, Nat.shiftRight_eq_div_pow] using hkind

/-! ### Well-formed words -/

/-- (R22 to R31) What no slot makes illegal is well-formed where its ports and result slots are assigned. -/
theorem wf_wordOf {w : W256} (hlegal : illegalSlot (views w) = none)
    (hassigned : unassignedFrom 0 ((wordOf w).slots.map Slot.view) = none) : (wordOf w).wf = true := by
  obtain ⟨hlit, hmove⟩ := illegalSlot_eq_none_iff.mp hlegal
  have hviews : (wordOf w).slots.map Slot.view = views w := map_view_slot_of_moveFaults_eq_nil hmove
  have hliterals : (wordOf w).literalsOk = true := by rw [MoveWord.literalsOk, hviews, hlit]; rfl
  have hclash : (wordOf w).clashFree = true := by rw [MoveWord.clashFree, hviews, hmove]; rfl
  have hports : (wordOf w).assignedOk = true := by rw [MoveWord.assignedOk, hassigned]; rfl
  simp only [MoveWord.wf, Bool.and_eq_true]
  exact ⟨⟨⟨⟨⟨⟨slotsOk_wordOf w, all_slots_wordOf w guardOk_slot_viewOf⟩, all_slots_wordOf w sourceOk_slot_viewOf⟩,
    all_slots_wordOf w destOk_slot_viewOf⟩, hliterals⟩, hclash⟩, hports⟩

/-- Settles O13: the decoder accepts only words without a fault, whose views keep every field; a clash of two moves is a
fault of the lower slot. -/
theorem decodingIsStrict : Obligations.DecodingIsStrict := by
  refine ⟨fun w m hdec => ?_, fun w i j g h a b d hij hi hj hguards m hdec => ?_⟩
  · obtain ⟨hmoves, hassigned⟩ := decodeWord_eq_ok_iff.mp hdec
    obtain ⟨hlegal, hext, rfl⟩ := decodeMoves_eq_ok_iff.mp hmoves
    obtain ⟨hxh, hkind⟩ := extension_eq_zero hext
    exact ⟨wf_wordOf hlegal hassigned, hxh, hkind, sc_wordOf w, keep_wordOf w, bank_wordOf w⟩
  · obtain ⟨hmoves, -⟩ := decodeWord_eq_ok_iff.mp hdec
    obtain ⟨hlegal, -⟩ := decodeMoves_eq_ok_iff.mp hmoves
    obtain ⟨-, hmove⟩ := illegalSlot_eq_none_iff.mp hlegal
    exact hguards (Guard.excludes_iff.mp (excludes_of_moveFaults_eq_nil hmove hij hi hj d.clashes_self))

end Sys2Proof
end

section
/-! SUPPORT. The integer forms of inta and intb (R107 to R109): every start delivers what the form's row reads, row by row,
then the statements about them. -/

namespace Sys2Proof.Machine

/-! ### Starting a form -/

/-- (R107) Functions that agree at every width agree as forms. -/
theorem intResult_eq_atWidth {f g : IntFn} (h : ∀ n x y, f n x y = g n x y) (w : Bool) (a b : W64) :
    intResult w f a b = atWidth w g a b := by
  obtain rfl : f = g := funext fun n => funext fun x => funext fun y => h n x y
  rfl

/-- (R44, R107) A form of a `.w` and a full width starts what the manual's function gives. -/
theorem startInt_eq_next {f g : IntFn} {u : IntUnit} {w : Bool} {lat : Nat} {s : State} (h : ∀ n x y, f n x y = g n x y) :
    startInt u w lat f s =
      .next (s.startFixed u.num lat (pairRec (atWidth w g (s.opPort64 u.num 0) s.opT64)) Effects.none) := by
  rw [startInt, intResult_eq_atWidth h]; rfl

/-- A full-width form that delivers one value. -/
theorem startInt_plain_eq_next {f : (n : Nat) → BitVec n → BitVec n → BitVec n} {u : IntUnit} {lat : Nat} {s : State} {v : W64}
    (h : f 64 (s.opPort64 u.num 0) s.opT64 = v) :
    startInt u false lat (intPlain f) s = .next (s.startFixed u.num lat (pairRec (only v)) Effects.none) := by
  rw [← h]; rfl

theorem rec64_eq_pairRec (v : W64) : rec64 v = pairRec (only v) := by
  simp [rec64, pairRec, only]

theorem startInt3_eq_next {f : W64 → W64 → W64 → W64} {u : IntUnit} {s : State} {v : W64}
    (h : f (s.opPort64 u.num 0) s.opT64 (s.opPort64 u.num 1) = v) :
    startInt3 u f s = .next (s.startFixed u.num 1 (pairRec (only v)) Effects.none) := by
  rw [startInt3, h, rec64_eq_pairRec]

theorem startIntDiv_eq_next {f g : IntFn} {u : IntUnit} {w : Bool} {s : State} (h : ∀ n x y, f n x y = g n x y) :
    startIntDiv u w f s =
      .next (s.startDiv u.num (if w then 22 else 38) (pairRec (atWidth w g (s.opPort64 u.num 0) s.opT64))) := by
  rw [startIntDiv, intResult_eq_atWidth h]; rfl

/-! ### Sums and differences -/

section
variable {n : Nat}

theorem ofNat_eq_twoBits {p q : Prop} [Decidable p] [Decidable q] {b0 b1 : Bool} (h0 : p ↔ b0 = true) (h1 : q ↔ b1 = false) :
    BitVec.ofNat n ((if p then 1 else 0) + if q then 0 else 2) = twoBits n b0 b1 := by
  cases b0 <;> cases b1 <;> simp [h0, h1, twoBits, BitVec.ofNat_add_ofNat]

theorem toInt_add_eq_iff (x y : BitVec n) : (x + y).toInt = x.toInt + y.toInt ↔ x.saddOverflow y = false := by
  refine ⟨fun h => ?_, fun h => BitVec.toInt_add_of_not_saddOverflow (by simp [h])⟩
  have hhi := (x + y).toInt_lt
  have hlo := (x + y).le_toInt
  rw [h] at hhi hlo
  simp [BitVec.saddOverflow, hhi, hlo]

theorem toInt_sub_eq_iff (x y : BitVec n) : (x - y).toInt = x.toInt - y.toInt ↔ x.ssubOverflow y = false := by
  refine ⟨fun h => ?_, fun h => BitVec.toInt_sub_of_not_ssubOverflow (by simp [h])⟩
  have hhi := (x - y).toInt_lt
  have hlo := (x - y).le_toInt
  rw [h] at hhi hlo
  simp [BitVec.ssubOverflow, hhi, hlo]

theorem addAux_eq (n : Nat) (x y : BitVec n) :
    addAux n x y = (x + y, twoBits n (BitVec.uaddOverflow x y) (BitVec.saddOverflow x y)) := by
  rw [addAux, ofNat_eq_twoBits (decide_eq_true_iff (p := 2 ^ n ≤ x.toNat + y.toNat)).symm (toInt_add_eq_iff x y)]
  rfl

theorem subAux_eq (n : Nat) (x y : BitVec n) :
    subAux n x y = (x - y, twoBits n (x.ult y) (BitVec.ssubOverflow x y)) := by
  rw [subAux, ofNat_eq_twoBits BitVec.ult_iff_toNat_lt.symm (toInt_sub_eq_iff x y)]

/-! ### Products -/

/-- The high half of a two's-complement number of twice the width. -/
theorem extractLsb'_ofInt_high (p : Int) : (BitVec.ofInt (2 * n) p).extractLsb' n n = BitVec.ofInt n (p / 2 ^ n) := by
  have hpow : (2 : Int) ^ (2 * n) = 2 ^ n * 2 ^ n := by rw [two_mul, pow_add]
  have hdecomp : p / 2 ^ n = p % 2 ^ (2 * n) / 2 ^ n + 2 ^ n * (p / 2 ^ (2 * n)) := by
    conv_lhs => rw [← Int.emod_add_mul_ediv p (2 ^ (2 * n)), hpow, mul_assoc]
    rw [Int.add_mul_ediv_left _ _ (by positivity), hpow]
  apply BitVec.eq_of_toNat_eq
  rw [BitVec.extractLsb'_toNat, BitVec.toNat_ofInt, BitVec.toNat_ofInt, hdecomp, Nat.shiftRight_eq_div_pow]
  obtain ⟨r, hr⟩ := Int.eq_ofNat_of_zero_le (Int.emod_nonneg p (b := 2 ^ (2 * n)) (by positivity))
  push_cast
  rw [Int.add_mul_emod_self_left, hr]
  norm_cast

/-- (R107) The high half of a signed product, as the manual reads it. -/
theorem ofInt_mul_div_eq_extractLsb' (x y : BitVec n) : BitVec.ofInt n (x.toInt * y.toInt / 2 ^ n) =
    (x.signExtend (2 * n) * y.signExtend (2 * n)).extractLsb' n n := by
  rw [← extractLsb'_ofInt_high, BitVec.ofInt_mul]; rfl

/-- (R107) The high half of an unsigned product, as the manual reads it. -/
theorem ofNat_mul_div_eq_extractLsb' (a b : W64) :
    BitVec.ofNat 64 (a.toNat * b.toNat / 2 ^ 64) = (a.zeroExtend 128 * b.zeroExtend 128).extractLsb' 64 64 := by
  apply BitVec.eq_of_toNat_eq
  have hlt : a.toNat * b.toNat < 2 ^ 64 * 2 ^ 64 := Nat.mul_lt_mul'' a.isLt b.isLt
  simp only [BitVec.extractLsb'_toNat, BitVec.toNat_mul, BitVec.toNat_setWidth, BitVec.toNat_ofNat, Nat.shiftRight_eq_div_pow]
  rw [Nat.mod_eq_of_lt (a := a.toNat) (by omega), Nat.mod_eq_of_lt (a := b.toNat) (by omega),
    Nat.mod_eq_of_lt (b := 2 ^ 128) (by omega)]

/-! ### Minimum, maximum and magnitude -/

/-- Of two words that differ, one is less than the other; of equal ones, either is taken. -/
theorem ite_slt_eq {a b c d : BitVec n} (h : a = b → c = d) :
    (if a.slt b then c else d) = if a.toInt ≤ b.toInt then c else d := by
  simp only [BitVec.slt_iff_toInt_lt]
  rcases eq_or_ne a b with rfl | hne
  · simp [h]
  · simp only [le_iff_lt_or_eq, BitVec.toInt_inj, hne, or_false]

theorem ite_ult_eq {a b c d : BitVec n} (h : a = b → c = d) :
    (if a.ult b then c else d) = if a.toNat ≤ b.toNat then c else d := by
  simp only [BitVec.ult_iff_toNat_lt]
  rcases eq_or_ne a b with rfl | hne
  · simp [h]
  · simp only [le_iff_lt_or_eq, BitVec.toNat_inj, hne, or_false]

theorem ite_bne_zero_eq (a b c : W64) : (if b != 0 then a else c) = if b ≠ 0 then a else c := by
  simp only [bne_iff_ne]

theorem bit64_bne_eq (a b : BitVec n) : (bit64 (a != b) : W64) = if decide (a ≠ b) then 1 else 0 := by
  simp [bit64]

theorem ofNat_natAbs_toInt (b : BitVec n) : BitVec.ofNat n b.toInt.natAbs = if b.toInt < 0 then -b else b := by
  rw [← BitVec.ofInt_natCast]
  split
  · rw [Int.ofNat_natAbs_of_nonpos (by omega), BitVec.ofInt_neg, BitVec.ofInt_toInt]
  · rw [Int.natAbs_of_nonneg (by omega), BitVec.ofInt_toInt]

/-! ### Counts of bits -/

theorem ofNat_leadingZeros (b : W64) : BitVec.ofNat 64 (leadingZeros b) = b.clz := by
  rw [leadingZeros]
  split
  case isTrue h => exact (BitVec.clz_eq_iff_eq_zero.mpr h).symm
  case isFalse h =>
    have hlt : b.clz.toNat < 64 := BitVec.clz_lt_iff_ne_zero.mpr h
    have hlog : b.toNat.log2 = 63 - b.clz.toNat := by
      rw [Nat.log2_eq_iff (by simpa [BitVec.toNat_eq] using h)]
      refine ⟨BitVec.two_pow_sub_clz_le_toNat_of_ne_zero (by decide) h, ?_⟩
      rw [show 63 - b.clz.toNat + 1 = 64 - b.clz.toNat by omega]
      exact BitVec.toNat_lt_two_pow_sub_clz
    rw [hlog, Nat.sub_sub_self (by omega), BitVec.ofNat_toNat, BitVec.setWidth_eq]

theorem ofNat_trailingZeros (b : W64) : BitVec.ofNat 64 (trailingZeros b) = b.reverse.clz := by
  rw [← BitVec.ctz_eq_reverse_clz, trailingZeros]
  by_cases h : b = 0
  · have hnone : (List.range 64).find? (fun i => b.getLsbD i) = none := by simp [h]
    rw [hnone, Option.getD_none, BitVec.ctz_eq_reverse_clz]
    exact (BitVec.clz_eq_iff_eq_zero.mpr (BitVec.reverse_eq_zero_iff.mpr h)).symm
  · have hlt : b.ctz.toNat < 64 := BitVec.ctz_lt_iff_ne_zero.mpr h
    have hfind : (List.range 64).find? (fun i => b.getLsbD i) = some b.ctz.toNat := by
      rw [List.find?_range_eq_some]
      exact ⟨BitVec.getLsbD_true_ctz_of_ne_zero h, List.mem_range.mpr hlt,
        fun j hj => by simp [BitVec.getLsbD_false_of_lt_ctz hj]⟩
    rw [hfind, Option.getD_some, BitVec.ofNat_toNat, BitVec.setWidth_eq]

theorem popCount_eq_cpopNatRec (v : BitVec n) (k : Nat) : popCount v k = v.cpopNatRec k 0 := by
  induction k with
  | zero => rfl
  | succ k ih =>
    rw [popCount, ih, BitVec.cpopNatRec_succ, BitVec.cpopNatRec_eq (acc := _ + _), Nat.zero_add, Nat.add_comm]
    cases v.getLsbD k <;> rfl

/-! ### Reordered bits and bytes -/

/-- The bits of a list of truth values read with the first as the highest. -/
theorem testBit_foldl_range (p : Nat → Bool) (k i : Nat) :
    ((List.range k).foldl (fun a j => 2 * a + if p j then 1 else 0) 0).testBit i = (decide (i < k) && p (k - 1 - i)) := by
  induction k generalizing i with
  | zero => simp
  | succ k ih =>
    have hbit : (if p k then 1 else 0) < 2 ^ 1 := by split <;> decide
    rw [List.range_succ, List.foldl_append, List.foldl_cons, List.foldl_nil, ← pow_one 2, Nat.testBit_two_pow_mul_add _ hbit,
      pow_one]
    cases i with
    | zero => cases h : p k <;> simp [h]
    | succ i =>
      rw [if_neg (by omega), Nat.add_sub_cancel, ih]
      simp [Nat.sub_sub, Nat.add_comm 1 i]

theorem brev64_eq (b : W64) : brev64 b = b.reverse := by
  apply BitVec.eq_of_getLsbD_eq
  intro i hi
  rw [brev64, BitVec.getLsbD_ofNat, testBit_foldl_range, BitVec.getLsbD_reverse, BitVec.getMsbD]
  simp [hi]

theorem testBit_leNat (l : List Byte) (i : Nat) : (leNat l).testBit i = (l.getD (i / 8) 0).getLsbD (i % 8) := by
  induction l generalizing i with
  | nil => simp [leNat]
  | cons v l ih =>
    have hcat : leNat (v :: l) = 2 ^ 8 * leNat l + v.toNat := by rw [leNat]; omega
    rw [hcat, Nat.testBit_two_pow_mul_add _ v.isLt]
    split
    case isTrue h => rw [Nat.div_eq_of_lt h, Nat.mod_eq_of_lt h]; rfl
    case isFalse h =>
      obtain ⟨k, rfl⟩ := Nat.exists_eq_add_of_le (not_lt.mp h)
      rw [ih, Nat.add_sub_cancel_left, Nat.add_div_left _ (by decide), Nat.add_mod_left]
      rfl

theorem length_leBytes (k v : Nat) : (leBytes k v).length = k := by
  induction k generalizing v with
  | zero => rfl
  | succ k ih => rw [leBytes, List.length_cons, ih]

theorem getD_leBytes {k j : Nat} (v : Nat) (h : j < k) : (leBytes k v).getD j 0 = BitVec.ofNat 8 (v / 256 ^ j) := by
  induction k generalizing v j with
  | zero => omega
  | succ k ih =>
    cases j with
    | zero => simp [leBytes]
    | succ j => rw [leBytes, List.getD_cons_succ, ih _ (by omega), Nat.div_div_eq_div_mul, Nat.pow_succ, Nat.mul_comm]

theorem bswap64_eq (b : W64) : bswap64 b = bytesReversed b := by
  apply BitVec.eq_of_getLsbD_eq
  intro i hi
  have hget : (leBytes 8 b.toNat).reverse.getD (i / 8) 0 = BitVec.ofNat 8 (b.toNat / 256 ^ (7 - i / 8)) := by
    rw [List.getD_eq_getElem _ _ (by simp [length_leBytes]; omega), List.getElem_reverse, ← List.getD_eq_getElem (d := 0),
      length_leBytes, getD_leBytes _ (by omega)]
  rw [bswap64, bytesReversed, BitVec.getLsbD_ofFnLE, BitVec.getLsbD_ofNat, testBit_leNat, hget, dif_pos hi,
    BitVec.getLsbD_ofNat, show (256 : Nat) = 2 ^ 8 from rfl, ← Nat.pow_mul, Nat.testBit_div_two_pow]
  simp [hi, Nat.mod_lt, Nat.add_comm, BitVec.getLsbD]

/-! ### Fields of bits -/

theorem getLsbD_onesBelow {i : Nat} (l : Nat) (hi : i < 64) : (onesBelow l).getLsbD i = decide (i < l) := by
  rw [onesBelow, BitVec.getLsbD_ofNat, Nat.testBit_two_pow_sub_one]
  simp [hi]

theorem lt_fieldLen_iff {i : Nat} (b : W64) (hi : i < 64) : i < fieldLen b ↔ i < (b.extractLsb' 8 7).toNat := by
  rw [fieldLen]; omega

theorem bext64_eq (a b : W64) : bext64 a b = fieldOf a b := by
  apply BitVec.eq_of_getLsbD_eq
  intro i hi
  rw [bext64, fieldOf, BitVec.getLsbD_ofFnLE, dif_pos hi, BitVec.getLsbD_and, BitVec.getLsbD_ushiftRight,
    getLsbD_onesBelow _ hi, Bool.and_comm, fieldPos]
  simp only [lt_fieldLen_iff b hi]

theorem bins64_eq (a b c : W64) : bins64 a b c = fieldInto a b c := by
  apply BitVec.eq_of_getLsbD_eq
  intro i hi
  have hmask : (onesBelow (fieldLen b) <<< fieldPos b).getLsbD i =
      decide (fieldPos b ≤ i ∧ i < fieldPos b + (b.extractLsb' 8 7).toNat) := by
    rw [BitVec.getLsbD_shiftLeft, getLsbD_onesBelow _ (by omega)]
    simp only [lt_fieldLen_iff b (show i - fieldPos b < 64 by omega), hi, decide_true, Bool.true_and, ← decide_not,
      ← Bool.decide_and]
    exact decide_eq_decide.mpr (by omega)
  simp only [bins64, fieldInto, BitVec.getLsbD_ofFnLE, dif_pos hi, BitVec.getLsbD_or, BitVec.getLsbD_and, BitVec.getLsbD_not,
    hmask]
  rw [BitVec.getLsbD_shiftLeft, ← fieldPos]
  generalize fieldPos b = p, (b.extractLsb' 8 7).toNat = l
  by_cases h : p ≤ i ∧ i < p + l
  · simp [h, hi, h.1.not_gt]
  · simp [if_neg h, decide_eq_false h, hi]

theorem setWidth_extBits (b : W64) (e : ExtWidth) : b.setWidth (extBits e) = b.extractLsb' 0 (extBits e) :=
  BitVec.setWidth_eq_extractLsb' (by cases e <;> decide)

theorem execIntSext_eq_next (u : IntUnit) (e : ExtWidth) (s : State) : execIntSext u e s =
    .next (s.startFixed u.num 1 (pairRec (only ((s.opT64.extractLsb' 0 (extBits e)).signExtend 64))) Effects.none) :=
  startInt3_eq_next (by rw [setWidth_extBits])

theorem execIntZext_eq_next (u : IntUnit) (e : ExtWidth) (s : State) : execIntZext u e s =
    .next (s.startFixed u.num 1 (pairRec (only ((s.opT64.extractLsb' 0 (extBits e)).setWidth 64))) Effects.none) :=
  startInt3_eq_next (by rw [setWidth_extBits])

/-! ### Divisions -/

theorem ofInt_tdiv (x y : BitVec n) : BitVec.ofInt n (x.toInt.tdiv y.toInt) = x.sdiv y :=
  BitVec.eq_of_toInt_eq (by rw [BitVec.toInt_ofInt, BitVec.toInt_sdiv])

theorem ofInt_tmod (x y : BitVec n) : BitVec.ofInt n (x.toInt.tmod y.toInt) = x.srem y := by
  rw [← BitVec.toInt_srem, BitVec.ofInt_toInt]

theorem srem_allOnes (x : BitVec n) : x.srem (BitVec.allOnes n) = 0 := by
  rw [← ofInt_tmod]
  rcases n with _ | n
  · exact BitVec.eq_of_zero_length rfl
  · rw [BitVec.toInt_allOnes, if_pos n.succ_pos, Int.tmod_neg, Int.tmod_one]; rfl

theorem sdivRem_eq (n : Nat) (x y : BitVec n) : sdivRem n x y = signedDiv n x y := by
  rw [sdivRem, signedDiv, ofInt_tdiv, ofInt_tmod]
  split
  · rfl
  · split
    case isTrue h =>
      obtain ⟨rfl, rfl⟩ := h
      rw [srem_allOnes, ← BitVec.neg_one_eq_allOnes, BitVec.intMin_sdiv_neg_one]
    case isFalse => rfl

theorem udivRem_eq (n : Nat) (x y : BitVec n) : udivRem n x y = unsignedDiv n x y := by
  rw [udivRem, unsignedDiv, ← BitVec.toNat_udiv, ← BitVec.toNat_umod, BitVec.ofNat_toNat, BitVec.ofNat_toNat, BitVec.setWidth_eq,
    BitVec.setWidth_eq]

end

/-! ### The statements -/

/-- Settles O1, form by form: each starts the values of its row. -/
theorem integerForms : Obligations.IntegerForms := by
  intro i u lat f h s
  cases i with
  | intAdd u w => cases h; exact startInt_eq_next addAux_eq
  | intSub u w => cases h; exact startInt_eq_next subAux_eq
  | intAnd u => cases h; exact startInt_plain_eq_next rfl
  | intOr u => cases h; exact startInt_plain_eq_next rfl
  | intXor u => cases h; exact startInt_plain_eq_next rfl
  | intAndn u => cases h; exact startInt_plain_eq_next rfl
  | intOrn u => cases h; exact startInt_plain_eq_next rfl
  | intShl u w => cases h; exact startInt_eq_next (fun _ _ _ => rfl)
  | intShr u w => cases h; exact startInt_eq_next (fun _ _ _ => rfl)
  | intSar u w => cases h; exact startInt_eq_next (fun _ _ _ => rfl)
  | intRol u w => cases h; exact startInt_eq_next (fun _ _ _ => congrArg only BitVec.rotateLeft_mod_eq_rotateLeft)
  | intRor u w => cases h; exact startInt_eq_next (fun _ _ _ => congrArg only BitVec.rotateRight_mod_eq_rotateRight)
  | intMul u w => cases h; exact startInt_eq_next (fun _ x y => congrArg (x * y, ·) (ofInt_mul_div_eq_extractLsb' x y))
  | intMulh u w => cases h; exact startInt_eq_next (fun _ x y => congrArg only (ofInt_mul_div_eq_extractLsb' x y))
  | intMulhu u => cases h; exact startInt_plain_eq_next (ofNat_mul_div_eq_extractLsb' _ _)
  | intMin u => cases h; exact startInt_plain_eq_next (ite_slt_eq id)
  | intMinu u => cases h; exact startInt_plain_eq_next (ite_ult_eq id)
  | intMax u => cases h; exact startInt_plain_eq_next (ite_slt_eq Eq.symm)
  | intMaxu u => cases h; exact startInt_plain_eq_next (ite_ult_eq Eq.symm)
  | intAbs u => cases h; exact startInt_plain_eq_next (ofNat_natAbs_toInt _)
  | intSeq u => cases h; exact startInt_plain_eq_next rfl
  | intSne u => cases h; exact startInt_plain_eq_next (bit64_bne_eq _ _)
  | intSlt u => cases h; exact startInt_plain_eq_next rfl
  | intSle u => cases h; exact startInt_plain_eq_next rfl
  | intSltu u => cases h; exact startInt_plain_eq_next rfl
  | intSleu u => cases h; exact startInt_plain_eq_next rfl
  | intSel u => cases h; exact (startInt3_eq_next (ite_bne_zero_eq _ _ _) : execIntSel u s = _)
  | intClz u => cases h; exact (startInt3_eq_next (ofNat_leadingZeros _) : execIntClz u s = _)
  | intCtz u => cases h; exact (startInt3_eq_next (ofNat_trailingZeros _) : execIntCtz u s = _)
  | intPopc u => cases h; exact (startInt3_eq_next (congrArg (BitVec.ofNat 64) (popCount_eq_cpopNatRec _ 64)) : execIntPopc u s = _)
  | intBrev u => cases h; exact (startInt3_eq_next (brev64_eq _) : execIntBrev u s = _)
  | intBswap u => cases h; exact (startInt3_eq_next (bswap64_eq _) : execIntBswap u s = _)
  | intBext u => cases h; exact (startInt3_eq_next (bext64_eq _ _) : execIntBext u s = _)
  | intBins u => cases h; exact (startInt3_eq_next (bins64_eq _ _ _) : execIntBins u s = _)
  | intSext u e => cases e <;> cases h <;> exact execIntSext_eq_next u _ s
  | intZext u e => cases e <;> cases h <;> exact execIntZext_eq_next u _ s
  | _ => cases h

theorem exec_intFpack (u : IntUnit) (s : State) : exec (.intFpack u) s =
    .next (s.startFixed u.num 1 (pairRec (only ((s.self.f.extractLsb' 8 8).setWidth 64))) Effects.none) := by
  rw [← rec64_eq_pairRec]; rfl

theorem exec_intFunpack (u : IntUnit) (s : State) : exec (.intFunpack u) s =
    .next (s.startFixed u.num 1 (pairRec (only ((s.opT64.extractLsb' 0 8).setWidth 64)))
      { Effects.none with flags := some (s.opT64.extractLsb' 0 8) }) := by
  rw [← rec64_eq_pairRec]; rfl

/-- (R84) A landing that writes f8 to f15. -/
theorem Ctx.readF_applyEffects_flags (x : Ctx) (b : BitVec 8) {k : Nat} (hk : k < 16) :
    (x.applyEffects { Effects.none with flags := some b }).readF k = if 8 ≤ k then b.getLsbD (k - 8) else x.readF k := by
  change (k == 0 || (b ++ x.f.extractLsb' 0 8 : BitVec 16).getLsbD k) = _
  rw [BitVec.getLsbD_append]
  split
  case isTrue h => rw [if_neg (by omega)]; simp [Ctx.readF, h]
  case isFalse h => rw [if_pos (by omega), beq_eq_false_iff_ne.mpr (by omega), Bool.false_or]

/-- Settles O2: the quotients and remainders of the model are those of R108; fpack and funpack carry f8 to f15. -/
theorem dividesAndFlagPacking : Obligations.DividesAndFlagPacking := by
  refine ⟨fun i u w f h s => ?_, fun u s => ⟨exec_intFpack u s, _, exec_intFunpack u s, fun x k hk => ?_⟩⟩
  · cases i with
    | intDiv u w => cases h; exact startIntDiv_eq_next sdivRem_eq
    | intDivu u w => cases h; exact startIntDiv_eq_next udivRem_eq
    | intRem u w => cases h; exact startIntDiv_eq_next (fun n x y => congrArg Prod.swap (sdivRem_eq n x y))
    | intRemu u w => cases h; exact startIntDiv_eq_next (fun n x y => congrArg Prod.swap (udivRem_eq n x y))
    | _ => cases h
  · rw [Ctx.readF_applyEffects_flags x _ hk]
    split
    · simp [show k - 8 < 8 by omega]
    · rfl

end Sys2Proof.Machine
end
